-- ==== Sys2Proof/Word.lean ====
section
/-! DEFINITION. The words of the Dornil D4: bytes, 32-bit words and doublewords (R3). -/

namespace Sys2Proof

/-- One byte of storage (R230: a location is one byte). -/
abbrev Byte := BitVec 8

/-- A 32-bit word: a vector lane or an accumulator word (R369, R404). -/
abbrev Half := BitVec 32

/-- A doubleword: a scalar register, an address, a special register (R8). -/
abbrev Word := BitVec 64

end Sys2Proof
end

