-- ==== Sys2Proof/Syntax.lean ====
section
/-! DEFINITION. The syntax: one constructor of Instr for each of the 226 rows of spec/opcode_table.json.
The 131 instructions (R265) carry their fields as R247 to R257 and their chapters lay them out; a field an instruction does not
use is not there. The 95 other rows are steps of the module (spec/95_what_each_step_holds.md); each names the agent that
moves and what reaches the module from outside. -/

namespace Sys2Proof

/-- The sequencing fields NXT, PR and TI of doubleword 0 (R249, R258). -/
structure Seqn where
  nxt : BitVec 3
  pr : BitVec 4
  ti : BitVec 3
  deriving DecidableEq, Repr

/-- The sync fields WSI, WST, SGI and SGN of doubleword 1 (R254). -/
structure Sync where
  wsi : BitVec 8
  wst : BitVec 6
  sgi : BitVec 8
  sgn : BitVec 3
  deriving DecidableEq, Repr

/-- The two-operand integer instructions (R317, R318). -/
structure Alu where
  (d a b : BitVec 5)
  imm : BitVec 16
  (p i w u : Bool)
  deriving DecidableEq, Repr

/-- `clz`, `popc` (R317). -/
structure CntO where
  (d a : BitVec 5)
  w : Bool
  deriving DecidableEq, Repr

/-- `sext` (R317). -/
structure SextO where
  (d a : BitVec 5)
  bit : BitVec 6
  z : Bool
  deriving DecidableEq, Repr

/-- `bfx`, `bfi` (R317). -/
structure BfO where
  (d a : BitVec 5)
  pos : BitVec 6
  len : BitVec 7
  sx : Bool
  deriving DecidableEq, Repr

/-- `sel` (R317). -/
structure SelO where
  (d a b : BitVec 5)
  ps : BitVec 4
  deriving DecidableEq, Repr

/-- `movi` (R317). -/
structure MoviO where
  d : BitVec 5
  imm : BitVec 16
  p : Bool
  hw : BitVec 2
  (kp z : Bool)
  deriving DecidableEq, Repr

/-- `lea` (R317). -/
structure LeaO where
  (d a b : BitVec 5)
  imm : BitVec 16
  p : Bool
  sh : BitVec 3
  deriving DecidableEq, Repr

/-- `cmp` (R317). -/
structure CmpO where
  (d a b : BitVec 5)
  imm : BitVec 16
  (p i w : Bool)
  cc : BitVec 4
  cmb : BitVec 2
  deriving DecidableEq, Repr

/-- `plog` (R317). -/
structure PlogO where
  (d a b : BitVec 5)
  tt : BitVec 4
  deriving DecidableEq, Repr

/-- `pmov` (R317, R325). -/
structure PmovO where
  (d a : BitVec 5)
  dir : BitVec 2
  deriving DecidableEq, Repr

/-- Instructions whose only operand is field A. -/
structure A1 where
  a : BitVec 5
  deriving DecidableEq, Repr

/-- Instructions whose only operand is field D. -/
structure D1 where
  d : BitVec 5
  deriving DecidableEq, Repr

/-- `callx` (R317). -/
structure CallxO where
  a : BitVec 5
  imm : BitVec 16
  p : Bool
  deriving DecidableEq, Repr

/-- `loopset` (R317). -/
structure LoopsetO where
  a : BitVec 5
  imm : BitVec 16
  (p i : Bool)
  lcn : BitVec 2
  deriving DecidableEq, Repr

/-- `mfs` (R317). -/
structure MfsO where
  d : BitVec 5
  srn : BitVec 8
  deriving DecidableEq, Repr

/-- `mts` (R317). -/
structure MtsO where
  a : BitVec 5
  srn : BitVec 8
  deriving DecidableEq, Repr

/-- `trap` (R317). -/
structure TrapO where
  imm : BitVec 16
  p : Bool
  deriving DecidableEq, Repr

/-- `suspend`, `cmt`: LIVE[31:28] and LIVE[27:1] (R317). -/
structure RecO where
  a : BitVec 5
  liveHi : BitVec 4
  liveLo : BitVec 27
  deriving DecidableEq, Repr

/-- `cwb` (R317). -/
structure CwbO where
  (a b : BitVec 5)
  l2 : Bool
  deriving DecidableEq, Repr

/-- `cinv` (R317). -/
structure CinvO where
  (a b : BitVec 5)
  kind : BitVec 2
  deriving DecidableEq, Repr

/-- `ld` (R344). -/
structure LdO where
  (d a b : BitVec 5)
  cls : BitVec 4
  sc : BitVec 3
  ord : BitVec 2
  sp : BitVec 3
  w : BitVec 2
  (sx c h : Bool)
  disp : BitVec 10
  deriving DecidableEq, Repr

/-- `st` (R344). -/
structure StO where
  (d a b : BitVec 5)
  cls : BitVec 4
  sc : BitVec 3
  ord : BitVec 2
  sp : BitVec 3
  w : BitVec 2
  h : Bool
  disp : BitVec 10
  deriving DecidableEq, Repr

/-- `ldt`, `stt` (R344). -/
structure LdtO where
  (d a b : BitVec 5)
  cls : BitVec 4
  sc : BitVec 3
  ord : BitVec 2
  deriving DecidableEq, Repr

/-- `amo`, and `cas` with PD in the place of OPC (R344). -/
structure AmoO where
  (d a b : BitVec 5)
  cls : BitVec 4
  sc : BitVec 3
  ord : BitVec 2
  sp : BitVec 3
  w : BitVec 2
  opc : BitVec 4
  deriving DecidableEq, Repr

/-- `red` (R344). -/
structure RedO where
  (a b : BitVec 5)
  cls : BitVec 4
  sc : BitVec 3
  ord : BitVec 2
  sp : BitVec 3
  w : BitVec 2
  opc : BitVec 4
  deriving DecidableEq, Repr

/-- `fence` (R344). -/
structure FenceO where
  mask : BitVec 16
  sc : BitVec 3
  deriving DecidableEq, Repr

/-- `waita` (R344). -/
structure WaitaO where
  (d a b : BitVec 5)
  cls : BitVec 4
  (sc sp : BitVec 3)
  w : BitVec 2
  tlg : BitVec 5
  cnd : BitVec 2
  deriving DecidableEq, Repr

/-- `pref` (R344). -/
structure PrefO where
  (a b : BitVec 5)
  (excl l2 : Bool)
  deriving DecidableEq, Repr

/-- `sems` (R344). -/
structure SemsO where
  (a b : BitVec 5)
  semi : BitVec 8
  sc : BitVec 3
  deriving DecidableEq, Repr

/-- `semw` (R344). -/
structure SemwO where
  semi : BitVec 8
  thr : BitVec 16
  deriving DecidableEq, Repr

/-- `semr` (R344). -/
structure SemrO where
  d : BitVec 5
  semi : BitVec 8
  deriving DecidableEq, Repr

/-- `barw` (R344). -/
structure BarwO where
  (d a tlg : BitVec 5)
  deriving DecidableEq, Repr

/-- `futi` (R344). -/
structure FutiO where
  a : BitVec 5
  cls : BitVec 4
  deriving DecidableEq, Repr

/-- `futs`, `futf` (R344). -/
structure FutsO where
  (a b : BitVec 5)
  sc : BitVec 3
  deriving DecidableEq, Repr

/-- `futw` (R344). -/
structure FutwO where
  (a b : BitVec 5)
  liveHi : BitVec 4
  liveLo : BitVec 27
  deriving DecidableEq, Repr

/-- `vld` (R373). -/
structure VldO where
  (d a b : BitVec 5)
  (t cls : BitVec 4)
  (sc sp : BitVec 3)
  (h c me : Bool)
  vm : BitVec 5
  deriving DecidableEq, Repr

/-- `vst` (R373). -/
structure VstO where
  (d a b : BitVec 5)
  (t cls : BitVec 4)
  (sc sp : BitVec 3)
  (h me : Bool)
  vm : BitVec 5
  deriving DecidableEq, Repr

/-- `vgat` (R373). -/
structure VgatO where
  (d a b : BitVec 5)
  (t cls : BitVec 4)
  (sc sp : BitVec 3)
  (h c me : Bool)
  vm : BitVec 5
  scl : Bool
  deriving DecidableEq, Repr

/-- `vsct` (R373). -/
structure VsctO where
  (d a b : BitVec 5)
  (t cls : BitVec 4)
  (sc sp : BitVec 3)
  (h me : Bool)
  vm : BitVec 5
  scl : Bool
  deriving DecidableEq, Repr

/-- `vldl`, `vstl` (R373). -/
structure VldlO where
  (d a b : BitVec 5)
  t : BitVec 4
  me : Bool
  vm : BitVec 5
  ix : Bool
  deriving DecidableEq, Repr

/-- `vadd` .. `vshr` (R373). -/
structure VarO where
  (d a b : BitVec 5)
  t : BitVec 4
  rm : BitVec 3
  (bs me : Bool)
  vm : BitVec 5
  deriving DecidableEq, Repr

/-- `vand`, `vor`, `vxor` (R373). -/
structure VlogO where
  (d a b : BitVec 5)
  (bs me : Bool)
  vm : BitVec 5
  deriving DecidableEq, Repr

/-- `vabs` .. `vcis` (R373). -/
structure VunO where
  (d a : BitVec 5)
  t : BitVec 4
  rm : BitVec 3
  me : Bool
  vm : BitVec 5
  deriving DecidableEq, Repr

/-- `vcvt` (R373). -/
structure VcvtO where
  (d a : BitVec 5)
  t : BitVec 4
  rm : BitVec 3
  sat : Bool
  dt : BitVec 4
  me : Bool
  vm : BitVec 5
  deriving DecidableEq, Repr

/-- `vcmp` (R373). -/
structure VcmpO where
  (d a b : BitVec 5)
  t : BitVec 4
  bs : Bool
  cc : BitVec 3
  me : Bool
  vm : BitVec 5
  deriving DecidableEq, Repr

/-- `vsel` (R373). -/
structure VselO where
  (d a b : BitVec 5)
  bs : Bool
  vm : BitVec 5
  deriving DecidableEq, Repr

/-- `vred`, `vscan` (R373). -/
structure VredO where
  (d a : BitVec 5)
  t : BitVec 4
  (rm opr : BitVec 3)
  me : Bool
  vm : BitVec 5
  deriving DecidableEq, Repr

/-- `vcntge`, `vidx` (R373). -/
structure VcntO where
  (d a b : BitVec 5)
  t : BitVec 4
  me : Bool
  vm : BitVec 5
  deriving DecidableEq, Repr

/-- `vperm` (R373). -/
structure VpermO where
  (d a b : BitVec 5)
  me : Bool
  vm : BitVec 5
  deriving DecidableEq, Repr

/-- `vbc` (R373). -/
structure VbcO where
  (d a : BitVec 5)
  t : BitVec 4
  me : Bool
  vm : BitVec 5
  deriving DecidableEq, Repr

/-- `vins`, `vext` (R373). -/
structure VinsO where
  (d a b : BitVec 5)
  t : BitVec 4
  deriving DecidableEq, Repr

/-- `lnop` (R257, R388). -/
structure LnopO where
  (d a b fn : BitVec 5)
  (t dt : BitVec 4)
  rm : BitVec 3
  sat : Bool
  (kd ka kb : BitVec 3)
  (e4 e3 e2 e1 e0 : BitVec 7)
  nlv : BitVec 3
  (scb sca scd : BitVec 2)
  (sb4 sb3 sb2 sb1 sb0 sa4 sa3 sa2 sa1 sa0 sd4 sd3 sd2 sd1 sd0 : BitVec 8)
  deriving DecidableEq, Repr

/-- The field instructions (R402). -/
structure FieldO where
  (d a b : BitVec 5)
  (pa pb : BitVec 8)
  (ka kb : BitVec 3)
  xr : BitVec 5
  km1 : BitVec 12
  (mm1 nm1 : BitVec 6)
  at_ : Bool
  gs : BitVec 2
  ne : BitVec 6
  br : BitVec 5
  be : Bool
  deriving DecidableEq, Repr

/-- `aclr` (R403). -/
structure AclrO where
  amask : BitVec 16
  deriving DecidableEq, Repr

/-- `ald` (R403). -/
structure AldO where
  (d a : BitVec 5)
  ka : BitVec 3
  (mm1 nm1 : BitVec 6)
  deriving DecidableEq, Repr

/-- `adrn` (R403). -/
structure AdrnO where
  (d a : BitVec 5)
  dt : BitVec 4
  rm : BitVec 3
  (sat at_ lay clr : Bool)
  kd : BitVec 3
  (mm1 nm1 : BitVec 6)
  deriving DecidableEq, Repr

/-- `scacc` (R403). -/
structure ScaccO where
  (d a b : BitVec 5)
  (ka kb : BitVec 3)
  sm : BitVec 2
  (sf pt : Bool)
  (mm1 nm1 : BitVec 6)
  deriving DecidableEq, Repr

/-- `arow` (R403). -/
structure ArowO where
  (d a : BitVec 5)
  opr : BitVec 3
  (accv at_ : Bool)
  (mm1 nm1 : BitVec 6)
  deriving DecidableEq, Repr

/-- `ast` (R403). -/
structure AstO where
  d : BitVec 5
  cmask : BitVec 16
  deriving DecidableEq, Repr

/-- The fields that all drift commands lay out alike (R442). -/
structure DrO where
  (d a b : BitVec 5)
  (kd ka : BitVec 3)
  cv : BitVec 2
  et : BitVec 4
  hm1 : BitVec 6
  fp : Bool
  csc : BitVec 2
  scout : BitVec 6
  fr : BitVec 5
  fv : Bool
  tr : BitVec 5
  tv : Bool
  deriving DecidableEq, Repr

/-- `cpy` (R442). -/
structure CpyO where
  c : DrO
  tc : Bool
  deriving DecidableEq, Repr

/-- `cpym` (R442). -/
structure CpymO where
  c : DrO
  rsi : BitVec 8
  rds : BitVec 12
  xs : Bool
  deriving DecidableEq, Repr

/-- `cpyq` (R442). -/
structure CpyqO where
  c : DrO
  qr : BitVec 5
  deriving DecidableEq, Repr

/-- `fill` (R442). -/
structure FillO where
  c : DrO
  tc : Bool
  pw : BitVec 2
  deriving DecidableEq, Repr

/-- `cpyt` (R442). -/
structure CpytO where
  c : DrO
  (tc dir : Bool)
  (bx0m1 bx1m1 : BitVec 7)
  deriving DecidableEq, Repr

/-- `talloc` (R426). -/
structure TallocO where
  (d a : BitVec 5)
  imm : BitVec 16
  p : Bool
  lvl : BitVec 2
  pgm1 : BitVec 5
  deriving DecidableEq, Repr

/-- `tcon` (R426). -/
structure TconO where
  a : BitVec 5
  imm : BitVec 16
  p : Bool
  deriving DecidableEq, Repr

/-- `tinf` (R426). -/
structure TinfO where
  (d a : BitVec 5)
  sel : BitVec 4
  deriving DecidableEq, Repr

/-- `tts`, `rsyn`: fields A and B (R426). -/
structure AB where
  (a b : BitVec 5)
  deriving DecidableEq, Repr

/-- `slput` (R426). -/
structure SlputO where
  (d a b : BitVec 5)
  nx : Bool
  deriving DecidableEq, Repr

/-- `sopen` (R426). -/
structure SopenO where
  (d a : BitVec 5)
  deriving DecidableEq, Repr

/-- `pump` (R426). -/
structure PumpO where
  (a b : BitVec 5)
  dir : Bool
  deriving DecidableEq, Repr

/-- `rqry` (R426). -/
structure RqryO where
  (d a : BitVec 5)
  kp : Bool
  ks : BitVec 4
  inp : Bool
  sel : BitVec 3
  deriving DecidableEq, Repr

/-- `rres` (R426). -/
structure RresO where
  (d a b : BitVec 5)
  kp : Bool
  ks : BitVec 4
  sub : BitVec 2
  fw : Bool
  deriving DecidableEq, Repr

/-- `rskp`, `rrev` (R426). -/
structure RruleO where
  a : BitVec 5
  kp : Bool
  ks : BitVec 4
  deriving DecidableEq, Repr

/-- `spawn`, `spawng` (R426). -/
structure SpawnO where
  (d a b : BitVec 5)
  rg : Bool
  deriving DecidableEq, Repr

/-- A flit as it arrives on a link (R17): its FHDR, its 240 bytes of packet data, and whether its CRC holds after correction. -/
structure Flit where
  fhdr : BitVec 16
  pay : List Byte
  crcOk : Bool
  deriving DecidableEq, Repr

/-- A packet between modules (R18). `part` is the partition of the sender, which R449 makes the partition that translates
PADDR here; the header of R18 has no field for it (log entry 11). -/
structure Pkt where
  src : BitVec 12
  dst : BitVec 12
  psn : BitVec 32
  ptype : BitVec 8
  plen : BitVec 12
  pscope : BitVec 4
  paddr : BitVec 48
  part : BitVec 3
  payload : List Byte
  deriving DecidableEq, Repr

/-- The 226 rows of the opcode table. -/
inductive Instr where
  | nop (q : Seqn)
  | add (q : Seqn) (o : Alu)
  | sub (q : Seqn) (o : Alu)
  | mul (q : Seqn) (o : Alu)
  | mulh (q : Seqn) (o : Alu)
  | div (q : Seqn) (o : Alu)
  | rem (q : Seqn) (o : Alu)
  | and (q : Seqn) (o : Alu)
  | or (q : Seqn) (o : Alu)
  | xor (q : Seqn) (o : Alu)
  | andn (q : Seqn) (o : Alu)
  | shl (q : Seqn) (o : Alu)
  | shr (q : Seqn) (o : Alu)
  | sar (q : Seqn) (o : Alu)
  | rot (q : Seqn) (o : Alu)
  | clz (q : Seqn) (o : CntO)
  | popc (q : Seqn) (o : CntO)
  | min (q : Seqn) (o : Alu)
  | max (q : Seqn) (o : Alu)
  | sext (q : Seqn) (o : SextO)
  | bfx (q : Seqn) (o : BfO)
  | bfi (q : Seqn) (o : BfO)
  | sel (q : Seqn) (o : SelO)
  | movi (q : Seqn) (o : MoviO)
  | lea (q : Seqn) (o : LeaO)
  | cmp (q : Seqn) (o : CmpO)
  | plog (q : Seqn) (o : PlogO)
  | pmov (q : Seqn) (o : PmovO)
  | jmpr (o : A1)
  | callr (o : A1)
  | callx (o : CallxO)
  | loopset (q : Seqn) (o : LoopsetO)
  | ld (q : Seqn) (o : LdO)
  | st (q : Seqn) (o : StO)
  | amo (q : Seqn) (o : AmoO)
  | cas (q : Seqn) (o : AmoO)
  | red (q : Seqn) (o : RedO)
  | fence (q : Seqn) (o : FenceO)
  | waita (q : Seqn) (o : WaitaO)
  | pref (q : Seqn) (o : PrefO)
  | sems (q : Seqn) (o : SemsO)
  | semw (q : Seqn) (o : SemwO)
  | semr (q : Seqn) (o : SemrO)
  | bar (q : Seqn) (o : D1)
  | barw (q : Seqn) (o : BarwO)
  | futi (q : Seqn) (o : FutiO)
  | futw (q : Seqn) (o : FutwO)
  | futs (q : Seqn) (o : FutsO)
  | futf (q : Seqn) (o : FutsO)
  | ldt (q : Seqn) (o : LdtO)
  | stt (q : Seqn) (o : LdtO)
  | vld (q : Seqn) (o : VldO)
  | vst (q : Seqn) (o : VstO)
  | vgat (q : Seqn) (o : VgatO)
  | vsct (q : Seqn) (o : VsctO)
  | vldl (q : Seqn) (o : VldlO)
  | vstl (q : Seqn) (o : VldlO)
  | vadd (q : Seqn) (o : VarO)
  | vsub (q : Seqn) (o : VarO)
  | vmul (q : Seqn) (o : VarO)
  | vfma (q : Seqn) (o : VarO)
  | vmin (q : Seqn) (o : VarO)
  | vmax (q : Seqn) (o : VarO)
  | vabs (q : Seqn) (o : VunO)
  | vneg (q : Seqn) (o : VunO)
  | vrcp (q : Seqn) (o : VunO)
  | vrsq (q : Seqn) (o : VunO)
  | vex2 (q : Seqn) (o : VunO)
  | vlg2 (q : Seqn) (o : VunO)
  | vcis (q : Seqn) (o : VunO)
  | vcvt (q : Seqn) (o : VcvtO)
  | vand (q : Seqn) (o : VlogO)
  | vor (q : Seqn) (o : VlogO)
  | vxor (q : Seqn) (o : VlogO)
  | vshl (q : Seqn) (o : VarO)
  | vshr (q : Seqn) (o : VarO)
  | vcmp (q : Seqn) (o : VcmpO)
  | vsel (q : Seqn) (o : VselO)
  | vred (q : Seqn) (o : VredO)
  | vscan (q : Seqn) (o : VredO)
  | vperm (q : Seqn) (o : VpermO)
  | vbc (q : Seqn) (o : VbcO)
  | vins (q : Seqn) (o : VinsO)
  | vext (q : Seqn) (o : VinsO)
  | vcntge (q : Seqn) (o : VcntO)
  | vidx (q : Seqn) (o : VcntO)
  | lnop (q : Seqn) (y : Sync) (o : LnopO)
  | aclr (q : Seqn) (y : Sync) (o : AclrO)
  | mma (q : Seqn) (y : Sync) (o : FieldO)
  | mmaq (q : Seqn) (y : Sync) (o : FieldO)
  | mma3 (q : Seqn) (y : Sync) (o : FieldO)
  | scacc (q : Seqn) (y : Sync) (o : ScaccO)
  | adrn (q : Seqn) (y : Sync) (o : AdrnO)
  | ald (q : Seqn) (y : Sync) (o : AldO)
  | arow (q : Seqn) (y : Sync) (o : ArowO)
  | bsmm (q : Seqn) (y : Sync) (o : FieldO)
  | gmm (q : Seqn) (y : Sync) (o : FieldO)
  | ast (q : Seqn) (y : Sync) (o : AstO)
  | cpy (q : Seqn) (y : Sync) (o : CpyO)
  | cpym (q : Seqn) (y : Sync) (o : CpymO)
  | cpyq (q : Seqn) (y : Sync) (o : CpyqO)
  | fill (q : Seqn) (y : Sync) (o : FillO)
  | disc (q : Seqn) (y : Sync) (o : DrO)
  | cpyt (q : Seqn) (y : Sync) (o : CpytO)
  | talloc (q : Seqn) (o : TallocO)
  | tcmt (q : Seqn) (o : A1)
  | tabt (q : Seqn) (o : A1)
  | tcon (q : Seqn) (o : TconO)
  | tinf (q : Seqn) (o : TinfO)
  | tts (q : Seqn) (o : AB)
  | slput (q : Seqn) (o : SlputO)
  | sleos (q : Seqn) (o : A1)
  | sopen (q : Seqn) (o : SopenO)
  | pump (q : Seqn) (o : PumpO)
  | rqry (q : Seqn) (o : RqryO)
  | rres (q : Seqn) (o : RresO)
  | rskp (q : Seqn) (o : RruleO)
  | rrev (q : Seqn) (o : RruleO)
  | rsyn (q : Seqn) (o : AB)
  | spawn (q : Seqn) (y : Sync) (o : SpawnO)
  | spawng (q : Seqn) (y : Sync) (o : SpawnO)
  | mfs (q : Seqn) (o : MfsO)
  | mts (q : Seqn) (o : MtsO)
  | trap (q : Seqn) (o : TrapO)
  | eret
  | suspend (q : Seqn) (o : RecO)
  | yield (q : Seqn)
  | cmt (q : Seqn) (o : RecO)
  | fchk (q : Seqn) (o : D1)
  | cwb (q : Seqn) (o : CwbO)
  | cinv (q : Seqn) (o : CinvO)
  /-- R27 the module is reset, and the images are verified and started -/
  | moduleReset
  /-- R69 the host writes v to MGRST -/
  | mgrst (v : Word)
  /-- R14 the module's power over a 1 ms window, and a junction sensor in degrees -/
  | fieldThrottleStart (watts temp : Nat)
  /-- R14 the greatest 1 ms power and sensor reading since the last step of this row -/
  | fieldThrottleEnd (watts temp : Nat)
  /-- R14 a sensor's reading -/
  | thermalShutdown (temp : Nat)
  /-- R15 an aligned 8-byte access of the host -/
  | hostCxlMemAccess (write : Bool) (addr data : Word)
  /-- R16 a link trains; bit n of lanes says that lane n is sound -/
  | linkTraining (link : Nat) (lanes : BitVec 4)
  /-- R17 a flit arrives on a link -/
  | flitReceive (link : Nat) (f : Flit)
  /-- R17 a link goes down -/
  | linkDown (link : Nat)
  /-- R22 the pair to a node is declared lost -/
  | pairLost (node : BitVec 12)
  /-- R18 a WRITE packet arrives -/
  | write (p : Pkt)
  /-- R18 an RDREQ packet arrives -/
  | rdreq (p : Pkt)
  /-- R18 an RDRSP packet arrives -/
  | rdrsp (p : Pkt)
  /-- R18 an ATOMIC packet arrives -/
  | atomic (p : Pkt)
  /-- R18 a RELFLAG packet arrives -/
  | relflag (p : Pkt)
  /-- R18 a QAPPEND packet arrives -/
  | qappend (p : Pkt)
  /-- R19 an ACK packet arrives -/
  | ack (p : Pkt)
  /-- R26 a TIME packet arrives; the source is ahead or behind by delta ns -/
  | time (link : Nat) (ahead : Bool) (delta : Nat)
  /-- R18 a packet with a reserved PTYPE or PSCOPE arrives -/
  | reservedPacketDiscard (p : Pkt)
  /-- R19 the next held packet of a pair is applied -/
  | heldPacketApply (src : BitVec 12)
  /-- R25 management writes DTSET -/
  | dtset (v : Word)
  /-- R38 the driver writes FLOCK -/
  | flock (v : Word)
  /-- R34 management writes ATTGO -/
  | attgo (v : Word)
  /-- R35 the security processor answers the request -/
  | attestationReport
  /-- R31 management requests the advance for an image type -/
  | antiRollbackAdvance (ty : Nat)
  /-- R47 Q0EN is written with 0 -/
  | q0Disable
  /-- R47 Q0EN is written with 1 -/
  | q0Enable
  /-- R47 Q0EN is written with 2 -/
  | q0Reset
  /-- R69 a write to a management register -/
  | registerWrite (off : Nat) (v : Word)
  /-- R49 the engine of queue q takes the packet at RIDX -/
  | queueTake (q : Nat)
  /-- R54 -/
  | launch (q : Nat)
  /-- R55 -/
  | copy (q : Nat)
  /-- R56 -/
  | signalResolve (q : Nat)
  /-- R56 -/
  | signalFail (q : Nat)
  /-- R56 -/
  | signalSemaphore (q : Nat)
  /-- R57 -/
  | waitf (q : Nat)
  /-- R57 -/
  | qbar (q : Nat)
  /-- R310 -/
  | unload (q : Nat)
  /-- R226 -/
  | migrate (q : Nat)
  /-- R51 -/
  | void (q : Nat)
  /-- R60 -/
  | partCreate (q : Nat)
  /-- R62 -/
  | partReset (q : Nat)
  /-- R61 -/
  | partMove (q : Nat)
  /-- R60 -/
  | partWeight (q : Nat)
  /-- R60 -/
  | partQuota (q : Nat)
  /-- R60 -/
  | partHbm (q : Nat)
  /-- R60 -/
  | partQassign (q : Nat)
  /-- R60 -/
  | qstateDisable (q : Nat)
  /-- R60 -/
  | qstateEnable (q : Nat)
  /-- R60 -/
  | qstateReset (q : Nat)
  /-- R64 -/
  | dbgstop (q : Nat)
  /-- R64 -/
  | dbgres (q : Nat)
  /-- R64 -/
  | dbgbrk (q : Nat)
  /-- R67 -/
  | moncfg (q : Nat)
  /-- R67 -/
  | monitorPeriodicSample (die mon : Nat)
  /-- R68 -/
  | monitorWindowEnd (die mon : Nat)
  /-- R89 -/
  | dispatch (die : Nat)
  /-- R87 -/
  | dequeTake (core : Nat)
  /-- R87 -/
  | steal (core : Nat)
  /-- R85 -/
  | pitheadAging (die : Nat)
  /-- R90 -/
  | priorityPreemption (die part : Nat)
  /-- R81 -/
  | inputHomeMove (task : Nat)
  /-- R95 -/
  | taskEnd (core slot : Nat)
  /-- R97 -/
  | continuationResume (core slot : Nat)
  /-- R98 -/
  | watchdogTimeout (core slot : Nat)
  /-- R110 -/
  | stallSwitch (core : Nat)
  /-- R113 -/
  | imageSaveComplete (core slot : Nat)
  /-- R113 -/
  | imageLoadComplete (core slot : Nat)
  /-- R72 -/
  | parkWake (task : Nat)
  /-- R126 -/
  | asyncTrapDelivery (core slot : Nat)
  /-- R107 -/
  | semaphoreWaitPass (core slot : Nat)
  /-- R205 -/
  | matrixChunk (core slot : Nat)
  /-- R142 -/
  | allocationGrant (pool : Nat)
  /-- R161 -/
  | poolDeadlock (part die : Nat)
  /-- R158 -/
  | multicastGrant (core : Nat)
  /-- R159 -/
  | landingComplete (job : Nat)
  /-- R170 -/
  | loaderSlice (sub : Nat)
  /-- R171 -/
  | storerSlice (sub : Nat)
  /-- R223 -/
  | pumpRetry (sub : Nat)
  /-- R177 -/
  | ruleFire (core slot k : Nat)
  /-- R178 -/
  | firingEnd (core slot k : Nat)
  /-- R188 -/
  | keeperDispatch (keeper : Nat)
  /-- R188 -/
  | keeperIdleSave (keeper : Nat)
  /-- R446 -/
  | driftAccept (core : Nat)
  /-- R446 -/
  | driftJobStart (core : Nat)
  /-- R225 -/
  | canaryPass (job page : Nat)
  /-- R447 -/
  | driftJobEnd (job : Nat)
  /-- R244 H = hits / total and H' = shadow / total over the sampling sets -/
  | splitAdjust (die hits shadow total : Nat)
  /-- R41 the scrubber of die array (4: the IOD) meets an error at addr; bad: it is uncorrectable -/
  | patrolScrub (array : Nat) (hbm : Bool) (addr : Nat) (bad : Bool)
  /-- R356 -/
  | waitaRecheck (core slot : Nat)
  /-- R356 -/
  | waitaTimeout (core slot : Nat)
  /-- R362 -/
  | barwTimeout (core slot : Nat)
  /-- R226 -/
  | migrationComplete (job : Nat)
  /-- R149 -/
  | tileMoveComplete (tile : Nat)
  /-- R62 -/
  | partitionResetComplete (part : Nat)
  deriving DecidableEq, Repr

end Sys2Proof
end

