-- ==== Sys2Proof/WellFormed.lean ====
section
/-! DEFINITION. Which terms of Instr are instructions of the machine: the checks of R267 orders 4, 5 and 6 that a term can
fail (a bit that no field covers cannot be written as a term). The 95 steps carry no encoding and pass. -/

namespace Sys2Proof

/-- The sequencing fields of an instruction; `none` where R264 reserves them or the row is a step. -/
def seqnOf : Instr → Option Seqn
  | .nop q | .add q _ | .sub q _ | .mul q _ | .mulh q _ | .div q _ | .rem q _ | .and q _ | .or q _ | .xor q _ | .andn q _
  | .shl q _ | .shr q _ | .sar q _ | .rot q _ | .clz q _ | .popc q _ | .min q _ | .max q _ | .sext q _ | .bfx q _
  | .bfi q _ | .sel q _ | .movi q _ | .lea q _ | .cmp q _ | .plog q _ | .pmov q _ | .loopset q _
  | .ld q _ | .st q _ | .amo q _ | .cas q _ | .red q _ | .fence q _ | .waita q _ | .pref q _ | .sems q _ | .semw q _
  | .semr q _ | .bar q _ | .barw q _ | .futi q _ | .futw q _ | .futs q _ | .futf q _ | .ldt q _ | .stt q _
  | .vld q _ | .vst q _ | .vgat q _ | .vsct q _ | .vldl q _ | .vstl q _ | .vadd q _ | .vsub q _ | .vmul q _ | .vfma q _
  | .vmin q _ | .vmax q _ | .vabs q _ | .vneg q _ | .vrcp q _ | .vrsq q _ | .vex2 q _ | .vlg2 q _ | .vcis q _ | .vcvt q _
  | .vand q _ | .vor q _ | .vxor q _ | .vshl q _ | .vshr q _ | .vcmp q _ | .vsel q _ | .vred q _ | .vscan q _ | .vperm q _
  | .vbc q _ | .vins q _ | .vext q _ | .vcntge q _ | .vidx q _ | .lnop q _ _
  | .aclr q _ _ | .mma q _ _ | .mmaq q _ _ | .mma3 q _ _ | .scacc q _ _ | .adrn q _ _ | .ald q _ _ | .arow q _ _
  | .bsmm q _ _ | .gmm q _ _ | .ast q _ _ | .cpy q _ _ | .cpym q _ _ | .cpyq q _ _ | .fill q _ _ | .disc q _ _
  | .cpyt q _ _ | .talloc q _ | .tcmt q _ | .tabt q _ | .tcon q _ | .tinf q _ | .tts q _ | .slput q _ | .sleos q _
  | .sopen q _ | .pump q _ | .rqry q _ | .rres q _ | .rskp q _ | .rrev q _ | .rsyn q _ | .spawn q _ _ | .spawng q _ _
  | .mfs q _ | .mts q _ | .trap q _ | .suspend q _ | .yield q | .cmt q _ | .fchk q _ | .cwb q _ | .cinv q _ => some q
  | _ => none

/-- The sync fields of an F128 or F256 instruction (R254). -/
def syncOf : Instr → Option Sync
  | .lnop _ y _ | .aclr _ y _ | .mma _ y _ | .mmaq _ y _ | .mma3 _ y _ | .scacc _ y _ | .adrn _ y _ | .ald _ y _
  | .arow _ y _ | .bsmm _ y _ | .gmm _ y _ | .ast _ y _ | .cpy _ y _ | .cpym _ y _ | .cpyq _ y _ | .fill _ y _
  | .disc _ y _ | .cpyt _ y _ | .spawn _ y _ | .spawng _ y _ => some y
  | _ => none

/-- R264: the four instructions on which NXT = 6 is reserved. -/
def endReserved : Instr → Bool
  | .trap _ _ | .suspend _ _ | .cmt _ _ | .futw _ _ => true
  | _ => false

/-- R258, R267 order 4: NXT is not 7, and PR is 0 to 12 where NXT uses it. -/
def seqFits (q : Seqn) : Bool := q.nxt != 7 && (q.nxt == 0 || q.pr.toNat ≤ 12)

/-- R258: TI must be 0 for seq, ret and end. -/
def tiReserved (q : Seqn) : Bool := (q.nxt == 0 || q.nxt == 4 || q.nxt == 6) && q.ti != 0

/-- R252: with P = 1 the immediate names a slot of 0 to 63. -/
def slotReserved (p : Bool) (imm : BitVec 16) : Bool := p && 64 ≤ imm.toNat

/-- R317: imm16 and P are zero where I = 0, B is unused where I = 1. -/
def immReserved (i p : Bool) (imm : BitVec 16) (b : BitVec 5) : Bool :=
  if i then b != 0 || slotReserved p imm else p || imm != 0

/-- R402: the fields of a field instruction that its mnemonic does not use. -/
def fieldReserved0 (xr : Bool) (o : FieldO) : Bool := !xr && o.xr != 0

/-- R402: GS is for `mmaq`; NE for `bsmm` and `gmm`; BE and BR for `gmm`, BR with BE = 1. -/
def fieldReserved1 (gs ne be : Bool) (o : FieldO) : Bool :=
  (!gs && o.gs != 0) || (!ne && o.ne != 0) || (!be && o.be) || (!o.be && o.br != 0)

/-- R442: a register number without its valid bit. -/
def drReserved1 (c : DrO) : Bool := (!c.fv && c.fr != 0) || (!c.tv && c.tr != 0)

/-- R267 order 5: a field of doubleword 0 holds what the instruction reserves. -/
def operandReserved0 : Instr → Bool
  | .add _ o | .sub _ o | .mul _ o | .mulh _ o | .div _ o | .rem _ o | .and _ o | .or _ o | .xor _ o | .andn _ o | .shl _ o
  | .shr _ o | .sar _ o | .rot _ o | .min _ o | .max _ o => immReserved o.i o.p o.imm o.b
  | .cmp _ o => immReserved o.i o.p o.imm o.b
  | .loopset _ o => immReserved o.i o.p o.imm (if o.i then o.a else 0)
  | .bfi _ o => o.sx
  | .movi _ o => slotReserved o.p o.imm || (o.p && (o.hw != 0 || o.kp || o.z)) || (o.kp && o.z)
  | .lea _ o => slotReserved o.p o.imm
  | .pmov _ o => (o.dir == 0 && o.a != 0) || (o.dir == 1 && o.d != 0)
  | .callx o => slotReserved o.p o.imm
  | .trap _ o => slotReserved o.p o.imm
  | .vldl _ o | .vstl _ o => !o.ix && o.b != 0
  | .lnop _ _ o => o.kb == 0 && o.b != 0
  | .mma _ _ o | .mma3 _ _ o => fieldReserved0 false o
  | .mmaq _ _ o | .bsmm _ _ o | .gmm _ _ o => fieldReserved0 true o
  | .cpy _ _ o => o.c.cv == 0 && (o.c.et != 0 || o.c.hm1 != 0)
  | .cpym _ _ o => o.c.b != 0 || o.c.cv != 0 || o.c.et != 0 || o.c.hm1 != 0 || o.c.fp || o.c.scout != 0
  | .cpyq _ _ o => o.c.cv != 0 || o.c.et != 0 || o.c.hm1 != 0
  | .fill _ _ o => o.c.ka != 0 || o.c.cv != 0 || o.c.et != 0 || o.c.hm1 != 0
  | .disc _ _ c => c.d != 0 || c.kd != 0 || c.ka != 0 || c.cv != 0 || c.et != 0 || c.hm1 != 0 || c.fp || c.scout != 0
  | .cpyt _ _ o => o.c.ka != 0 || o.c.et != 0 || o.c.hm1 != 0
  | .talloc _ o => (o.lvl != 1 && o.a != 0) || slotReserved o.p o.imm || (!o.p && 0x1000 ≤ o.imm.toNat)
  | .tcon _ o => slotReserved o.p o.imm || (!o.p && 0x1000 ≤ o.imm.toNat)
  | .slput _ o => o.nx && o.d != 0
  | .pump _ o => o.dir && o.b != 0
  | .rqry _ o => !o.kp && o.ks != 0
  | .rres _ o => (!o.fw && o.d != 0) || (o.sub == 0 && o.b != 0) || (!o.kp && o.ks != 0)
  | .rskp _ o | .rrev _ o => !o.kp && o.ks != 0
  | .spawn _ _ o | .spawng _ _ o => !o.rg && o.b != 0
  | _ => false

/-- R267 order 5: a field of doubleword 1, the sync fields apart, holds what the instruction reserves. -/
def operandReserved1 : Instr → Bool
  | .mma _ _ o | .mma3 _ _ o => fieldReserved1 false false false o
  | .mmaq _ _ o => fieldReserved1 true false false o
  | .bsmm _ _ o => fieldReserved1 false true false o
  | .gmm _ _ o => fieldReserved1 false true true o
  | .cpy _ _ o => drReserved1 o.c || (o.tc && o.c.kd != 4)
  | .fill _ _ o => drReserved1 o.c || (o.tc && o.c.kd != 4)
  | .cpyt _ _ o => drReserved1 o.c || (o.tc && o.c.kd != 4)
  | .cpym _ _ o => drReserved1 o.c
  | .cpyq _ _ o => drReserved1 o.c
  | .disc _ _ c => drReserved1 c
  | _ => false

/-- R254: WSI without WST, or SGI without SGN. -/
def syncReserved (y : Sync) : Bool := (y.wst == 0 && y.wsi != 0) || (y.sgn == 0 && y.sgi != 0)

/-- R267 order 5: the lowest doubleword, if any, with a field that holds what the instruction reserves. -/
def reservedIn (i : Instr) : Option Nat :=
  if operandReserved0 i || (match seqnOf i with
      | some q => tiReserved q || (endReserved i && q.nxt == 6)
      | none => false) then some 0
  else if operandReserved1 i || (match syncOf i with | some y => syncReserved y | none => false) then some 1
  else none

/-- R389: how many registers the class of a kind has, for an operand of `lnop` that permits the kinds listed. -/
def kindLimit (permitted sixteen : List Nat) (k : BitVec 3) : Nat :=
  if permitted.contains k.toNat && sixteen.contains k.toNat then 16 else 32

/-- R250: the register fields that name a class of fewer than 32 registers: the TINFO of the field (0 D, 1 A, 2 B), its number
and how many registers its class has. A kind that the instruction does not permit gives the field no class (R267). -/
def regClasses : Instr → List (Nat × BitVec 5 × Nat)
  | .cmp _ o => [(0, o.d, 12)]
  | .plog _ o => [(0, o.d, 12), (1, o.a, 12), (2, o.b, 12)]
  | .pmov _ o => [(0, o.d, if o.dir == 2 then 12 else 32), (1, o.a, if o.dir == 3 then 12 else 32)]
  | .fchk _ o => [(0, o.d, 12)]
  | .ld _ o => [(1, o.a, if o.h then 16 else 32)]
  | .st _ o => [(1, o.a, if o.h then 16 else 32)]
  | .vld _ o => [(1, o.a, if o.h then 16 else 32)]
  | .vst _ o => [(1, o.a, if o.h then 16 else 32)]
  | .vgat _ o => [(1, o.a, if o.h then 16 else 32)]
  | .vsct _ o => [(1, o.a, if o.h then 16 else 32)]
  | .lnop _ _ o => [(0, o.d, kindLimit [1, 2, 3, 4, 5] [3, 4, 5] o.kd),
      (1, o.a, kindLimit [1, 2, 3, 5, 6, 7] [3, 5, 7] o.ka), (2, o.b, kindLimit [0, 1, 2, 3, 5, 6, 7] [3, 5, 7] o.kb)]
  | .mma _ _ o | .mmaq _ _ o => [(0, o.d, 16), (1, o.a, kindLimit [1, 2, 3, 5, 7] [3, 5, 7] o.ka),
      (2, o.b, kindLimit [1, 2, 3, 5, 7] [3, 5, 7] o.kb)]
  | .mma3 _ _ o | .bsmm _ _ o | .gmm _ _ o => [(0, o.d, 16), (1, o.a, kindLimit [1, 2, 3, 7] [3, 7] o.ka),
      (2, o.b, kindLimit [1, 2, 3, 7] [3, 7] o.kb)]
  | .ald _ _ o => [(0, o.d, 16), (1, o.a, kindLimit [1, 2, 3, 7] [3, 7] o.ka)]
  | .adrn _ _ o => [(0, o.d, kindLimit [1, 2, 3] [3] o.kd), (1, o.a, 16)]
  | .scacc _ _ o => [(0, o.d, 16), (1, o.a, kindLimit [0, 1, 2, 3, 5, 7] [0, 3, 5, 7] o.ka),
      (2, o.b, kindLimit [1, 2, 3, 5, 6, 7] [3, 5, 7] o.kb)]
  | .arow _ _ o => [(1, o.a, 16)]
  | .cpy _ _ o => [(0, o.c.d, if o.c.kd == 7 then 31 else kindLimit [0, 1, 2, 3, 4, 5, 6] [4, 5, 6] o.c.kd),
      (1, o.c.a, kindLimit [0, 1, 2, 3, 4, 5, 7] [4, 5, 7] o.c.ka)]
  | .cpym _ _ o => [(1, o.c.a, kindLimit [4] [4] o.c.ka)]
  | .cpyq _ _ o => [(1, o.c.a, kindLimit [0, 1, 2, 3, 4, 7] [4, 7] o.c.ka)]
  | .fill _ _ o => [(0, o.c.d, kindLimit [0, 1, 2, 3, 4] [4] o.c.kd)]
  | .cpyt _ _ o => [(0, o.c.d, kindLimit [0, 1, 2, 3, 4] [4] o.c.kd)]
  | .talloc _ o => [(0, o.d, 16)]
  | .tcmt _ o => [(1, o.a, 16)]
  | .tabt _ o => [(1, o.a, 16)]
  | .tcon _ o => [(1, o.a, 16)]
  | .tinf _ o => [(1, o.a, 16)]
  | .tts _ o => [(1, o.a, 16)]
  | .slput _ o => [(1, o.a, 16), (2, o.b, 16)]
  | .sleos _ o => [(1, o.a, 16)]
  | .sopen _ o => [(0, o.d, 16)]
  | .pump _ o => [(1, o.a, 16)]
  | .rqry _ o => [(1, o.a, if o.kp then 32 else 16)]
  | .rres _ o => [(1, o.a, if o.kp then 32 else 16), (2, o.b, if o.sub == 0 then 32 else 16)]
  | .rskp _ o => [(1, o.a, if o.kp then 32 else 16)]
  | .rrev _ o => [(1, o.a, if o.kp then 32 else 16)]
  | .rsyn _ o => [(1, o.a, 16)]
  | _ => []

/-- R267 order 6: the first register field with a number beyond its class, as TINFO. -/
def regBeyond (i : Instr) : Option Nat :=
  ((regClasses i).find? fun (_, n, lim) => lim ≤ n.toNat).map (·.1)

/-- The sequencing fields pass order 4. -/
def seqOk (i : Instr) : Bool :=
  match seqnOf i with
  | some q => seqFits q
  | none => true

/-- A term that R267 lets execute. -/
def WellFormed (i : Instr) : Bool := seqOk i && (reservedIn i).isNone && (regBeyond i).isNone

/-- The rows that are instructions of R265 and so have words; the others are steps. -/
def isCoded (i : Instr) : Bool :=
  (seqnOf i).isSome || (match i with | .jmpr _ | .callr _ | .callx _ | .eret => true | _ => false)

end Sys2Proof
end

