-- ==== Sys2Proof/Decode.lean ====
section
/-! DEFINITION. From words to instructions and back (R247 to R257, R265, R267, and the encoding tables of R317, R344, R373,
R388, R402, R403, R426 and R442). An instruction is read as one number of 64, 128 or 256 bits, numbered as the manual numbers
them: bit 0 is bit 0 of doubleword 0. -/

namespace Sys2Proof

/-- The field of `k` bits that starts at bit `lo`. -/
def fld (w lo : Nat) : BitVec k := BitVec.ofNat k (w / 2 ^ lo)

/-- The bit at `lo`. -/
def flag (w lo : Nat) : Bool := w / 2 ^ lo % 2 == 1

/-- The sequencing fields (R249). -/
def decSeqn (w : Nat) : Seqn := { nxt := fld w 51, pr := fld w 47, ti := fld w 44 }

/-- The sync fields (R254). -/
def decSync (w : Nat) : Sync := { wsi := fld w 120, wst := fld w 114, sgi := fld w 106, sgn := fld w 103 }

/-- The two-operand integer instructions (R317, R318). -/
def decAlu (w : Nat) : Alu :=
  { d := fld w 39, a := fld w 34, b := fld w 29, imm := fld w 13, p := flag w 12, i := flag w 11, w := flag w 10,
    u := flag w 9 }

/-- `clz`, `popc` (R317). -/
def decCntO (w : Nat) : CntO :=
  { d := fld w 39, a := fld w 34, w := flag w 10 }

/-- `sext` (R317). -/
def decSextO (w : Nat) : SextO :=
  { d := fld w 39, a := fld w 34, bit := fld w 6, z := flag w 5 }

/-- `bfx`, `bfi` (R317). -/
def decBfO (w : Nat) : BfO :=
  { d := fld w 39, a := fld w 34, pos := fld w 23, len := fld w 16, sx := flag w 15 }

/-- `sel` (R317). -/
def decSelO (w : Nat) : SelO :=
  { d := fld w 39, a := fld w 34, b := fld w 29, ps := fld w 8 }

/-- `movi` (R317). -/
def decMoviO (w : Nat) : MoviO :=
  { d := fld w 39, imm := fld w 13, p := flag w 12, hw := fld w 10, kp := flag w 9, z := flag w 8 }

/-- `lea` (R317). -/
def decLeaO (w : Nat) : LeaO :=
  { d := fld w 39, a := fld w 34, b := fld w 29, imm := fld w 13, p := flag w 12, sh := fld w 9 }

/-- `cmp` (R317). -/
def decCmpO (w : Nat) : CmpO :=
  { d := fld w 39, a := fld w 34, b := fld w 29, imm := fld w 13, p := flag w 12, i := flag w 11, w := flag w 10,
    cc := fld w 6, cmb := fld w 4 }

/-- `plog` (R317). -/
def decPlogO (w : Nat) : PlogO :=
  { d := fld w 39, a := fld w 34, b := fld w 29, tt := fld w 8 }

/-- `pmov` (R317, R325). -/
def decPmovO (w : Nat) : PmovO :=
  { d := fld w 39, a := fld w 34, dir := fld w 10 }

/-- Instructions whose only operand is field A. -/
def decA1 (w : Nat) : A1 :=
  { a := fld w 34 }

/-- Instructions whose only operand is field D. -/
def decD1 (w : Nat) : D1 :=
  { d := fld w 39 }

/-- `callx` (R317). -/
def decCallxO (w : Nat) : CallxO :=
  { a := fld w 34, imm := fld w 13, p := flag w 12 }

/-- `loopset` (R317). -/
def decLoopsetO (w : Nat) : LoopsetO :=
  { a := fld w 34, imm := fld w 13, p := flag w 12, i := flag w 11, lcn := fld w 9 }

/-- `mfs` (R317). -/
def decMfsO (w : Nat) : MfsO :=
  { d := fld w 39, srn := fld w 4 }

/-- `mts` (R317). -/
def decMtsO (w : Nat) : MtsO :=
  { a := fld w 34, srn := fld w 4 }

/-- `trap` (R317). -/
def decTrapO (w : Nat) : TrapO :=
  { imm := fld w 13, p := flag w 12 }

/-- `suspend`, `cmt`: LIVE[31:28] and LIVE[27:1] (R317). -/
def decRecO (w : Nat) : RecO :=
  { a := fld w 34, liveHi := fld w 39, liveLo := fld w 2 }

/-- `cwb` (R317). -/
def decCwbO (w : Nat) : CwbO :=
  { a := fld w 34, b := fld w 29, l2 := flag w 11 }

/-- `cinv` (R317). -/
def decCinvO (w : Nat) : CinvO :=
  { a := fld w 34, b := fld w 29, kind := fld w 10 }

/-- `ld` (R344). -/
def decLdO (w : Nat) : LdO :=
  { d := fld w 39, a := fld w 34, b := fld w 29, cls := fld w 25, sc := fld w 22, ord := fld w 20, sp := fld w 17,
    w := fld w 15, sx := flag w 14, c := flag w 13, h := flag w 12, disp := fld w 2 }

/-- `st` (R344). -/
def decStO (w : Nat) : StO :=
  { d := fld w 39, a := fld w 34, b := fld w 29, cls := fld w 25, sc := fld w 22, ord := fld w 20, sp := fld w 17,
    w := fld w 15, h := flag w 12, disp := fld w 2 }

/-- `ldt`, `stt` (R344). -/
def decLdtO (w : Nat) : LdtO :=
  { d := fld w 39, a := fld w 34, b := fld w 29, cls := fld w 25, sc := fld w 22, ord := fld w 20 }

/-- `amo`, and `cas` with PD in the place of OPC (R344). -/
def decAmoO (w : Nat) : AmoO :=
  { d := fld w 39, a := fld w 34, b := fld w 29, cls := fld w 25, sc := fld w 22, ord := fld w 20, sp := fld w 17,
    w := fld w 15, opc := fld w 11 }

/-- `red` (R344). -/
def decRedO (w : Nat) : RedO :=
  { a := fld w 34, b := fld w 29, cls := fld w 25, sc := fld w 22, ord := fld w 20, sp := fld w 17, w := fld w 15,
    opc := fld w 11 }

/-- `fence` (R344). -/
def decFenceO (w : Nat) : FenceO :=
  { mask := fld w 13, sc := fld w 10 }

/-- `waita` (R344). -/
def decWaitaO (w : Nat) : WaitaO :=
  { d := fld w 39, a := fld w 34, b := fld w 29, cls := fld w 25, sc := fld w 22, sp := fld w 17, w := fld w 15,
    tlg := fld w 10, cnd := fld w 8 }

/-- `pref` (R344). -/
def decPrefO (w : Nat) : PrefO :=
  { a := fld w 34, b := fld w 29, excl := flag w 11, l2 := flag w 10 }

/-- `sems` (R344). -/
def decSemsO (w : Nat) : SemsO :=
  { a := fld w 34, b := fld w 29, semi := fld w 21, sc := fld w 18 }

/-- `semw` (R344). -/
def decSemwO (w : Nat) : SemwO :=
  { semi := fld w 21, thr := fld w 5 }

/-- `semr` (R344). -/
def decSemrO (w : Nat) : SemrO :=
  { d := fld w 39, semi := fld w 21 }

/-- `barw` (R344). -/
def decBarwO (w : Nat) : BarwO :=
  { d := fld w 39, a := fld w 34, tlg := fld w 24 }

/-- `futi` (R344). -/
def decFutiO (w : Nat) : FutiO :=
  { a := fld w 34, cls := fld w 25 }

/-- `futs`, `futf` (R344). -/
def decFutsO (w : Nat) : FutsO :=
  { a := fld w 34, b := fld w 29, sc := fld w 22 }

/-- `futw` (R344). -/
def decFutwO (w : Nat) : FutwO :=
  { a := fld w 34, b := fld w 29, liveHi := fld w 39, liveLo := fld w 2 }

/-- `vld` (R373). -/
def decVldO (w : Nat) : VldO :=
  { d := fld w 39, a := fld w 34, b := fld w 29, t := fld w 25, cls := fld w 21, sc := fld w 18, sp := fld w 15,
    h := flag w 14, c := flag w 13, me := flag w 12, vm := fld w 7 }

/-- `vst` (R373). -/
def decVstO (w : Nat) : VstO :=
  { d := fld w 39, a := fld w 34, b := fld w 29, t := fld w 25, cls := fld w 21, sc := fld w 18, sp := fld w 15,
    h := flag w 14, me := flag w 12, vm := fld w 7 }

/-- `vgat` (R373). -/
def decVgatO (w : Nat) : VgatO :=
  { d := fld w 39, a := fld w 34, b := fld w 29, t := fld w 25, cls := fld w 21, sc := fld w 18, sp := fld w 15,
    h := flag w 14, c := flag w 13, me := flag w 12, vm := fld w 7, scl := flag w 6 }

/-- `vsct` (R373). -/
def decVsctO (w : Nat) : VsctO :=
  { d := fld w 39, a := fld w 34, b := fld w 29, t := fld w 25, cls := fld w 21, sc := fld w 18, sp := fld w 15,
    h := flag w 14, me := flag w 12, vm := fld w 7, scl := flag w 6 }

/-- `vldl`, `vstl` (R373). -/
def decVldlO (w : Nat) : VldlO :=
  { d := fld w 39, a := fld w 34, b := fld w 29, t := fld w 25, me := flag w 12, vm := fld w 7, ix := flag w 6 }

/-- `vadd` .. `vshr` (R373). -/
def decVarO (w : Nat) : VarO :=
  { d := fld w 39, a := fld w 34, b := fld w 29, t := fld w 25, rm := fld w 22, bs := flag w 21, me := flag w 12,
    vm := fld w 7 }

/-- `vand`, `vor`, `vxor` (R373). -/
def decVlogO (w : Nat) : VlogO :=
  { d := fld w 39, a := fld w 34, b := fld w 29, bs := flag w 21, me := flag w 12, vm := fld w 7 }

/-- `vabs` .. `vcis` (R373). -/
def decVunO (w : Nat) : VunO :=
  { d := fld w 39, a := fld w 34, t := fld w 25, rm := fld w 22, me := flag w 12, vm := fld w 7 }

/-- `vcvt` (R373). -/
def decVcvtO (w : Nat) : VcvtO :=
  { d := fld w 39, a := fld w 34, t := fld w 25, rm := fld w 22, sat := flag w 21, dt := fld w 17, me := flag w 12,
    vm := fld w 7 }

/-- `vcmp` (R373). -/
def decVcmpO (w : Nat) : VcmpO :=
  { d := fld w 39, a := fld w 34, b := fld w 29, t := fld w 25, bs := flag w 21, cc := fld w 18, me := flag w 12,
    vm := fld w 7 }

/-- `vsel` (R373). -/
def decVselO (w : Nat) : VselO :=
  { d := fld w 39, a := fld w 34, b := fld w 29, bs := flag w 21, vm := fld w 7 }

/-- `vred`, `vscan` (R373). -/
def decVredO (w : Nat) : VredO :=
  { d := fld w 39, a := fld w 34, t := fld w 25, rm := fld w 22, opr := fld w 18, me := flag w 12, vm := fld w 7 }

/-- `vcntge`, `vidx` (R373). -/
def decVcntO (w : Nat) : VcntO :=
  { d := fld w 39, a := fld w 34, b := fld w 29, t := fld w 25, me := flag w 12, vm := fld w 7 }

/-- `vperm` (R373). -/
def decVpermO (w : Nat) : VpermO :=
  { d := fld w 39, a := fld w 34, b := fld w 29, me := flag w 12, vm := fld w 7 }

/-- `vbc` (R373). -/
def decVbcO (w : Nat) : VbcO :=
  { d := fld w 39, a := fld w 34, t := fld w 25, me := flag w 12, vm := fld w 7 }

/-- `vins`, `vext` (R373). -/
def decVinsO (w : Nat) : VinsO :=
  { d := fld w 39, a := fld w 34, b := fld w 29, t := fld w 25 }

/-- `lnop` (R257, R388). -/
def decLnopO (w : Nat) : LnopO :=
  { d := fld w 39, a := fld w 34, b := fld w 29, fn := fld w 24, t := fld w 20, dt := fld w 16, rm := fld w 13,
    sat := flag w 12, kd := fld w 9, ka := fld w 6, kb := fld w 3, e4 := fld w 96, e3 := fld w 89, e2 := fld w 82,
    e1 := fld w 75, e0 := fld w 68, nlv := fld w 65, scb := fld w 252, sca := fld w 250, scd := fld w 248,
    sb4 := fld w 240, sb3 := fld w 232, sb2 := fld w 224, sb1 := fld w 216, sb0 := fld w 208, sa4 := fld w 200,
    sa3 := fld w 192, sa2 := fld w 184, sa1 := fld w 176, sa0 := fld w 168, sd4 := fld w 160, sd3 := fld w 152,
    sd2 := fld w 144, sd1 := fld w 136, sd0 := fld w 128 }

/-- The field instructions (R402). -/
def decFieldO (w : Nat) : FieldO :=
  { d := fld w 39, a := fld w 34, b := fld w 29, pa := fld w 21, pb := fld w 13, ka := fld w 10, kb := fld w 7,
    xr := fld w 2, km1 := fld w 91, mm1 := fld w 85, nm1 := fld w 79, at_ := flag w 78, gs := fld w 76,
    ne := fld w 70, br := fld w 65, be := flag w 64 }

/-- `aclr` (R403). -/
def decAclrO (w : Nat) : AclrO :=
  { amask := fld w 13 }

/-- `ald` (R403). -/
def decAldO (w : Nat) : AldO :=
  { d := fld w 39, a := fld w 34, ka := fld w 10, mm1 := fld w 85, nm1 := fld w 79 }

/-- `adrn` (R403). -/
def decAdrnO (w : Nat) : AdrnO :=
  { d := fld w 39, a := fld w 34, dt := fld w 25, rm := fld w 22, sat := flag w 21, at_ := flag w 20,
    lay := flag w 19, clr := flag w 18, kd := fld w 10, mm1 := fld w 85, nm1 := fld w 79 }

/-- `scacc` (R403). -/
def decScaccO (w : Nat) : ScaccO :=
  { d := fld w 39, a := fld w 34, b := fld w 29, ka := fld w 10, kb := fld w 7, sm := fld w 5, sf := flag w 4,
    pt := flag w 3, mm1 := fld w 85, nm1 := fld w 79 }

/-- `arow` (R403). -/
def decArowO (w : Nat) : ArowO :=
  { d := fld w 39, a := fld w 34, opr := fld w 26, accv := flag w 25, at_ := flag w 20, mm1 := fld w 85,
    nm1 := fld w 79 }

/-- `ast` (R403). -/
def decAstO (w : Nat) : AstO :=
  { d := fld w 39, cmask := fld w 13 }

/-- The fields that all drift commands lay out alike (R442). -/
def decDrO (w : Nat) : DrO :=
  { d := fld w 39, a := fld w 34, b := fld w 29, kd := fld w 26, ka := fld w 23, cv := fld w 21, et := fld w 17,
    hm1 := fld w 11, fp := flag w 10, csc := fld w 8, scout := fld w 2, fr := fld w 98, fv := flag w 97,
    tr := fld w 92, tv := flag w 91 }

/-- `cpy` (R442). -/
def decCpyO (w : Nat) : CpyO :=
  { c := decDrO w, tc := flag w 90 }

/-- `cpym` (R442). -/
def decCpymO (w : Nat) : CpymO :=
  { c := decDrO w, rsi := fld w 83, rds := fld w 71, xs := flag w 70 }

/-- `cpyq` (R442). -/
def decCpyqO (w : Nat) : CpyqO :=
  { c := decDrO w, qr := fld w 86 }

/-- `fill` (R442). -/
def decFillO (w : Nat) : FillO :=
  { c := decDrO w, tc := flag w 90, pw := fld w 88 }

/-- `cpyt` (R442). -/
def decCpytO (w : Nat) : CpytO :=
  { c := decDrO w, tc := flag w 90, dir := flag w 89, bx0m1 := fld w 82, bx1m1 := fld w 75 }

/-- `talloc` (R426). -/
def decTallocO (w : Nat) : TallocO :=
  { d := fld w 39, a := fld w 34, imm := fld w 13, p := flag w 12, lvl := fld w 10, pgm1 := fld w 5 }

/-- `tcon` (R426). -/
def decTconO (w : Nat) : TconO :=
  { a := fld w 34, imm := fld w 13, p := flag w 12 }

/-- `tinf` (R426). -/
def decTinfO (w : Nat) : TinfO :=
  { d := fld w 39, a := fld w 34, sel := fld w 2 }

/-- `tts`, `rsyn`: fields A and B (R426). -/
def decAB (w : Nat) : AB :=
  { a := fld w 34, b := fld w 29 }

/-- `slput` (R426). -/
def decSlputO (w : Nat) : SlputO :=
  { d := fld w 39, a := fld w 34, b := fld w 29, nx := flag w 11 }

/-- `sopen` (R426). -/
def decSopenO (w : Nat) : SopenO :=
  { d := fld w 39, a := fld w 34 }

/-- `pump` (R426). -/
def decPumpO (w : Nat) : PumpO :=
  { a := fld w 34, b := fld w 29, dir := flag w 11 }

/-- `rqry` (R426). -/
def decRqryO (w : Nat) : RqryO :=
  { d := fld w 39, a := fld w 34, kp := flag w 11, ks := fld w 7, inp := flag w 5, sel := fld w 2 }

/-- `rres` (R426). -/
def decRresO (w : Nat) : RresO :=
  { d := fld w 39, a := fld w 34, b := fld w 29, kp := flag w 11, ks := fld w 7, sub := fld w 5, fw := flag w 4 }

/-- `rskp`, `rrev` (R426). -/
def decRruleO (w : Nat) : RruleO :=
  { a := fld w 34, kp := flag w 11, ks := fld w 7 }

/-- `spawn`, `spawng` (R426). -/
def decSpawnO (w : Nat) : SpawnO :=
  { d := fld w 39, a := fld w 34, b := fld w 29, rg := flag w 102 }

/-- Engine class 0, SC, by OP (R265). -/
def tableSC : List (Nat → Instr) :=
  [fun w => .nop (decSeqn w),
   fun w => .add (decSeqn w) (decAlu w),
   fun w => .sub (decSeqn w) (decAlu w),
   fun w => .mul (decSeqn w) (decAlu w),
   fun w => .mulh (decSeqn w) (decAlu w),
   fun w => .div (decSeqn w) (decAlu w),
   fun w => .rem (decSeqn w) (decAlu w),
   fun w => .and (decSeqn w) (decAlu w),
   fun w => .or (decSeqn w) (decAlu w),
   fun w => .xor (decSeqn w) (decAlu w),
   fun w => .andn (decSeqn w) (decAlu w),
   fun w => .shl (decSeqn w) (decAlu w),
   fun w => .shr (decSeqn w) (decAlu w),
   fun w => .sar (decSeqn w) (decAlu w),
   fun w => .rot (decSeqn w) (decAlu w),
   fun w => .clz (decSeqn w) (decCntO w),
   fun w => .popc (decSeqn w) (decCntO w),
   fun w => .min (decSeqn w) (decAlu w),
   fun w => .max (decSeqn w) (decAlu w),
   fun w => .sext (decSeqn w) (decSextO w),
   fun w => .bfx (decSeqn w) (decBfO w),
   fun w => .bfi (decSeqn w) (decBfO w),
   fun w => .sel (decSeqn w) (decSelO w),
   fun w => .movi (decSeqn w) (decMoviO w),
   fun w => .lea (decSeqn w) (decLeaO w),
   fun w => .cmp (decSeqn w) (decCmpO w),
   fun w => .plog (decSeqn w) (decPlogO w),
   fun w => .pmov (decSeqn w) (decPmovO w),
   fun w => .jmpr (decA1 w),
   fun w => .callr (decA1 w),
   fun w => .callx (decCallxO w),
   fun w => .loopset (decSeqn w) (decLoopsetO w)]

/-- Engine class 1, MM, by OP (R265). -/
def tableMM : List (Nat → Instr) :=
  [fun w => .ld (decSeqn w) (decLdO w),
   fun w => .st (decSeqn w) (decStO w),
   fun w => .amo (decSeqn w) (decAmoO w),
   fun w => .cas (decSeqn w) (decAmoO w),
   fun w => .red (decSeqn w) (decRedO w),
   fun w => .fence (decSeqn w) (decFenceO w),
   fun w => .waita (decSeqn w) (decWaitaO w),
   fun w => .pref (decSeqn w) (decPrefO w),
   fun w => .sems (decSeqn w) (decSemsO w),
   fun w => .semw (decSeqn w) (decSemwO w),
   fun w => .semr (decSeqn w) (decSemrO w),
   fun w => .bar (decSeqn w) (decD1 w),
   fun w => .barw (decSeqn w) (decBarwO w),
   fun w => .futi (decSeqn w) (decFutiO w),
   fun w => .futw (decSeqn w) (decFutwO w),
   fun w => .futs (decSeqn w) (decFutsO w),
   fun w => .futf (decSeqn w) (decFutsO w),
   fun w => .ldt (decSeqn w) (decLdtO w),
   fun w => .stt (decSeqn w) (decLdtO w)]

/-- Engine class 2, VX, by OP (R265). -/
def tableVX : List (Nat → Instr) :=
  [fun w => .vld (decSeqn w) (decVldO w),
   fun w => .vst (decSeqn w) (decVstO w),
   fun w => .vgat (decSeqn w) (decVgatO w),
   fun w => .vsct (decSeqn w) (decVsctO w),
   fun w => .vldl (decSeqn w) (decVldlO w),
   fun w => .vstl (decSeqn w) (decVldlO w),
   fun w => .vadd (decSeqn w) (decVarO w),
   fun w => .vsub (decSeqn w) (decVarO w),
   fun w => .vmul (decSeqn w) (decVarO w),
   fun w => .vfma (decSeqn w) (decVarO w),
   fun w => .vmin (decSeqn w) (decVarO w),
   fun w => .vmax (decSeqn w) (decVarO w),
   fun w => .vabs (decSeqn w) (decVunO w),
   fun w => .vneg (decSeqn w) (decVunO w),
   fun w => .vrcp (decSeqn w) (decVunO w),
   fun w => .vrsq (decSeqn w) (decVunO w),
   fun w => .vex2 (decSeqn w) (decVunO w),
   fun w => .vlg2 (decSeqn w) (decVunO w),
   fun w => .vcis (decSeqn w) (decVunO w),
   fun w => .vcvt (decSeqn w) (decVcvtO w),
   fun w => .vand (decSeqn w) (decVlogO w),
   fun w => .vor (decSeqn w) (decVlogO w),
   fun w => .vxor (decSeqn w) (decVlogO w),
   fun w => .vshl (decSeqn w) (decVarO w),
   fun w => .vshr (decSeqn w) (decVarO w),
   fun w => .vcmp (decSeqn w) (decVcmpO w),
   fun w => .vsel (decSeqn w) (decVselO w),
   fun w => .vred (decSeqn w) (decVredO w),
   fun w => .vscan (decSeqn w) (decVredO w),
   fun w => .vperm (decSeqn w) (decVpermO w),
   fun w => .vbc (decSeqn w) (decVbcO w),
   fun w => .vins (decSeqn w) (decVinsO w),
   fun w => .vext (decSeqn w) (decVinsO w),
   fun w => .vcntge (decSeqn w) (decVcntO w),
   fun w => .vidx (decSeqn w) (decVcntO w)]

/-- Engine class 3, MX, by OP (R265). -/
def tableMX : List (Nat → Instr) :=
  [fun w => .aclr (decSeqn w) (decSync w) (decAclrO w),
   fun w => .mma (decSeqn w) (decSync w) (decFieldO w),
   fun w => .mmaq (decSeqn w) (decSync w) (decFieldO w),
   fun w => .mma3 (decSeqn w) (decSync w) (decFieldO w),
   fun w => .scacc (decSeqn w) (decSync w) (decScaccO w),
   fun w => .adrn (decSeqn w) (decSync w) (decAdrnO w),
   fun w => .ald (decSeqn w) (decSync w) (decAldO w),
   fun w => .arow (decSeqn w) (decSync w) (decArowO w),
   fun w => .bsmm (decSeqn w) (decSync w) (decFieldO w),
   fun w => .gmm (decSeqn w) (decSync w) (decFieldO w),
   fun w => .ast (decSeqn w) (decSync w) (decAstO w)]

/-- Engine class 4, DR, by OP (R265). -/
def tableDR : List (Nat → Instr) :=
  [fun w => .cpy (decSeqn w) (decSync w) (decCpyO w),
   fun w => .cpym (decSeqn w) (decSync w) (decCpymO w),
   fun w => .cpyq (decSeqn w) (decSync w) (decCpyqO w),
   fun w => .fill (decSeqn w) (decSync w) (decFillO w),
   fun w => .disc (decSeqn w) (decSync w) (decDrO w),
   fun w => .cpyt (decSeqn w) (decSync w) (decCpytO w)]

/-- Engine class 5, TS, by OP (R265). -/
def tableTS : List (Nat → Instr) :=
  [fun w => .talloc (decSeqn w) (decTallocO w),
   fun w => .tcmt (decSeqn w) (decA1 w),
   fun w => .tabt (decSeqn w) (decA1 w),
   fun w => .tcon (decSeqn w) (decTconO w),
   fun w => .tinf (decSeqn w) (decTinfO w),
   fun w => .tts (decSeqn w) (decAB w),
   fun w => .slput (decSeqn w) (decSlputO w),
   fun w => .sleos (decSeqn w) (decA1 w),
   fun w => .sopen (decSeqn w) (decSopenO w),
   fun w => .pump (decSeqn w) (decPumpO w),
   fun w => .rqry (decSeqn w) (decRqryO w),
   fun w => .rres (decSeqn w) (decRresO w),
   fun w => .rskp (decSeqn w) (decRruleO w),
   fun w => .rrev (decSeqn w) (decRruleO w),
   fun w => .rsyn (decSeqn w) (decAB w),
   fun w => .spawn (decSeqn w) (decSync w) (decSpawnO w),
   fun w => .spawng (decSeqn w) (decSync w) (decSpawnO w)]

/-- Engine class 6, SY, by OP (R265). -/
def tableSY : List (Nat → Instr) :=
  [fun w => .mfs (decSeqn w) (decMfsO w),
   fun w => .mts (decSeqn w) (decMtsO w),
   fun w => .trap (decSeqn w) (decTrapO w),
   fun w => .eret,
   fun w => .suspend (decSeqn w) (decRecO w),
   fun w => .yield (decSeqn w),
   fun w => .cmt (decSeqn w) (decRecO w),
   fun w => .fchk (decSeqn w) (decD1 w),
   fun w => .cwb (decSeqn w) (decCwbO w),
   fun w => .cinv (decSeqn w) (decCinvO w)]

/-- The number of doublewords of an assigned (EC, OP) (R247, R265); `none` where unassigned. -/
def formatOf (ec op : Nat) : Option Nat :=
  match ec with
  | 0 => if op < 0x20 then some 1 else none
  | 1 => if op < 0x13 then some 1 else none
  | 2 => if op < 0x23 then some 1 else if op = 0x40 then some 4 else none
  | 3 => if op < 0x0B then some 2 else none
  | 4 => if op < 0x06 then some 2 else none
  | 5 => if op < 0x0F then some 1 else if op < 0x11 then some 2 else none
  | 6 => if op < 0x0A then some 1 else none
  | _ => none

/-- The instruction that (EC, OP) names, with the fields it uses. -/
def rawDecode (w : Nat) : Option Instr :=
  let op := w / 2 ^ 54 % 128
  match w / 2 ^ 61 % 8 with
  | 0 => tableSC[op]?.map (· w)
  | 1 => tableMM[op]?.map (· w)
  | 2 => if op = 0x40 then some (.lnop (decSeqn w) (decSync w) (decLnopO w)) else tableVX[op]?.map (· w)
  | 3 => tableMX[op]?.map (· w)
  | 4 => tableDR[op]?.map (· w)
  | 5 => tableTS[op]?.map (· w)
  | 6 => tableSY[op]?.map (· w)
  | _ => none

/-! The encoder, from the same tables: an instruction as (width, value) pairs from bit 0 up, zero where nothing stands. -/

/-- The number that the pairs spell. -/
def pack : List (Nat × Nat) → Nat
  | [] => 0
  | (k, v) :: r => v % 2 ^ k + 2 ^ k * pack r

/-- Bits [43:2]. -/
def lowAlu (o : Alu) : List (Nat × Nat) :=
  [(7, 0), (1, o.u.toNat), (1, o.w.toNat), (1, o.i.toNat), (1, o.p.toNat), (16, o.imm.toNat), (5, o.b.toNat),
   (5, o.a.toNat), (5, o.d.toNat)]

/-- Bits [43:2]. -/
def lowCntO (o : CntO) : List (Nat × Nat) :=
  [(8, 0), (1, o.w.toNat), (23, 0), (5, o.a.toNat), (5, o.d.toNat)]

/-- Bits [43:2]. -/
def lowSextO (o : SextO) : List (Nat × Nat) :=
  [(3, 0), (1, o.z.toNat), (6, o.bit.toNat), (22, 0), (5, o.a.toNat), (5, o.d.toNat)]

/-- Bits [43:2]. -/
def lowBfO (o : BfO) : List (Nat × Nat) :=
  [(13, 0), (1, o.sx.toNat), (7, o.len.toNat), (6, o.pos.toNat), (5, 0), (5, o.a.toNat), (5, o.d.toNat)]

/-- Bits [43:2]. -/
def lowSelO (o : SelO) : List (Nat × Nat) :=
  [(6, 0), (4, o.ps.toNat), (17, 0), (5, o.b.toNat), (5, o.a.toNat), (5, o.d.toNat)]

/-- Bits [43:2]. -/
def lowMoviO (o : MoviO) : List (Nat × Nat) :=
  [(6, 0), (1, o.z.toNat), (1, o.kp.toNat), (2, o.hw.toNat), (1, o.p.toNat), (16, o.imm.toNat), (10, 0),
   (5, o.d.toNat)]

/-- Bits [43:2]. -/
def lowLeaO (o : LeaO) : List (Nat × Nat) :=
  [(7, 0), (3, o.sh.toNat), (1, o.p.toNat), (16, o.imm.toNat), (5, o.b.toNat), (5, o.a.toNat), (5, o.d.toNat)]

/-- Bits [43:2]. -/
def lowCmpO (o : CmpO) : List (Nat × Nat) :=
  [(2, 0), (2, o.cmb.toNat), (4, o.cc.toNat), (1, o.w.toNat), (1, o.i.toNat), (1, o.p.toNat), (16, o.imm.toNat),
   (5, o.b.toNat), (5, o.a.toNat), (5, o.d.toNat)]

/-- Bits [43:2]. -/
def lowPlogO (o : PlogO) : List (Nat × Nat) :=
  [(6, 0), (4, o.tt.toNat), (17, 0), (5, o.b.toNat), (5, o.a.toNat), (5, o.d.toNat)]

/-- Bits [43:2]. -/
def lowPmovO (o : PmovO) : List (Nat × Nat) :=
  [(8, 0), (2, o.dir.toNat), (22, 0), (5, o.a.toNat), (5, o.d.toNat)]

/-- Bits [43:2]. -/
def lowA1 (o : A1) : List (Nat × Nat) :=
  [(32, 0), (5, o.a.toNat), (5, 0)]

/-- Bits [43:2]. -/
def lowD1 (o : D1) : List (Nat × Nat) :=
  [(37, 0), (5, o.d.toNat)]

/-- Bits [43:2]. -/
def lowCallxO (o : CallxO) : List (Nat × Nat) :=
  [(10, 0), (1, o.p.toNat), (16, o.imm.toNat), (5, 0), (5, o.a.toNat), (5, 0)]

/-- Bits [43:2]. -/
def lowLoopsetO (o : LoopsetO) : List (Nat × Nat) :=
  [(7, 0), (2, o.lcn.toNat), (1, o.i.toNat), (1, o.p.toNat), (16, o.imm.toNat), (5, 0), (5, o.a.toNat), (5, 0)]

/-- Bits [43:2]. -/
def lowMfsO (o : MfsO) : List (Nat × Nat) :=
  [(2, 0), (8, o.srn.toNat), (27, 0), (5, o.d.toNat)]

/-- Bits [43:2]. -/
def lowMtsO (o : MtsO) : List (Nat × Nat) :=
  [(2, 0), (8, o.srn.toNat), (22, 0), (5, o.a.toNat), (5, 0)]

/-- Bits [43:2]. -/
def lowTrapO (o : TrapO) : List (Nat × Nat) :=
  [(10, 0), (1, o.p.toNat), (16, o.imm.toNat), (15, 0)]

/-- Bits [43:2]. -/
def lowRecO (o : RecO) : List (Nat × Nat) :=
  [(27, o.liveLo.toNat), (5, 0), (5, o.a.toNat), (4, o.liveHi.toNat), (1, 0)]

/-- Bits [43:2]. -/
def lowCwbO (o : CwbO) : List (Nat × Nat) :=
  [(9, 0), (1, o.l2.toNat), (17, 0), (5, o.b.toNat), (5, o.a.toNat), (5, 0)]

/-- Bits [43:2]. -/
def lowCinvO (o : CinvO) : List (Nat × Nat) :=
  [(8, 0), (2, o.kind.toNat), (17, 0), (5, o.b.toNat), (5, o.a.toNat), (5, 0)]

/-- Bits [43:2]. -/
def lowLdO (o : LdO) : List (Nat × Nat) :=
  [(10, o.disp.toNat), (1, o.h.toNat), (1, o.c.toNat), (1, o.sx.toNat), (2, o.w.toNat), (3, o.sp.toNat),
   (2, o.ord.toNat), (3, o.sc.toNat), (4, o.cls.toNat), (5, o.b.toNat), (5, o.a.toNat), (5, o.d.toNat)]

/-- Bits [43:2]. -/
def lowStO (o : StO) : List (Nat × Nat) :=
  [(10, o.disp.toNat), (1, o.h.toNat), (2, 0), (2, o.w.toNat), (3, o.sp.toNat), (2, o.ord.toNat), (3, o.sc.toNat),
   (4, o.cls.toNat), (5, o.b.toNat), (5, o.a.toNat), (5, o.d.toNat)]

/-- Bits [43:2]. -/
def lowLdtO (o : LdtO) : List (Nat × Nat) :=
  [(18, 0), (2, o.ord.toNat), (3, o.sc.toNat), (4, o.cls.toNat), (5, o.b.toNat), (5, o.a.toNat), (5, o.d.toNat)]

/-- Bits [43:2]. -/
def lowAmoO (o : AmoO) : List (Nat × Nat) :=
  [(9, 0), (4, o.opc.toNat), (2, o.w.toNat), (3, o.sp.toNat), (2, o.ord.toNat), (3, o.sc.toNat), (4, o.cls.toNat),
   (5, o.b.toNat), (5, o.a.toNat), (5, o.d.toNat)]

/-- Bits [43:2]. -/
def lowRedO (o : RedO) : List (Nat × Nat) :=
  [(9, 0), (4, o.opc.toNat), (2, o.w.toNat), (3, o.sp.toNat), (2, o.ord.toNat), (3, o.sc.toNat), (4, o.cls.toNat),
   (5, o.b.toNat), (5, o.a.toNat), (5, 0)]

/-- Bits [43:2]. -/
def lowFenceO (o : FenceO) : List (Nat × Nat) :=
  [(8, 0), (3, o.sc.toNat), (16, o.mask.toNat), (15, 0)]

/-- Bits [43:2]. -/
def lowWaitaO (o : WaitaO) : List (Nat × Nat) :=
  [(6, 0), (2, o.cnd.toNat), (5, o.tlg.toNat), (2, o.w.toNat), (3, o.sp.toNat), (2, 0), (3, o.sc.toNat),
   (4, o.cls.toNat), (5, o.b.toNat), (5, o.a.toNat), (5, o.d.toNat)]

/-- Bits [43:2]. -/
def lowPrefO (o : PrefO) : List (Nat × Nat) :=
  [(8, 0), (1, o.l2.toNat), (1, o.excl.toNat), (17, 0), (5, o.b.toNat), (5, o.a.toNat), (5, 0)]

/-- Bits [43:2]. -/
def lowSemsO (o : SemsO) : List (Nat × Nat) :=
  [(16, 0), (3, o.sc.toNat), (8, o.semi.toNat), (5, o.b.toNat), (5, o.a.toNat), (5, 0)]

/-- Bits [43:2]. -/
def lowSemwO (o : SemwO) : List (Nat × Nat) :=
  [(3, 0), (16, o.thr.toNat), (8, o.semi.toNat), (15, 0)]

/-- Bits [43:2]. -/
def lowSemrO (o : SemrO) : List (Nat × Nat) :=
  [(19, 0), (8, o.semi.toNat), (10, 0), (5, o.d.toNat)]

/-- Bits [43:2]. -/
def lowBarwO (o : BarwO) : List (Nat × Nat) :=
  [(22, 0), (5, o.tlg.toNat), (5, 0), (5, o.a.toNat), (5, o.d.toNat)]

/-- Bits [43:2]. -/
def lowFutiO (o : FutiO) : List (Nat × Nat) :=
  [(23, 0), (4, o.cls.toNat), (5, 0), (5, o.a.toNat), (5, 0)]

/-- Bits [43:2]. -/
def lowFutsO (o : FutsO) : List (Nat × Nat) :=
  [(20, 0), (3, o.sc.toNat), (4, 0), (5, o.b.toNat), (5, o.a.toNat), (5, 0)]

/-- Bits [43:2]. -/
def lowFutwO (o : FutwO) : List (Nat × Nat) :=
  [(27, o.liveLo.toNat), (5, o.b.toNat), (5, o.a.toNat), (4, o.liveHi.toNat), (1, 0)]

/-- Bits [43:2]. -/
def lowVldO (o : VldO) : List (Nat × Nat) :=
  [(5, 0), (5, o.vm.toNat), (1, o.me.toNat), (1, o.c.toNat), (1, o.h.toNat), (3, o.sp.toNat), (3, o.sc.toNat),
   (4, o.cls.toNat), (4, o.t.toNat), (5, o.b.toNat), (5, o.a.toNat), (5, o.d.toNat)]

/-- Bits [43:2]. -/
def lowVstO (o : VstO) : List (Nat × Nat) :=
  [(5, 0), (5, o.vm.toNat), (1, o.me.toNat), (1, 0), (1, o.h.toNat), (3, o.sp.toNat), (3, o.sc.toNat),
   (4, o.cls.toNat), (4, o.t.toNat), (5, o.b.toNat), (5, o.a.toNat), (5, o.d.toNat)]

/-- Bits [43:2]. -/
def lowVgatO (o : VgatO) : List (Nat × Nat) :=
  [(4, 0), (1, o.scl.toNat), (5, o.vm.toNat), (1, o.me.toNat), (1, o.c.toNat), (1, o.h.toNat), (3, o.sp.toNat),
   (3, o.sc.toNat), (4, o.cls.toNat), (4, o.t.toNat), (5, o.b.toNat), (5, o.a.toNat), (5, o.d.toNat)]

/-- Bits [43:2]. -/
def lowVsctO (o : VsctO) : List (Nat × Nat) :=
  [(4, 0), (1, o.scl.toNat), (5, o.vm.toNat), (1, o.me.toNat), (1, 0), (1, o.h.toNat), (3, o.sp.toNat),
   (3, o.sc.toNat), (4, o.cls.toNat), (4, o.t.toNat), (5, o.b.toNat), (5, o.a.toNat), (5, o.d.toNat)]

/-- Bits [43:2]. -/
def lowVldlO (o : VldlO) : List (Nat × Nat) :=
  [(4, 0), (1, o.ix.toNat), (5, o.vm.toNat), (1, o.me.toNat), (12, 0), (4, o.t.toNat), (5, o.b.toNat), (5, o.a.toNat),
   (5, o.d.toNat)]

/-- Bits [43:2]. -/
def lowVarO (o : VarO) : List (Nat × Nat) :=
  [(5, 0), (5, o.vm.toNat), (1, o.me.toNat), (8, 0), (1, o.bs.toNat), (3, o.rm.toNat), (4, o.t.toNat), (5, o.b.toNat),
   (5, o.a.toNat), (5, o.d.toNat)]

/-- Bits [43:2]. -/
def lowVlogO (o : VlogO) : List (Nat × Nat) :=
  [(5, 0), (5, o.vm.toNat), (1, o.me.toNat), (8, 0), (1, o.bs.toNat), (7, 0), (5, o.b.toNat), (5, o.a.toNat),
   (5, o.d.toNat)]

/-- Bits [43:2]. -/
def lowVunO (o : VunO) : List (Nat × Nat) :=
  [(5, 0), (5, o.vm.toNat), (1, o.me.toNat), (9, 0), (3, o.rm.toNat), (4, o.t.toNat), (5, 0), (5, o.a.toNat),
   (5, o.d.toNat)]

/-- Bits [43:2]. -/
def lowVcvtO (o : VcvtO) : List (Nat × Nat) :=
  [(5, 0), (5, o.vm.toNat), (1, o.me.toNat), (4, 0), (4, o.dt.toNat), (1, o.sat.toNat), (3, o.rm.toNat),
   (4, o.t.toNat), (5, 0), (5, o.a.toNat), (5, o.d.toNat)]

/-- Bits [43:2]. -/
def lowVcmpO (o : VcmpO) : List (Nat × Nat) :=
  [(5, 0), (5, o.vm.toNat), (1, o.me.toNat), (5, 0), (3, o.cc.toNat), (1, o.bs.toNat), (3, 0), (4, o.t.toNat),
   (5, o.b.toNat), (5, o.a.toNat), (5, o.d.toNat)]

/-- Bits [43:2]. -/
def lowVselO (o : VselO) : List (Nat × Nat) :=
  [(5, 0), (5, o.vm.toNat), (9, 0), (1, o.bs.toNat), (7, 0), (5, o.b.toNat), (5, o.a.toNat), (5, o.d.toNat)]

/-- Bits [43:2]. -/
def lowVredO (o : VredO) : List (Nat × Nat) :=
  [(5, 0), (5, o.vm.toNat), (1, o.me.toNat), (5, 0), (3, o.opr.toNat), (1, 0), (3, o.rm.toNat), (4, o.t.toNat),
   (5, 0), (5, o.a.toNat), (5, o.d.toNat)]

/-- Bits [43:2]. -/
def lowVcntO (o : VcntO) : List (Nat × Nat) :=
  [(5, 0), (5, o.vm.toNat), (1, o.me.toNat), (12, 0), (4, o.t.toNat), (5, o.b.toNat), (5, o.a.toNat), (5, o.d.toNat)]

/-- Bits [43:2]. -/
def lowVpermO (o : VpermO) : List (Nat × Nat) :=
  [(5, 0), (5, o.vm.toNat), (1, o.me.toNat), (16, 0), (5, o.b.toNat), (5, o.a.toNat), (5, o.d.toNat)]

/-- Bits [43:2]. -/
def lowVbcO (o : VbcO) : List (Nat × Nat) :=
  [(5, 0), (5, o.vm.toNat), (1, o.me.toNat), (12, 0), (4, o.t.toNat), (5, 0), (5, o.a.toNat), (5, o.d.toNat)]

/-- Bits [43:2]. -/
def lowVinsO (o : VinsO) : List (Nat × Nat) :=
  [(23, 0), (4, o.t.toNat), (5, o.b.toNat), (5, o.a.toNat), (5, o.d.toNat)]

/-- Bits [43:2]. -/
def lowLnopO (o : LnopO) : List (Nat × Nat) :=
  [(1, 0), (3, o.kb.toNat), (3, o.ka.toNat), (3, o.kd.toNat), (1, o.sat.toNat), (3, o.rm.toNat), (4, o.dt.toNat),
   (4, o.t.toNat), (5, o.fn.toNat), (5, o.b.toNat), (5, o.a.toNat), (5, o.d.toNat)]

/-- Bits [102:64]. -/
def cmdLnopO (o : LnopO) : List (Nat × Nat) :=
  [(1, 0), (3, o.nlv.toNat), (7, o.e0.toNat), (7, o.e1.toNat), (7, o.e2.toNat), (7, o.e3.toNat), (7, o.e4.toNat)]

/-- Bits [255:128]. -/
def topLnopO (o : LnopO) : List (Nat × Nat) :=
  [(8, o.sd0.toNat), (8, o.sd1.toNat), (8, o.sd2.toNat), (8, o.sd3.toNat), (8, o.sd4.toNat), (8, o.sa0.toNat),
   (8, o.sa1.toNat), (8, o.sa2.toNat), (8, o.sa3.toNat), (8, o.sa4.toNat), (8, o.sb0.toNat), (8, o.sb1.toNat),
   (8, o.sb2.toNat), (8, o.sb3.toNat), (8, o.sb4.toNat), (2, o.scd.toNat), (2, o.sca.toNat), (2, o.scb.toNat), (2, 0)]

/-- Bits [43:2]. -/
def lowFieldO (o : FieldO) : List (Nat × Nat) :=
  [(5, o.xr.toNat), (3, o.kb.toNat), (3, o.ka.toNat), (8, o.pb.toNat), (8, o.pa.toNat), (5, o.b.toNat),
   (5, o.a.toNat), (5, o.d.toNat)]

/-- Bits [102:64]. -/
def cmdFieldO (o : FieldO) : List (Nat × Nat) :=
  [(1, o.be.toNat), (5, o.br.toNat), (6, o.ne.toNat), (2, o.gs.toNat), (1, o.at_.toNat), (6, o.nm1.toNat),
   (6, o.mm1.toNat), (12, o.km1.toNat)]

/-- Bits [43:2]. -/
def lowAclrO (o : AclrO) : List (Nat × Nat) :=
  [(11, 0), (16, o.amask.toNat), (15, 0)]

/-- Bits [102:64]. -/
def cmdAclrO (o : AclrO) : List (Nat × Nat) :=
  [(39, 0)]

/-- Bits [43:2]. -/
def lowAldO (o : AldO) : List (Nat × Nat) :=
  [(8, 0), (3, o.ka.toNat), (21, 0), (5, o.a.toNat), (5, o.d.toNat)]

/-- Bits [102:64]. -/
def cmdAldO (o : AldO) : List (Nat × Nat) :=
  [(15, 0), (6, o.nm1.toNat), (6, o.mm1.toNat), (12, 0)]

/-- Bits [43:2]. -/
def lowAdrnO (o : AdrnO) : List (Nat × Nat) :=
  [(8, 0), (3, o.kd.toNat), (5, 0), (1, o.clr.toNat), (1, o.lay.toNat), (1, o.at_.toNat), (1, o.sat.toNat),
   (3, o.rm.toNat), (4, o.dt.toNat), (5, 0), (5, o.a.toNat), (5, o.d.toNat)]

/-- Bits [102:64]. -/
def cmdAdrnO (o : AdrnO) : List (Nat × Nat) :=
  [(15, 0), (6, o.nm1.toNat), (6, o.mm1.toNat), (12, 0)]

/-- Bits [43:2]. -/
def lowScaccO (o : ScaccO) : List (Nat × Nat) :=
  [(1, 0), (1, o.pt.toNat), (1, o.sf.toNat), (2, o.sm.toNat), (3, o.kb.toNat), (3, o.ka.toNat), (16, 0),
   (5, o.b.toNat), (5, o.a.toNat), (5, o.d.toNat)]

/-- Bits [102:64]. -/
def cmdScaccO (o : ScaccO) : List (Nat × Nat) :=
  [(15, 0), (6, o.nm1.toNat), (6, o.mm1.toNat), (12, 0)]

/-- Bits [43:2]. -/
def lowArowO (o : ArowO) : List (Nat × Nat) :=
  [(18, 0), (1, o.at_.toNat), (4, 0), (1, o.accv.toNat), (3, o.opr.toNat), (5, 0), (5, o.a.toNat), (5, o.d.toNat)]

/-- Bits [102:64]. -/
def cmdArowO (o : ArowO) : List (Nat × Nat) :=
  [(15, 0), (6, o.nm1.toNat), (6, o.mm1.toNat), (12, 0)]

/-- Bits [43:2]. -/
def lowAstO (o : AstO) : List (Nat × Nat) :=
  [(11, 0), (16, o.cmask.toNat), (10, 0), (5, o.d.toNat)]

/-- Bits [102:64]. -/
def cmdAstO (o : AstO) : List (Nat × Nat) :=
  [(39, 0)]

/-- Bits [43:2]. -/
def lowDrO (o : DrO) : List (Nat × Nat) :=
  [(6, o.scout.toNat), (2, o.csc.toNat), (1, o.fp.toNat), (6, o.hm1.toNat), (4, o.et.toNat), (2, o.cv.toNat),
   (3, o.ka.toNat), (3, o.kd.toNat), (5, o.b.toNat), (5, o.a.toNat), (5, o.d.toNat)]

/-- Bits [102:64]. -/
def cmdDrO (o : DrO) : List (Nat × Nat) :=
  [(27, 0), (1, o.tv.toNat), (5, o.tr.toNat), (1, o.fv.toNat), (5, o.fr.toNat)]

/-- Bits [43:2]. -/
def lowCpyO (o : CpyO) : List (Nat × Nat) :=
  [(6, o.c.scout.toNat), (2, o.c.csc.toNat), (1, o.c.fp.toNat), (6, o.c.hm1.toNat), (4, o.c.et.toNat),
   (2, o.c.cv.toNat), (3, o.c.ka.toNat), (3, o.c.kd.toNat), (5, o.c.b.toNat), (5, o.c.a.toNat), (5, o.c.d.toNat)]

/-- Bits [102:64]. -/
def cmdCpyO (o : CpyO) : List (Nat × Nat) :=
  [(26, 0), (1, o.tc.toNat), (1, o.c.tv.toNat), (5, o.c.tr.toNat), (1, o.c.fv.toNat), (5, o.c.fr.toNat)]

/-- Bits [43:2]. -/
def lowCpymO (o : CpymO) : List (Nat × Nat) :=
  [(6, o.c.scout.toNat), (2, o.c.csc.toNat), (1, o.c.fp.toNat), (6, o.c.hm1.toNat), (4, o.c.et.toNat),
   (2, o.c.cv.toNat), (3, o.c.ka.toNat), (3, o.c.kd.toNat), (5, o.c.b.toNat), (5, o.c.a.toNat), (5, o.c.d.toNat)]

/-- Bits [102:64]. -/
def cmdCpymO (o : CpymO) : List (Nat × Nat) :=
  [(6, 0), (1, o.xs.toNat), (12, o.rds.toNat), (8, o.rsi.toNat), (1, o.c.tv.toNat), (5, o.c.tr.toNat),
   (1, o.c.fv.toNat), (5, o.c.fr.toNat)]

/-- Bits [43:2]. -/
def lowCpyqO (o : CpyqO) : List (Nat × Nat) :=
  [(6, o.c.scout.toNat), (2, o.c.csc.toNat), (1, o.c.fp.toNat), (6, o.c.hm1.toNat), (4, o.c.et.toNat),
   (2, o.c.cv.toNat), (3, o.c.ka.toNat), (3, o.c.kd.toNat), (5, o.c.b.toNat), (5, o.c.a.toNat), (5, o.c.d.toNat)]

/-- Bits [102:64]. -/
def cmdCpyqO (o : CpyqO) : List (Nat × Nat) :=
  [(22, 0), (5, o.qr.toNat), (1, o.c.tv.toNat), (5, o.c.tr.toNat), (1, o.c.fv.toNat), (5, o.c.fr.toNat)]

/-- Bits [43:2]. -/
def lowFillO (o : FillO) : List (Nat × Nat) :=
  [(6, o.c.scout.toNat), (2, o.c.csc.toNat), (1, o.c.fp.toNat), (6, o.c.hm1.toNat), (4, o.c.et.toNat),
   (2, o.c.cv.toNat), (3, o.c.ka.toNat), (3, o.c.kd.toNat), (5, o.c.b.toNat), (5, o.c.a.toNat), (5, o.c.d.toNat)]

/-- Bits [102:64]. -/
def cmdFillO (o : FillO) : List (Nat × Nat) :=
  [(24, 0), (2, o.pw.toNat), (1, o.tc.toNat), (1, o.c.tv.toNat), (5, o.c.tr.toNat), (1, o.c.fv.toNat),
   (5, o.c.fr.toNat)]

/-- Bits [43:2]. -/
def lowCpytO (o : CpytO) : List (Nat × Nat) :=
  [(6, o.c.scout.toNat), (2, o.c.csc.toNat), (1, o.c.fp.toNat), (6, o.c.hm1.toNat), (4, o.c.et.toNat),
   (2, o.c.cv.toNat), (3, o.c.ka.toNat), (3, o.c.kd.toNat), (5, o.c.b.toNat), (5, o.c.a.toNat), (5, o.c.d.toNat)]

/-- Bits [102:64]. -/
def cmdCpytO (o : CpytO) : List (Nat × Nat) :=
  [(11, 0), (7, o.bx1m1.toNat), (7, o.bx0m1.toNat), (1, o.dir.toNat), (1, o.tc.toNat), (1, o.c.tv.toNat),
   (5, o.c.tr.toNat), (1, o.c.fv.toNat), (5, o.c.fr.toNat)]

/-- Bits [43:2]. -/
def lowTallocO (o : TallocO) : List (Nat × Nat) :=
  [(3, 0), (5, o.pgm1.toNat), (2, o.lvl.toNat), (1, o.p.toNat), (16, o.imm.toNat), (5, 0), (5, o.a.toNat),
   (5, o.d.toNat)]

/-- Bits [43:2]. -/
def lowTconO (o : TconO) : List (Nat × Nat) :=
  [(10, 0), (1, o.p.toNat), (16, o.imm.toNat), (5, 0), (5, o.a.toNat), (5, 0)]

/-- Bits [43:2]. -/
def lowTinfO (o : TinfO) : List (Nat × Nat) :=
  [(4, o.sel.toNat), (28, 0), (5, o.a.toNat), (5, o.d.toNat)]

/-- Bits [43:2]. -/
def lowAB (o : AB) : List (Nat × Nat) :=
  [(27, 0), (5, o.b.toNat), (5, o.a.toNat), (5, 0)]

/-- Bits [43:2]. -/
def lowSlputO (o : SlputO) : List (Nat × Nat) :=
  [(9, 0), (1, o.nx.toNat), (17, 0), (5, o.b.toNat), (5, o.a.toNat), (5, o.d.toNat)]

/-- Bits [43:2]. -/
def lowSopenO (o : SopenO) : List (Nat × Nat) :=
  [(32, 0), (5, o.a.toNat), (5, o.d.toNat)]

/-- Bits [43:2]. -/
def lowPumpO (o : PumpO) : List (Nat × Nat) :=
  [(9, 0), (1, o.dir.toNat), (17, 0), (5, o.b.toNat), (5, o.a.toNat), (5, 0)]

/-- Bits [43:2]. -/
def lowRqryO (o : RqryO) : List (Nat × Nat) :=
  [(3, o.sel.toNat), (1, o.inp.toNat), (1, 0), (4, o.ks.toNat), (1, o.kp.toNat), (22, 0), (5, o.a.toNat),
   (5, o.d.toNat)]

/-- Bits [43:2]. -/
def lowRresO (o : RresO) : List (Nat × Nat) :=
  [(2, 0), (1, o.fw.toNat), (2, o.sub.toNat), (4, o.ks.toNat), (1, o.kp.toNat), (17, 0), (5, o.b.toNat),
   (5, o.a.toNat), (5, o.d.toNat)]

/-- Bits [43:2]. -/
def lowRruleO (o : RruleO) : List (Nat × Nat) :=
  [(5, 0), (4, o.ks.toNat), (1, o.kp.toNat), (22, 0), (5, o.a.toNat), (5, 0)]

/-- Bits [43:2]. -/
def lowSpawnO (o : SpawnO) : List (Nat × Nat) :=
  [(27, 0), (5, o.b.toNat), (5, o.a.toNat), (5, o.d.toNat)]

/-- Bits [102:64]. -/
def cmdSpawnO (o : SpawnO) : List (Nat × Nat) :=
  [(38, 0), (1, o.rg.toNat)]

/-- Doubleword 0 (R249), then the pairs above it. -/
def packInstr (ec op len : Nat) (q : Seqn) (low high : List (Nat × Nat)) : Nat :=
  pack ((2, len) :: (low ++ ((3, q.ti.toNat) :: (4, q.pr.toNat) :: (3, q.nxt.toNat) :: (7, op) :: (3, ec) :: high)))

/-- The sync fields above CMD, and what stands above them (R254). -/
def packSync (cmd : List (Nat × Nat)) (y : Sync) (top : List (Nat × Nat)) : List (Nat × Nat) :=
  cmd ++ ((3, y.sgn.toNat) :: (8, y.sgi.toNat) :: (6, y.wst.toNat) :: (8, y.wsi.toNat) :: top)

/-- The instruction as one number; a step has no words and is 0. -/
def encodeNat : Instr → Nat
  | .nop q => packInstr 0 0x00 0 q [(42, 0)] []
  | .add q o => packInstr 0 0x01 0 q (lowAlu o) []
  | .sub q o => packInstr 0 0x02 0 q (lowAlu o) []
  | .mul q o => packInstr 0 0x03 0 q (lowAlu o) []
  | .mulh q o => packInstr 0 0x04 0 q (lowAlu o) []
  | .div q o => packInstr 0 0x05 0 q (lowAlu o) []
  | .rem q o => packInstr 0 0x06 0 q (lowAlu o) []
  | .and q o => packInstr 0 0x07 0 q (lowAlu o) []
  | .or q o => packInstr 0 0x08 0 q (lowAlu o) []
  | .xor q o => packInstr 0 0x09 0 q (lowAlu o) []
  | .andn q o => packInstr 0 0x0A 0 q (lowAlu o) []
  | .shl q o => packInstr 0 0x0B 0 q (lowAlu o) []
  | .shr q o => packInstr 0 0x0C 0 q (lowAlu o) []
  | .sar q o => packInstr 0 0x0D 0 q (lowAlu o) []
  | .rot q o => packInstr 0 0x0E 0 q (lowAlu o) []
  | .clz q o => packInstr 0 0x0F 0 q (lowCntO o) []
  | .popc q o => packInstr 0 0x10 0 q (lowCntO o) []
  | .min q o => packInstr 0 0x11 0 q (lowAlu o) []
  | .max q o => packInstr 0 0x12 0 q (lowAlu o) []
  | .sext q o => packInstr 0 0x13 0 q (lowSextO o) []
  | .bfx q o => packInstr 0 0x14 0 q (lowBfO o) []
  | .bfi q o => packInstr 0 0x15 0 q (lowBfO o) []
  | .sel q o => packInstr 0 0x16 0 q (lowSelO o) []
  | .movi q o => packInstr 0 0x17 0 q (lowMoviO o) []
  | .lea q o => packInstr 0 0x18 0 q (lowLeaO o) []
  | .cmp q o => packInstr 0 0x19 0 q (lowCmpO o) []
  | .plog q o => packInstr 0 0x1A 0 q (lowPlogO o) []
  | .pmov q o => packInstr 0 0x1B 0 q (lowPmovO o) []
  | .jmpr o => packInstr 0 0x1C 0 ⟨0, 0, 0⟩ (lowA1 o) []
  | .callr o => packInstr 0 0x1D 0 ⟨0, 0, 0⟩ (lowA1 o) []
  | .callx o => packInstr 0 0x1E 0 ⟨0, 0, 0⟩ (lowCallxO o) []
  | .loopset q o => packInstr 0 0x1F 0 q (lowLoopsetO o) []
  | .ld q o => packInstr 1 0x00 0 q (lowLdO o) []
  | .st q o => packInstr 1 0x01 0 q (lowStO o) []
  | .amo q o => packInstr 1 0x02 0 q (lowAmoO o) []
  | .cas q o => packInstr 1 0x03 0 q (lowAmoO o) []
  | .red q o => packInstr 1 0x04 0 q (lowRedO o) []
  | .fence q o => packInstr 1 0x05 0 q (lowFenceO o) []
  | .waita q o => packInstr 1 0x06 0 q (lowWaitaO o) []
  | .pref q o => packInstr 1 0x07 0 q (lowPrefO o) []
  | .sems q o => packInstr 1 0x08 0 q (lowSemsO o) []
  | .semw q o => packInstr 1 0x09 0 q (lowSemwO o) []
  | .semr q o => packInstr 1 0x0A 0 q (lowSemrO o) []
  | .bar q o => packInstr 1 0x0B 0 q (lowD1 o) []
  | .barw q o => packInstr 1 0x0C 0 q (lowBarwO o) []
  | .futi q o => packInstr 1 0x0D 0 q (lowFutiO o) []
  | .futw q o => packInstr 1 0x0E 0 q (lowFutwO o) []
  | .futs q o => packInstr 1 0x0F 0 q (lowFutsO o) []
  | .futf q o => packInstr 1 0x10 0 q (lowFutsO o) []
  | .ldt q o => packInstr 1 0x11 0 q (lowLdtO o) []
  | .stt q o => packInstr 1 0x12 0 q (lowLdtO o) []
  | .vld q o => packInstr 2 0x00 0 q (lowVldO o) []
  | .vst q o => packInstr 2 0x01 0 q (lowVstO o) []
  | .vgat q o => packInstr 2 0x02 0 q (lowVgatO o) []
  | .vsct q o => packInstr 2 0x03 0 q (lowVsctO o) []
  | .vldl q o => packInstr 2 0x04 0 q (lowVldlO o) []
  | .vstl q o => packInstr 2 0x05 0 q (lowVldlO o) []
  | .vadd q o => packInstr 2 0x06 0 q (lowVarO o) []
  | .vsub q o => packInstr 2 0x07 0 q (lowVarO o) []
  | .vmul q o => packInstr 2 0x08 0 q (lowVarO o) []
  | .vfma q o => packInstr 2 0x09 0 q (lowVarO o) []
  | .vmin q o => packInstr 2 0x0A 0 q (lowVarO o) []
  | .vmax q o => packInstr 2 0x0B 0 q (lowVarO o) []
  | .vabs q o => packInstr 2 0x0C 0 q (lowVunO o) []
  | .vneg q o => packInstr 2 0x0D 0 q (lowVunO o) []
  | .vrcp q o => packInstr 2 0x0E 0 q (lowVunO o) []
  | .vrsq q o => packInstr 2 0x0F 0 q (lowVunO o) []
  | .vex2 q o => packInstr 2 0x10 0 q (lowVunO o) []
  | .vlg2 q o => packInstr 2 0x11 0 q (lowVunO o) []
  | .vcis q o => packInstr 2 0x12 0 q (lowVunO o) []
  | .vcvt q o => packInstr 2 0x13 0 q (lowVcvtO o) []
  | .vand q o => packInstr 2 0x14 0 q (lowVlogO o) []
  | .vor q o => packInstr 2 0x15 0 q (lowVlogO o) []
  | .vxor q o => packInstr 2 0x16 0 q (lowVlogO o) []
  | .vshl q o => packInstr 2 0x17 0 q (lowVarO o) []
  | .vshr q o => packInstr 2 0x18 0 q (lowVarO o) []
  | .vcmp q o => packInstr 2 0x19 0 q (lowVcmpO o) []
  | .vsel q o => packInstr 2 0x1A 0 q (lowVselO o) []
  | .vred q o => packInstr 2 0x1B 0 q (lowVredO o) []
  | .vscan q o => packInstr 2 0x1C 0 q (lowVredO o) []
  | .vperm q o => packInstr 2 0x1D 0 q (lowVpermO o) []
  | .vbc q o => packInstr 2 0x1E 0 q (lowVbcO o) []
  | .vins q o => packInstr 2 0x1F 0 q (lowVinsO o) []
  | .vext q o => packInstr 2 0x20 0 q (lowVinsO o) []
  | .vcntge q o => packInstr 2 0x21 0 q (lowVcntO o) []
  | .vidx q o => packInstr 2 0x22 0 q (lowVcntO o) []
  | .lnop q y o => packInstr 2 0x40 2 q (lowLnopO o) (packSync (cmdLnopO o) y (topLnopO o))
  | .aclr q y o => packInstr 3 0x00 1 q (lowAclrO o) (packSync (cmdAclrO o) y [])
  | .mma q y o => packInstr 3 0x01 1 q (lowFieldO o) (packSync (cmdFieldO o) y [])
  | .mmaq q y o => packInstr 3 0x02 1 q (lowFieldO o) (packSync (cmdFieldO o) y [])
  | .mma3 q y o => packInstr 3 0x03 1 q (lowFieldO o) (packSync (cmdFieldO o) y [])
  | .scacc q y o => packInstr 3 0x04 1 q (lowScaccO o) (packSync (cmdScaccO o) y [])
  | .adrn q y o => packInstr 3 0x05 1 q (lowAdrnO o) (packSync (cmdAdrnO o) y [])
  | .ald q y o => packInstr 3 0x06 1 q (lowAldO o) (packSync (cmdAldO o) y [])
  | .arow q y o => packInstr 3 0x07 1 q (lowArowO o) (packSync (cmdArowO o) y [])
  | .bsmm q y o => packInstr 3 0x08 1 q (lowFieldO o) (packSync (cmdFieldO o) y [])
  | .gmm q y o => packInstr 3 0x09 1 q (lowFieldO o) (packSync (cmdFieldO o) y [])
  | .ast q y o => packInstr 3 0x0A 1 q (lowAstO o) (packSync (cmdAstO o) y [])
  | .cpy q y o => packInstr 4 0x00 1 q (lowCpyO o) (packSync (cmdCpyO o) y [])
  | .cpym q y o => packInstr 4 0x01 1 q (lowCpymO o) (packSync (cmdCpymO o) y [])
  | .cpyq q y o => packInstr 4 0x02 1 q (lowCpyqO o) (packSync (cmdCpyqO o) y [])
  | .fill q y o => packInstr 4 0x03 1 q (lowFillO o) (packSync (cmdFillO o) y [])
  | .disc q y o => packInstr 4 0x04 1 q (lowDrO o) (packSync (cmdDrO o) y [])
  | .cpyt q y o => packInstr 4 0x05 1 q (lowCpytO o) (packSync (cmdCpytO o) y [])
  | .talloc q o => packInstr 5 0x00 0 q (lowTallocO o) []
  | .tcmt q o => packInstr 5 0x01 0 q (lowA1 o) []
  | .tabt q o => packInstr 5 0x02 0 q (lowA1 o) []
  | .tcon q o => packInstr 5 0x03 0 q (lowTconO o) []
  | .tinf q o => packInstr 5 0x04 0 q (lowTinfO o) []
  | .tts q o => packInstr 5 0x05 0 q (lowAB o) []
  | .slput q o => packInstr 5 0x06 0 q (lowSlputO o) []
  | .sleos q o => packInstr 5 0x07 0 q (lowA1 o) []
  | .sopen q o => packInstr 5 0x08 0 q (lowSopenO o) []
  | .pump q o => packInstr 5 0x09 0 q (lowPumpO o) []
  | .rqry q o => packInstr 5 0x0A 0 q (lowRqryO o) []
  | .rres q o => packInstr 5 0x0B 0 q (lowRresO o) []
  | .rskp q o => packInstr 5 0x0C 0 q (lowRruleO o) []
  | .rrev q o => packInstr 5 0x0D 0 q (lowRruleO o) []
  | .rsyn q o => packInstr 5 0x0E 0 q (lowAB o) []
  | .spawn q y o => packInstr 5 0x0F 1 q (lowSpawnO o) (packSync (cmdSpawnO o) y [])
  | .spawng q y o => packInstr 5 0x10 1 q (lowSpawnO o) (packSync (cmdSpawnO o) y [])
  | .mfs q o => packInstr 6 0x00 0 q (lowMfsO o) []
  | .mts q o => packInstr 6 0x01 0 q (lowMtsO o) []
  | .trap q o => packInstr 6 0x02 0 q (lowTrapO o) []
  | .eret => packInstr 6 0x03 0 ⟨0, 0, 0⟩ [(42, 0)] []
  | .suspend q o => packInstr 6 0x04 0 q (lowRecO o) []
  | .yield q => packInstr 6 0x05 0 q [(42, 0)] []
  | .cmt q o => packInstr 6 0x06 0 q (lowRecO o) []
  | .fchk q o => packInstr 6 0x07 0 q (lowD1 o) []
  | .cwb q o => packInstr 6 0x08 0 q (lowCwbO o) []
  | .cinv q o => packInstr 6 0x09 0 q (lowCinvO o) []
  | _ => 0

/-- The doublewords of the instruction; none for a step. -/
def wordsOf (i : Instr) : Nat :=
  if !isCoded i then 0
  else match i with
    | .lnop _ _ _ => 4
    | _ => if (syncOf i).isSome then 2 else 1

/-- Doubleword `k`. -/
def dwOf (w k : Nat) : Word := BitVec.ofNat 64 (w / 2 ^ (64 * k))

/-- The words of an instruction, doubleword 0 first. -/
def encode (i : Instr) : List Word := (List.range (wordsOf i)).map (dwOf (encodeNat i))

/-- Why bits are no instruction (R267). -/
inductive DecodeError where
  /-- 0x00 ILLEGAL_ENC. -/
  | illegal
  /-- 0x03 LEN_RSVD. -/
  | lenReserved
  /-- 0x04 SEQ_RSVD. -/
  | seqReserved
  /-- 0x01 RSVD_FIELD in a doubleword. -/
  | reserved (dw : Nat)
  /-- 0x05 REG_RANGE of a register field: 0 D, 1 A, 2 B. -/
  | regRange (field : Nat)
  /-- The bytes end before the instruction does. -/
  | short
  deriving DecidableEq, Repr

/-- R267 orders 1 to 3: how many doublewords the instruction has, from doubleword 0. -/
def decodeHead (w : Nat) : Except DecodeError Nat :=
  match formatOf (w / 2 ^ 61 % 8) (w / 2 ^ 54 % 128) with
  | none => .error .illegal
  | some n =>
    if w % 4 = 3 then .error .lenReserved
    else if n = 2 ^ (w % 4) then .ok n
    else .error .illegal

/-- R267 order 5: the lowest doubleword with a bit that the instruction does not use, or with a field that it reserves. -/
def reservedDw (n w : Nat) (i : Instr) : Option Nat :=
  (List.range n).find? fun k => dwOf w k != dwOf (encodeNat i) k || reservedIn i == some k

/-- R267: the instruction of up to four doublewords whose bits are `w`. -/
def decodeNat (w : Nat) : Except DecodeError Instr :=
  match decodeHead w with
  | .error e => .error e
  | .ok n =>
    match rawDecode w with
    | none => .error .illegal
    | some i =>
      if !seqFits (decSeqn w) then .error .seqReserved
      else match reservedDw n w i with
        | some k => .error (.reserved k)
        | none =>
          match regBeyond i with
          | some r => .error (.regRange r)
          | none => .ok i

/-- The number that little-endian bytes spell (R3, R247). -/
def bytesToNat : List Byte → Nat
  | [] => 0
  | b :: r => b.toNat + 256 * bytesToNat r

/-- The first instruction of a byte string, and the bytes after it. -/
def decode (bs : List Byte) : Except DecodeError (Instr × List Byte) :=
  if bs.length < 8 then .error .short
  else match decodeHead (bytesToNat (bs.take 8)) with
    | .error e => .error e
    | .ok n =>
      if bs.length < 8 * n then .error .short
      else match decodeNat (bytesToNat (bs.take (8 * n))) with
        | .error e => .error e
        | .ok i => .ok (i, bs.drop (8 * n))

/-- The `n` low bytes of a number, lowest first. -/
def natToBytes : Nat → Nat → List Byte
  | 0, _ => []
  | n + 1, v => BitVec.ofNat 8 v :: natToBytes n (v / 256)

/-- The instruction of a word of spec/opcode_table.json: its `nbits` low bits, and zeros above them. -/
def decodeTableWord (nbits w : Nat) : Option Instr :=
  match decode (natToBytes 32 (w % 2 ^ nbits)) with
  | .ok (i, _) => some i
  | .error _ => none

end Sys2Proof
end

