-- ==== Sys2Proof/Config.lean ====
section
/-! DEFINITION. What the manual leaves to a standard it only names, or leaves open: free values, with no body.
A statement about any of them holds whatever its value (log entries 6 and 8). -/

namespace Sys2Proof.Config

/-- SHA-384 of a byte string (R28, R29, R34). The manual names the standard and does not define it. -/
opaque sha384 : List Byte → BitVec 384

/-- An ECDSA P-384 signature verifies under the key whose digest is given (R29). -/
opaque ecdsaVerify : BitVec 384 → BitVec 384 → List Byte → Bool

/-- An LMS signature over a message verifies under the key whose digest is given (R29). -/
opaque lmsVerify : BitVec 256 → List Byte → List Byte → Bool

/-- The P-384 attestation signature of a digest (R34, ESIG). -/
opaque ecdsaSign : BitVec 384 → List Byte

/-- The LMS signature of a message with a tree and a leaf (R34, LSIG). -/
opaque lmsSign : Nat → Nat → List Byte → List Byte

/-- The eight bytes an ATOMIC link packet leaves at PADDR, from its payload and the eight bytes before (R18: "as the
payload names it"; the manual gives the payload no layout). -/
opaque peerAtomic : List Byte → Word → Word

/-- The bytes of the partition configuration whose digest is PCFG (R34; the manual does not say which they are), for each count. -/
opaque partitionConfig : Nat → List Byte

/-- The stepping of MGID (R69). -/
opaque stepping : BitVec 8

/-- A value the manual does not state, fresh for each count (log entry 8). -/
opaque freeWord : Nat → Word

end Sys2Proof.Config
end

