-- ==== Sys2Proof/Machine/State.lean ====
section
/-! DEFINITION. The state of one Dornil D4 module as plain data, and the state after module reset.
Every sparse table is a list of (key, value) pairs, keys rising; an absent key reads as the table's stated default. -/

namespace Sys2Proof.Machine
open Sys2Proof

/-- A sparse table, keys strictly rising. -/
abbrev SMap (β : Type) := List (Nat × β)

/-- A cause code of R129. -/
abbrev Cause := BitVec 8

/-- Why the machine stops. -/
inductive Fault where
  /-- `step` raises it when every die has stopped at 115 °C (R14) and the next agent is no module reset. Safe: the spec
  says that only a module reset recovers the module. -/
  | halted
  deriving DecidableEq, Repr

/-- Why an instruction has no meaning here. -/
inductive Refusal where
  /-- `exec` answers it in the arm of a row that has no meaning yet. Safe: nothing can be concluded. -/
  | notModelled (mnemonic : String)
  deriving DecidableEq, Repr

/-- A trap, or a cause on its way elsewhere: CODE, TVAL, TINFO (R123, R124, R129). -/
structure Exc where
  cause : Cause
  tval : Word
  tinfo : Word
  deriving DecidableEq, Repr

/-- Who owns rules: a task whose context holds them, or a rule keeper (R187). -/
inductive RuleOwner where
  | task (id : Nat)
  | keeper (id : Nat)
  deriving DecidableEq, Repr

/-- A holder of tiles (R138). -/
inductive Holder where
  | task (id : Nat)
  | rule (own : RuleOwner) (k : Nat)
  | loader (sub : Nat)
  | storer (sub : Nat)
  | job (id : Nat)
  | landing (job core : Nat)
  deriving DecidableEq, Repr

/-- The module's record of a tile's owner, which OWNER mirrors (R136, R175). -/
inductive Owner where
  | nobody
  | task (id : Nat)
  | pump (sub : Nat)
  | rule (own : RuleOwner) (k : Nat)
  | landing (job : Nat)
  deriving DecidableEq, Repr

/-- STATE of a tile header (R136). -/
inductive TileSt where
  | free | alloc | committed | abandoned
  deriving DecidableEq, Repr

/-- A tile header (R136). `dying`: freed uncommitted, its pages wait for PIN = 0 (R155). `mismatch`: the last holder left with
reads remaining, and its pages wait for RSV = PIN = 0 (R154). `commitAt` is the DTIME of its commit (R67 FIRELAG). `bad`: an
uncorrectable error has poisoned the header (R43). -/
structure Tile where
  st : TileSt
  part : Nat
  carry : Bool
  slice : Bool
  moving : Bool
  pg : Nat
  gen : Nat
  decl : Nat
  rem : Nat
  rsv : Nat
  hold : Nat
  pin : Nat
  ownerW : BitVec 32
  owner : Owner
  abn : Nat
  stamp : Word
  strm : Nat
  slidx : Nat
  pmap : List Nat
  dying : Bool
  mismatch : Bool
  commitAt : Nat
  bad : Bool
  deriving DecidableEq, Repr

/-- A header slot that no tile has used (R135: the first allocation gives generation 1). -/
def Tile.empty : Tile :=
  { st := .free, part := 0, carry := false, slice := false, moving := false, pg := 0, gen := 0, decl := 0,
    rem := 0, rsv := 0, hold := 0, pin := 0, ownerW := 0, owner := .nobody, abn := 0, stamp := 0, strm := 0, slidx := 0,
    pmap := [], dying := false, mismatch := false, commitAt := 0, bad := false }

/-- A partition's guarantee and cap in one pool (R139). -/
structure Quota where
  g : Nat
  c : Nat
  deriving DecidableEq, Repr

/-- Who waits for pages; the move of an input tile waits like a producer (R81). -/
inductive ReqWho where
  | ctx (key : Nat)
  | rule (own : RuleOwner) (k : Nat)
  | loader (sub : Nat)
  | move (key : Nat)
  deriving DecidableEq, Repr

/-- A blocked request of a pool's FIFO (R142). -/
structure Req where
  pool : Nat
  part : Nat
  n : Nat
  age : Nat
  core : Nat
  who : ReqWho
  deriving DecidableEq, Repr

/-- A stream binding (R168). -/
structure Binding where
  tid : BitVec 16
  out : Bool
  lvl : BitVec 2
  pg : BitVec 8
  rds : BitVec 12
  start : BitVec 48
  sext : Word
  deriving DecidableEq, Repr

/-- STATE of an installed rule (R185); an EMPTY slot has no record. -/
inductive RuleSt where
  | armed | firing | faulted
  deriving DecidableEq, Repr

/-- Where an operand's bytes lie: from a byte of `mem` upward, in the pages of a tile, in the partition's GV space, or on a
peer. -/
inductive View where
  | none
  | mem (key : Nat)
  | tile (h : BitVec 32)
  | gv (a : Word)
  | peer (node : BitVec 12) (a : Word)
  deriving DecidableEq, Repr

/-- What a firing comes to (R178, R179), known from its start and in force from its end: the cause of its fault, or the bytes that
it writes, each with its offset in the tile or from the address that `dst` names, the tiles of other operands of which it
consumes a read, the words of accumulators that it writes, and the bits that it sets in OVF and in FPS. -/
structure Fired where
  cause : Option Cause
  dst : View
  bytes : List (Nat × Byte)
  uses : List (BitVec 32)
  acc : List (Nat × BitVec 32)
  ovf : BitVec 16
  fps : Word
  deriving DecidableEq, Repr

/-- A rule record (R185) with its substitute (R112 SUBST), the object of its installer (R309), the context key (core × 4 + slot)
of its installation (R136), and, while it fires, the input tiles that it pins (R152), its DTIME and what it comes to. -/
structure Rule where
  img0 : Word
  img1 : Word
  img2 : Word
  img3 : Word
  cur : Nat
  st : RuleSt
  fcause : Cause
  rank : Nat
  tida : BitVec 16
  tidb : BitVec 16
  tidd : BitVec 16
  outf : BitVec 32
  carry : BitVec 32
  ckind : BitVec 8
  rslt : BitVec 32
  sub : BitVec 32
  subOp : BitVec 2
  obj : Nat
  home : Nat
  pins : List (BitVec 32)
  ft : Nat
  out : Option Fired
  deriving DecidableEq, Repr

/-- A recorded range of the scoreboard (R103): keys from `lo`, and whether it is written. -/
structure Rng where
  lo : Nat
  len : Nat
  w : Bool
  deriving DecidableEq, Repr

/-- The five field instructions (R402). -/
inductive FieldOp where
  | mma | mmaq | mma3 | bsmm | gmm
  deriving DecidableEq, Repr

/-- A field instruction from its retirement to its completion (R398, R399; MXRES of R112): what it read at its start, and the
k-steps done. `aux` holds its zero points, topology entries or offsets; `bias` the keys of its bias entries, whose table lies at
`biasAt`; `memb` is its place in a footprint domain (R416). -/
structure MxJob where
  op : FieldOp
  o : FieldO
  y : Sync
  img0 : Word
  img1 : Word
  pc : Word
  a : View
  b : View
  aux : List Nat
  bias : List Nat
  biasAt : Word
  step : BitVec 32
  pins : List (BitVec 32)
  rng : List Rng
  memb : Option Nat
  done : Nat
  deriving DecidableEq, Repr

/-- A continuation, a task by its name, or a queue that waits on a future (R363, R78, R57). -/
inductive Waiter where
  | record (task : Nat) (addr : Word)
  | task (name : Word)
  | queue (q : Nat)
  deriving DecidableEq, Repr

/-- What a context waits for (R110, R160): a semaphore threshold, a barrier phase, a monitor on a line, an allocation, the
allocation of a pump (R169), a task record, work of its own engines, its image to be parked for want of a page (`parking`), a page
without which it cannot go on and for which it cannot park (`page`, R113), a save-area slot in which it is to be held (R64), or,
in a task that is to be cancelled, the end of its firings (R184). `till` is the bclk at which a limit ends. -/
inductive Stall where
  | sem (idx thr : Nat)
  | bar (phase : Nat)
  | barw (phase : Nat) (till : Option Nat)
  | mon (line : Nat) (till : Option Nat)
  | rsyn (k n : Nat)
  | alloc
  | pump
  | record
  | engine
  | parking (a : Word)
  | page (a : Word)
  | debug
  | cancelled
  deriving DecidableEq, Repr

/-- The state of a context slot (R109). -/
inductive SlotSt where
  | free | run | res | save | load
  deriving DecidableEq, Repr

/-- What an entry of the Pithead or of a deque starts: a task or continuation, a gang (R92), or a rule keeper (R188). -/
inductive Ent where
  | task (id : Nat)
  | gang (id : Nat)
  | keeper (id : Nat)
  deriving DecidableEq, Repr

/-- A context: the registers of R8 and R330, its stacks, its region, its in-flight work, and its slot. `region` lists the tiles it
allocated (R117); `taskR` is the register TASK; `sbuf` and `secs` are the region store buffer by byte and by sector with its
class, and `sbits` gives, for a buffered byte of which only some bits are written, those bits (R350); `since` is the bclk from
which it waits for its core, and `stallAt` the one at which its stall began; `passed` is the wait, as (WSI, WST), that the
instruction at `pc` has already subtracted; `heir` is the entry for which it was pre-empted (R90), or, in LOAD, its own, when it
runs as soon as it is loaded (R110); `bad` names the poisoned words of its scalar registers, handles,
lanes and accumulators, each by its place in an image (R43, R112; accumulator a from 0x80000 + 16,384 × a on), and `upset` says that
a word which every instruction reads is poisoned. -/
structure Ctx where
  slot : SlotSt
  task : Nat
  taskR : Word
  keeper : Option Nat
  part : Nat
  prio : Nat
  pc : Word
  pred : BitVec 12
  th : Bool
  ph : Bool
  direct : Bool
  lxu : Bool
  depth : Nat
  async : List Exc
  lc : SMap (BitVec 32)
  etb : Word
  ptb : Word
  ltb : Word
  stamp : Word
  fpc : Word
  fps : Word
  tcause : Word
  tpc : Word
  tval : Word
  tinfo : Word
  tvec : Word
  tsave : Word
  tsavd : Nat
  launch : Word
  exits : List Word
  calls : SMap (Word × Word)
  s : SMap Word
  h : SMap (BitVec 32)
  f : SMap Binding
  k : SMap Rule
  installs : Nat
  v : SMap (BitVec 32)
  acc : SMap (BitVec 32)
  ovf : BitVec 16
  mx : List MxJob
  sbuf : SMap Byte
  sbits : SMap Byte
  secs : List (Nat × Nat)
  cbuf : List (BitVec 32 × Nat)
  region : List (BitVec 32)
  patch : SMap Word
  stall : Option Stall
  since : Nat
  stallAt : Nat
  passed : Option (Nat × Nat)
  ending : Bool
  wd : Nat
  wdFired : Bool
  started : Nat
  image : Option Nat
  heir : Option Ent
  bad : List Nat
  upset : Bool
  deriving DecidableEq, Repr

/-- A free slot: every register zero (log entry 4); f and k unbound. -/
def Ctx.empty : Ctx :=
  { slot := .free, task := 0, taskR := 0, keeper := none, part := 0, prio := 0, pc := 0, pred := 0, th := false, ph := false,
    direct := false, lxu := false, depth := 0, async := [], lc := [], etb := 0, ptb := 0, ltb := 0, stamp := 0, fpc := 0,
    fps := 0, tcause := 0, tpc := 0, tval := 0, tinfo := 0, tvec := 0, tsave := 0, tsavd := 0, launch := 0, exits := [],
    calls := [], s := [], h := [], f := [], k := [], installs := 0, v := [], acc := [], ovf := 0, mx := [], sbuf := [],
    sbits := [], secs := [], cbuf := [], region := [], patch := [], stall := none, since := 0, stallAt := 0, passed := none,
    ending := false, wd := 0, wdFired := false, started := 0, image := none, heir := none, bad := [], upset := false }

/-- The states of a task (R72). -/
inductive TaskSt where
  | waiting | ready | queued | running | suspended | parked | preempted | held | ended | cancelled
  deriving DecidableEq, Repr

/-- How a task starts when it gets a slot: afresh (R94), from a continuation record (R97), or from a saved image (R113). -/
inductive Resume where
  | fresh
  | record (addr : Word)
  | image (slot : Nat)
  deriving DecidableEq, Repr

/-- A footprint region (R76): `len` bytes from `base`. -/
structure Region where
  base : Nat
  len : Nat
  w : Bool
  deriving DecidableEq, Repr

/-- A task record (R71) with the snapshot of its descriptor (R73). `gen` is RGEN of R439; `seq` orders creations (R79); `restart`
is the record of the latest `cmt` (R339); `recObj` the object of its continuation record (R309), `restartObj` that of a restart
record which a resume has read; `page` the page whose absence parked or requeued it (R72); `pend` the cause of a cancellation that
waits for the end of a firing; `late` says that its STAMP is the DTIME at which it becomes READY (R50); `warned` says that the
watchdog has trapped it once (R98); `dbg` is the DBGSTOP packet (queue, index, COMPL) that waits for its image (R64). -/
structure Task where
  gen : BitVec 16
  seq : Nat
  st : TaskSt
  part : Nat
  die : Nat
  desc : Word
  code : Word
  obj : Nat
  entry : Nat
  prio : Nat
  ins : List (Nat × BitVec 32)
  outs : List (Nat × Nat × Nat × Nat)
  outH : List (BitVec 32)
  fps : List Region
  args : List Word
  succ : Word
  nsucc : Nat
  compl : Word
  stamp : Word
  ptab : Word
  group : Nat
  gang : Option (Nat × Nat × Nat)
  launch : Option Nat
  live : Nat
  h : SMap (BitVec 32)
  resume : Resume
  restart : Option Word
  restartH : SMap (BitVec 32)
  recObj : Option Nat
  restartObj : Option Nat
  wake : Nat
  wval : Word
  page : Option Word
  stepping : Bool
  handler : Bool
  memb : Option Nat
  pend : Option (Nat × Bool)
  late : Bool
  warned : Bool
  dbg : Option (Nat × Nat × Word)
  deriving DecidableEq, Repr

/-- A record that no task uses (R72: ENDED and CANCELLED tasks free their records). -/
def Task.empty : Task :=
  { gen := 0, seq := 0, st := .ended, part := 0, die := 0, desc := 0, code := 0, obj := 0, entry := 0, prio := 0, ins := [],
    outs := [], outH := [], fps := [], args := [], succ := 0, nsucc := 0, compl := 0, stamp := 0, ptab := 0,
    group := 0xFFFF, gang := none, launch := none, live := 0, h := [], resume := .fresh, restart := none, restartH := [],
    recObj := none, restartObj := none, wake := 0, wval := 0, page := none, stepping := false, handler := false, memb := none,
    pend := none, late := false, warned := false, dbg := none }

/-- A launch (R54, R95, R245). `left` counts its tasks that have not ended. -/
structure Launch where
  die : Nat
  part : Nat
  compl : Word
  q : Nat
  idx : Nat
  left : Nat
  failed : Option Cause
  spmin : Nat
  spmax : Nat
  deriving DecidableEq, Repr

/-- A gang (R92, R361): member cores in ascending order, its tasks, completed phases C and arrivals A. -/
structure Gang where
  part : Nat
  group : Nat
  cores : List Nat
  tasks : List Nat
  phases : Nat
  arrived : SMap Nat
  deriving DecidableEq, Repr

/-- A Pithead entry (R84): the list order is the FIFO order of each level. `since` is the bclk at which it came to its level,
`born` the one at which it became eligible, `inside` says that the Pithead has taken it from its record. -/
structure PEntry where
  die : Nat
  part : Nat
  level : Nat
  since : Nat
  ent : Ent
  born : Nat
  inside : Bool
  deriving DecidableEq, Repr

/-- A member of a footprint domain (R82, R83): the launch, its regions, and the members it has an edge from. -/
structure Member where
  id : Nat
  dom : Nat
  regions : List Region
  from_ : List Nat
  deriving DecidableEq, Repr

/-- What a slot of a save area holds (R113, R187): a task's image or a keeper's, with what the module keeps beside the image:
the operands of the matrix jobs in its MXRES, the tiles its region allocated, its pending asynchronous traps, the objects of
its trailer (R309), the count of its installations (R174), the context keys at which its rules were installed (R136), the bits
of half-written buffered bytes (R350), and that its last instruction has taken its `end` (R261). -/
structure SaveSlot where
  part : Nat
  task : Option Nat
  keeper : Option Nat
  held : Bool
  mx : List MxJob
  region : List (BitVec 32)
  async : List Exc
  objs : List Nat
  installs : Nat
  homes : SMap Nat
  sbits : SMap Byte
  ending : Bool
  deriving DecidableEq, Repr

/-- A rule keeper (R187, R188). `at_` is the context slot it occupies, if any; `special` are the registers of SPECIAL in its image
beside FPC and FPS, in the order of R112, with TSAVE and TSAVD, and `status` the bits of STATUS that no other field gives: those of
the context at the hand-over. -/
structure Keeper where
  part : Nat
  prio : Nat
  die : Nat
  save : Nat
  status : Nat
  special : List Word
  fpc : Word
  fps : Word
  s : SMap Word
  h : SMap (BitVec 32)
  f : SMap Binding
  k : SMap Rule
  acc : SMap (BitVec 32)
  ovf : BitVec 16
  bad : List Nat
  at_ : Option Nat
  lastFire : Nat
  deriving DecidableEq, Repr

/-- The record of no keeper. -/
def Keeper.empty : Keeper :=
  { part := 0, prio := 0, die := 0, save := 0, status := 0, special := [], fpc := 0, fps := 0, s := [], h := [], f := [], k := [], acc := [],
    ovf := 0, bad := [], at_ := none, lastFire := 0 }

/-- The drift commands and the COPY packet (R442, R55). -/
inductive JobOp where
  | cpy | cpym | cpyq | fill | disc | cpyt | copy
  deriving DecidableEq, Repr

/-- The life of a drift job (R446): accepted, or running. -/
inductive JobSt where
  | accepted | running
  deriving DecidableEq, Repr

/-- A drift job: what its command read at its start. `qn` is its queue; `land` lists the landings of a `cpym`; `fail` is a failure
that it has met; `pre` keeps a snapshot of its start (the claimed index of R451, the tensor entry of R454); `pos` and `psns` are
what it has sent to a peer and what of that is not yet acknowledged; `scouted` lists the pages that its canary pass has
translated, as twice the page number, and one more for a destination; `gang` is the gang of the issuing task (R159); `src` is the
source as it stood at the start, with its poisoned places, where it overlaps the destination (R448); `done` counts the pieces that
its data have passed, and `buf` holds the bytes, or the elements of a box, that it has read and not yet written. -/
structure Job where
  core : Nat
  key : Nat
  part : Nat
  task : Nat
  op : JobOp
  st : JobSt
  d : View
  a : View
  tilec : Bool
  len : Nat
  cv : Nat
  et : Nat
  h : Nat
  kk : Nat
  pat : Word
  pw : Nat
  tc : Bool
  fut : Option Word
  csc : Nat
  tname : Option Word
  sgi : BitVec 8
  sgn : BitVec 3
  scout : Nat
  tid : Nat
  dir : Bool
  bx0 : Nat
  bx1 : Nat
  coords : List Nat
  qn : Nat
  img : Nat
  rsi : BitVec 8
  rds : Nat
  dstLs : Nat
  land : List (Nat × BitVec 32)
  regions : List Region
  memb : Option Nat
  stamp : Word
  fail : Option Exc
  pre : List Word
  kd : Nat
  ka : Nat
  pos : Nat
  psns : List (BitVec 32)
  scouted : List Nat
  rng : List Rng
  gang : Option Nat
  src : List (Nat × Option (List Byte))
  done : Nat
  buf : List Nat
  deriving DecidableEq, Repr

/-- A job with nothing to do. -/
def Job.empty : Job :=
  { core := 0, key := 0, part := 0, task := 0, op := .cpy, st := .accepted, d := .none, a := .none, tilec := false, len := 0,
    cv := 0, et := 0, h := 0, kk := 0, pat := 0, pw := 0, tc := false, fut := none, csc := 0, tname := none, sgi := 0,
    sgn := 0, scout := 0, tid := 0, dir := false, bx0 := 0, bx1 := 0, coords := [], qn := 0, img := 0, rsi := 0, rds := 0,
    dstLs := 0, land := [], regions := [], memb := none, stamp := 0, fail := none, pre := [],
    kd := 0, ka := 0, pos := 0, psns := [], scouted := [], rng := [], gang := none, src := [], done := 0, buf := [] }

/-- A stream state (R165): NEXT, EOSX, and the tile of each committed slice that is not known to be free. -/
structure Stream where
  next : Nat
  eosx : Option Nat
  slices : SMap (BitVec 32)
  used : Bool
  deriving DecidableEq, Repr

/-- No stream state yet. -/
def Stream.empty : Stream := { next := 0, eosx := none, slices := [], used := false }

/-- A pump subscription (R169 to R171). `retry` is the bclk of the next try of a stalled one (R223), `told` what
the event of its present stall reported. -/
structure Sub where
  loader : Bool
  die : Nat
  idx : Nat
  core : Nat
  part : Nat
  src : Nat
  dst : Nat
  lvl : Nat
  pg : Nat
  rds : Nat
  pos : Nat
  grant : Option (BitVec 32)
  retry : Option Nat
  told : Option Exc
  deriving DecidableEq, Repr

/-- The use of a partition number (R69 PSTAT). -/
inductive PartSt where
  | unused | active | resetting
  deriving DecidableEq, Repr

/-- A partition: what CREATE read from its descriptor (R59), and its weight, credit, breakpoints and running handlers;
`groups` is its group table as the latest LAUNCH found it (R91). -/
structure Part where
  st : PartSt
  desc : Nat
  ptroot : Nat
  ttbase : Word
  gtbase : Word
  evring : Word
  evsize : Nat
  hvec : Word
  wdog : Nat
  savebase : Word
  saven : Nat
  otbase : Word
  weight : Nat
  credit : SMap Int
  brk : SMap Word
  handlers : List Nat
  groups : SMap (List Nat)
  reset : Option (Nat × Nat × Word)
  deriving DecidableEq, Repr

/-- An unused partition number (R60: the default weight is 16). -/
def Part.empty : Part :=
  { st := .unused, desc := 0, ptroot := 0, ttbase := 0, gtbase := 0, evring := 0, evsize := 0, hvec := 0, wdog := 0,
    savebase := 0, saven := 0, otbase := 0, weight := 16, credit := [], brk := [], handlers := [],
    groups := [], reset := none }

/-- A grant of HBM (R60): 0 to 7 a partition, 0xFE the host, 0xFF nobody. -/
structure Grant where
  base : Nat
  len : Nat
  p0 : Nat
  p1 : Nat
  deriving DecidableEq, Repr

/-- What a queue engine keeps beside the QCB (R49, R53, R57): the taken packet not yet accepted, the accepted packets not yet
complete, each as its index and 2^64 for each reset of the queue before it (`era`), and the root, with its generation, that a
LAUNCH has created but that is not in the Pithead yet (R54). -/
structure QEng where
  taken : Option (List Word)
  open_ : List Nat
  root : Option (Nat × BitVec 16)
  era : Nat
  deriving DecidableEq, Repr

/-- TS of the packet taken. -/
def QEng.ts (e : QEng) : Word := (e.taken.getD []).getD 1 0

/-- An idle queue engine. -/
def QEng.empty : QEng := { taken := none, open_ := [], root := none, era := 0 }

/-- A health monitor (R67, R68). -/
structure Monitor where
  on : Bool
  src : Nat
  mode : Nat
  sel : Nat
  win : Nat
  out : Nat
  start : Nat
  count : Nat
  sum : Nat
  min_ : Nat
  max_ : Nat
  bins : SMap Nat
  last : Nat
  deriving DecidableEq, Repr

/-- A monitor that is off. -/
def Monitor.empty : Monitor :=
  { on := false, src := 0, mode := 0, sel := 0, win := 0, out := 0, start := 0, count := 0, sum := 0,
    min_ := 2 ^ 64 - 1, max_ := 0, bins := [], last := 0 }

/-- A partition move after its step 1 (R61): the save-area slots it still reserves, and the tiles still to move. -/
structure Move where
  cluster : Nat
  from_ : Nat
  dest : Nat
  slots : List Nat
  tiles : List Nat
  compl : Word
  q : Nat
  idx : Nat
  deriving DecidableEq, Repr

/-- A migration after its step 1 (R226): the leaf's address, the two frames, the page's bytes. -/
structure Mig where
  part : Nat
  leaf : Nat
  old : Nat
  new : Nat
  size : Nat
  compl : Word
  q : Nat
  idx : Nat
  deriving DecidableEq, Repr

/-- A tile on its way to a pool of another place (R81, R61 step 4): its key, and the die it goes to. -/
structure TileMove where
  key : Nat
  die : Nat
  deriving DecidableEq, Repr

/-- The management registers (R32 to R42, R69). -/
structure Mgmt where
  bootstat : Word
  foffer : BitVec 128
  faccept : BitVec 128
  flock : Bool
  epoch : BitVec 24
  modsn : BitVec 32
  dtime : Word
  dtset : Bool
  attaddr : Word
  attst : BitVec 3
  leaf : Nat
  rascnt : SMap Word
  qtbase : Word
  evbase : Word
  evsize : BitVec 4
  evwidx : Word
  evridx : Word
  evdrop : BitVec 32
  deriving DecidableEq, Repr

/-- An image in the serial flash (R28): its header, with the reserved bytes at 0x04A and 0x79C, and its body. -/
structure Image where
  magic : BitVec 32
  hver : BitVec 16
  itype : BitVec 16
  svn : BitVec 32
  blen : BitVec 32
  build : Word
  bdig : BitVec 384
  eks : BitVec 8
  lks : BitVec 8
  rsvd : BitVec 48
  rsvd2 : BitVec 800
  esig : BitVec 768
  lsig : BitVec 14176
  body : List Byte
  deriving DecidableEq, Repr

/-- The security processor's storage (R27 to R33): flash by type × 2 + slot, fuses, what runs, by type: its SVN and its digest,
the identity key and its certificate chain. -/
structure Sec where
  flash : SMap Image
  ecdsaFuse : SMap (BitVec 384)
  lmsFuse : SMap (BitVec 256)
  ecdsaRevoked : List Nat
  lmsRevoked : List Nat
  rollback : SMap Nat
  running : SMap (Nat × BitVec 384)
  idKey : BitVec 384
  chain : List Byte
  deriving DecidableEq, Repr

/-- One Dornil link (R16, R17). `txSeq` is the link-level sequence of the next flit out, `sent` the flits out that may be asked
for again, oldest first, `again` how often the peer has asked for the oldest of them in a row. -/
structure Link where
  up : Bool
  bad : Bool
  retries : Nat
  rxSeq : BitVec 12
  pay : List Byte
  txSeq : BitVec 12
  sent : List Flit
  again : Nat
  deriving DecidableEq, Repr

/-- A link that has not trained. -/
def Link.empty : Link :=
  { up := false, bad := false, retries := 0, rxSeq := 0, pay := [], txSeq := 0, sent := [], again := 0 }

/-- What the receiver keeps for one source (R19). -/
structure Rx where
  mark : BitVec 32
  held : List Pkt
  deriving DecidableEq, Repr

/-- The mark before the first packet: a new sequence starts from PSN 0 (R22). -/
def Rx.empty : Rx := { mark := 0xFFFFFFFF#32, held := [] }

/-- What the sender keeps for one destination (R19, R21, R22): unacknowledged packets with the DTIME of their first sending
and the link over which they went last, if there was one. -/
structure Tx where
  next : BitVec 32
  unacked : List (Nat × Option Nat × Pkt)
  deriving DecidableEq, Repr

/-- No packet sent yet. -/
def Tx.empty : Tx := { next := 0, unacked := [] }

/-- The links and their router (R16 to R26). `wire` holds the flits that the module has sent, each with its link, oldest first;
`lost` the nodes whose pair is lost and that cannot be reached yet (R22); `timeLinks` the links that have brought a TIME packet
since they came up, `ppm` the rate of DTIME against the module's own clock, `frac` the millionths of a ns that DTIME owes. -/
structure Net where
  node : BitVec 12
  route : SMap (List Nat)
  links : SMap Link
  rx : SMap Rx
  tx : SMap Tx
  wire : List (Nat × Flit)
  lost : List Nat
  source : Bool
  path : Bool
  timeLinks : List Nat
  ppm : Int
  frac : Nat
  deriving DecidableEq, Repr

/-- Power and heat (R14). `calm` is the DTIME since which both limits of the end of throttling have held. -/
structure Power where
  throttled : Bool
  halted : Bool
  cxlUp : Bool
  calm : Option Nat
  deriving DecidableEq, Repr

/-- Where a soft error is met (R41): at a byte of memory; in an array without addresses (an accumulator file, a cache, tile
metadata, a register file, a buffer of a queue engine): in a word of a context, given by its place in an image as `Ctx.bad` has it, in
the header of a tile, in what a drift job or a queue engine holds, or where nothing reads it. -/
inductive Upset where
  | mem (k : Nat)
  | ctx (key place : Nat)
  | tile (key : Nat)
  | job (id : Nat)
  | queue (q : Nat)
  | array
  deriving DecidableEq, Repr

/-- What the world outside does to the module, beside the steps of the opcode table (log entry 12): the host sets its HDM
decoders (R15), writes its own memory (R243), refuses ranges of it (R217); management marks the time source and sets the routes
(R18, R26), writes a firmware update (R31), or reads the certificate chain (R33); a soft error is met in an SRAM or in HBM (R41);
the peer of a link asks for flits again (R17), or clears the sequence state of a pair that it lost (R22); a link carries a TIME
packet out (R26). -/
inductive Env where
  | hdm (l : List (Nat × Nat × Nat))
  | hostWrite (a : Nat) (b : List Byte)
  | hostRefuse (l : List (Nat × Nat))
  | route (node : BitVec 12) (r : SMap (List Nat)) (source : Bool)
  | flash (ty : Nat) (i : Image)
  | upset (die : Nat) (k : Upset) (bad : Bool)
  | spdm
  | retry (l : Nat) (seq : BitVec 12)
  | pairCleared (node : BitVec 12)
  | timeOut (l : Nat)
  deriving DecidableEq, Repr

/-- An act of the module on a page under migration, which stalls until the migration ends (R226): a resolution of a future (R469), a
partition event with its DTIME (R65), the waking of a continuation (R97), or the end of a rule whose record is in a saved
image (R184). -/
inductive Held where
  | resolve (p : Nat) (a : Word) (failed : Bool) (v : Nat)
  | event (p die cause kind srcid : Nat) (i0 i1 time : Word)
  | wake (failed : Bool) (v : Nat) (w : Waiter)
  | ruleEnd (own : RuleOwner) (k : Nat)
  deriving DecidableEq, Repr

/-- Who moves next: a step of the module, the context in a slot (core × 4 + slot), some of both in one bclk (R468), time, which
passes by counts of bclk and of ns of the module's clock (log entry 1), or the world outside. -/
inductive Turn where
  | event (i : Instr)
  | ctx (key : Nat)
  | together (events : List Instr) (keys : List Nat)
  | pass (bclk ns : Nat)
  | env (e : Env)
  deriving DecidableEq, Repr

/-- The state of the module. Keys: a context is core × 4 + slot; a pool is its core, or 576 + its die; a tile or a page is pool ×
8192 + its number; a semaphore is core × 256 + its number; a quota is pool × 8 + partition; a task is die × 65536 + record; a
stream is partition × 65536 + tensor; `clusters` gives CPOOL × 16 + the owner + 1; `moved` gives, for a handle, its new key × 2048
+ the generation there; a subscription is die × 512 + kind × 256 + number; `splits` counts the intervals of R244 that a die has
ended. `hdm` holds the decoders of R15 as (host base, length, device base); `hostOut` what host accesses were answered, `none` an
unsupported request; `spdm` the certificate chains read; `icache` doublewords of text as they were before a store, by partition ×
2^64 + address (R248); `names` the task names that a record has borne before a transfer, each with its record now (R81); `held` what
stalls on pages under migration, oldest first (R226); `shared`, while several acts share a bclk, the pools that have granted requests
in it (R142, R468); `refused` the ranges of host memory, as (base, length), that the host refuses. -/
structure State where
  mem : SMap Byte
  poison : List Nat
  mgmt : Mgmt
  sec : Sec
  power : Power
  net : Net
  bclk : Nat
  parts : SMap Part
  clusters : SMap Nat
  grants : List Grant
  qs : SMap QEng
  ctxs : SMap Ctx
  cur : Nat
  sems : SMap (BitVec 16)
  watch : List (Nat × Nat)
  tiles : SMap Tile
  pages : SMap Nat
  quotas : SMap Quota
  reqs : List Req
  holds : List (Holder × BitVec 32)
  moved : SMap Nat
  tileMoves : List TileMove
  streams : SMap Stream
  subs : SMap Sub
  tasks : SMap Task
  launches : SMap Launch
  gangs : SMap Gang
  pithead : List PEntry
  deques : SMap (List Ent)
  members : List Member
  saves : SMap SaveSlot
  keepers : SMap Keeper
  jobs : SMap Job
  futs : SMap (List Waiter)
  scratch : SMap Nat
  splits : SMap Nat
  monitors : SMap Monitor
  moves : List Move
  migs : SMap Mig
  dead : SMap (Nat × Bool)
  hdm : List (Nat × Nat × Nat)
  hostOut : List (Option Word)
  refused : List (Nat × Nat)
  spdm : List (List Byte)
  icache : SMap Nat
  names : List (Nat × Nat)
  held : List Held
  shared : Option (List Nat)
  nextId : Nat
  freeCtr : Nat
  agenda : List Turn
  deriving DecidableEq, Repr

/-- The module right after reset: no partition, no task, every slot FREE, memory with nothing listed. The reset values that
the manual does not give are those of log entries 2 to 6. -/
def State.reset : State where
  mem := []
  poison := []
  mgmt := { bootstat := 0, foffer := 0x1FFF#128, faccept := 0, flock := false, epoch := 0, modsn := 0, dtime := 0,
            dtset := false, attaddr := 0, attst := 0, leaf := 0, rascnt := [], qtbase := 0, evbase := 0, evsize := 0,
            evwidx := 0, evridx := 0, evdrop := 0 }
  sec := { flash := [], ecdsaFuse := [], lmsFuse := [], ecdsaRevoked := [], lmsRevoked := [], rollback := [], running := [], idKey := 0, chain := [] }
  power := { throttled := false, halted := false, cxlUp := true, calm := none }
  net := { node := 0, route := [], links := [], rx := [], tx := [], wire := [], lost := [], source := false, path := false,
           timeLinks := [], ppm := 0, frac := 0 }
  bclk := 0
  parts := []
  clusters := []
  grants := []
  qs := []
  ctxs := []
  cur := 0
  sems := []
  watch := []
  tiles := []
  pages := []
  quotas := []
  reqs := []
  holds := []
  moved := []
  tileMoves := []
  streams := []
  subs := []
  tasks := []
  launches := []
  gangs := []
  pithead := []
  deques := []
  members := []
  saves := []
  keepers := []
  jobs := []
  futs := []
  scratch := []
  splits := []
  monitors := []
  moves := []
  migs := []
  dead := []
  hdm := []
  hostOut := []
  refused := []
  spdm := []
  icache := []
  names := []
  held := []
  shared := none
  nextId := 1
  freeCtr := 0
  agenda := []

end Sys2Proof.Machine
end

