-- ==== Sys2Proof/Machine/Base.lean ====
section
/-! DEFINITION. The ground operations: sparse tables and memory, the geometry of the module, registers of a context,
translation (R213 to R219), the object table (R300), and the event rings (R65) with the handler task (R127). -/

namespace Sys2Proof.Machine
open Sys2Proof

/-! Sparse tables. -/

/-- The value at a key. -/
def SMap.get? {β : Type} : SMap β → Nat → Option β
  | [], _ => none
  | (k, v) :: r, n => if n = k then some v else if n < k then none else SMap.get? r n

/-- The value at a key, or a default. -/
def SMap.getD {β : Type} (m : SMap β) (n : Nat) (d : β) : β := (SMap.get? m n).getD d

/-- The table with a value at a key. -/
def SMap.put {β : Type} : SMap β → Nat → β → SMap β
  | [], n, x => [(n, x)]
  | (k, v) :: r, n, x => if n < k then (n, x) :: (k, v) :: r else if n = k then (n, x) :: r else (k, v) :: SMap.put r n x

/-- The table without a key. -/
def SMap.del {β : Type} : SMap β → Nat → SMap β
  | [], _ => []
  | (k, v) :: r, n => if n = k then r else if n < k then (k, v) :: r else (k, v) :: SMap.del r n

/-- The keys, rising. -/
def SMap.keys {β : Type} (m : SMap β) : List Nat := m.map (·.1)

/-! Memory: one list of bytes for all spaces; an unlisted byte reads 0 (log entry 2). -/

/-- What an unlisted address reads as (log entry 2). -/
def Mem.fill : Byte := 0

/-- One byte. -/
def Mem.read (m : SMap Byte) (k : Nat) : Byte := SMap.getD m k Mem.fill

/-- The memory with one byte written. -/
def Mem.write (m : SMap Byte) (k : Nat) (b : Byte) : SMap Byte := if b = Mem.fill then SMap.del m k else SMap.put m k b

/-- The little-endian number in `n` bytes from `k` up (R3). -/
def Mem.readN (m : SMap Byte) : Nat → Nat → Nat
  | _, 0 => 0
  | k, n + 1 => (Mem.read m k).toNat + 256 * Mem.readN m (k + 1) n

/-- The memory with `n` bytes of a number written from `k` up (R3). -/
def Mem.writeN (m : SMap Byte) : Nat → Nat → Nat → SMap Byte
  | _, 0, _ => m
  | k, n + 1, v => Mem.writeN (Mem.write m k (BitVec.ofNat 8 v)) (k + 1) n (v / 256)

/-- The memory with bytes written from `k` up. -/
def Mem.writeL (m : SMap Byte) : Nat → List Byte → SMap Byte
  | _, [] => m
  | k, b :: r => Mem.writeL (Mem.write m k b) (k + 1) r

/-- The `n` bytes from `k` up. -/
def Mem.readL (m : SMap Byte) (k n : Nat) : List Byte := (List.range n).map fun i => Mem.read m (k + i)

/-- The memory with the bytes of [lo, lo + n) zero. -/
def Mem.clear (m : SMap Byte) (lo n : Nat) : SMap Byte := m.filter fun x => x.1 < lo || lo + n ≤ x.1

/-- The canonical form: addresses strictly rising, no byte listed that reads as an unlisted one. -/
abbrev Mem.wf (m : SMap Byte) : Prop :=
  List.Pairwise (fun x y => x.1 < y.1) m ∧ ∀ x ∈ m, x.2 ≠ Mem.fill

/-- A host physical address (R216 HOST). -/
def hostKey (a : Nat) : Nat := 2 ^ 64 + a
/-- A local-store byte of a core (R213 LS). -/
def lsKey (core off : Nat) : Nat := 2 ^ 65 + core * 2 ^ 20 + off
/-- A byte of a die's memory (R213 DX, R130 die pool). -/
def dxKey (die off : Nat) : Nat := 2 ^ 66 + die * 2 ^ 27 + off
/-- A byte of a lane slice of a context (R213 LX). -/
def lxKey (ctx lane off : Nat) : Nat := 2 ^ 67 + ctx * 2 ^ 17 + lane * 2 ^ 11 + off

/-! Geometry (00 scope): 12 cores in a cluster, 12 clusters on a die. -/

def clusterOf (core : Nat) : Nat := core / 12
def dieOf (core : Nat) : Nat := core / 144
def localOf (core : Nat) : Nat := core % 12
def coresOf (cluster : Nat) : List Nat := (List.range 12).map (cluster * 12 + ·)
/-- The context keys of a core: slots 0 to 2. -/
def slotsOf (core : Nat) : List Nat := [core * 4, core * 4 + 1, core * 4 + 2]

/-- The combined capacity of the two stacks of a die: twice 48 GB (R2, R12, R214), a GB being 10^9 bytes (R4). -/
def stackBytes : Nat := 96 * 10 ^ 9

/-- A device physical address inside a die's window (R214). -/
def inHbm (a : Nat) : Bool := a < 2 ^ 39 && a % 2 ^ 37 < stackBytes

/-! Words. -/

def word (n : Nat) : Word := BitVec.ofNat 64 n
/-- The field [hi:lo] of a number. -/
def bits (n hi lo : Nat) : Nat := n / 2 ^ lo % 2 ^ (hi + 1 - lo)
/-- Bit `i` of a number. -/
def bit (n i : Nat) : Bool := n / 2 ^ i % 2 = 1
/-- The number of one bits among the low `k` bits. -/
def popcount : Nat → Nat → Nat
  | 0, _ => 0
  | k + 1, n => n % 2 + popcount k (n / 2)
/-- A bit as a number. -/
def b2n (b : Bool) : Nat := if b then 1 else 0

def exc (cause : Nat) (tval : Nat := 0) (tinfo : Nat := 0) : Exc := ⟨BitVec.ofNat 8 cause, word tval, word tinfo⟩

/-- TINFO in the TILE, RULE and STREAM forms (R124). -/
def tinfoTile (h : BitVec 32) : Nat := 2 ^ 62 + h.toNat
def tinfoRule (slot idx : Nat) : Nat := 2 * 2 ^ 62 + slot * 2 ^ 48 + idx
def tinfoStream (slot idx : Nat) : Nat := 3 * 2 ^ 62 + slot * 2 ^ 48 + idx

/-! Pieces of the state. -/

def State.ctx (s : State) (k : Nat) : Ctx := SMap.getD s.ctxs k Ctx.empty
def State.setCtx (s : State) (k : Nat) (c : Ctx) : State := { s with ctxs := SMap.put s.ctxs k c }
def State.modCtx (s : State) (k : Nat) (f : Ctx → Ctx) : State := s.setCtx k (f (s.ctx k))
def State.part (s : State) (p : Nat) : Part := SMap.getD s.parts p Part.empty
def State.setPart (s : State) (p : Nat) (x : Part) : State := { s with parts := SMap.put s.parts p x }
def State.task (s : State) (t : Nat) : Task := SMap.getD s.tasks t Task.empty
def State.setTask (s : State) (t : Nat) (x : Task) : State := { s with tasks := SMap.put s.tasks t x }
def State.modTask (s : State) (t : Nat) (f : Task → Task) : State := s.setTask t (f (s.task t))
def State.tile (s : State) (k : Nat) : Tile := SMap.getD s.tiles k Tile.empty
def State.setTile (s : State) (k : Nat) (x : Tile) : State := { s with tiles := SMap.put s.tiles k x }
def State.modTile (s : State) (k : Nat) (f : Tile → Tile) : State := s.setTile k (f (s.tile k))
def State.stream (s : State) (p tid : Nat) : Stream := SMap.getD s.streams (p * 65536 + tid) Stream.empty
def State.setStream (s : State) (p tid : Nat) (x : Stream) : State := { s with streams := SMap.put s.streams (p * 65536 + tid) x }
def State.keeper (s : State) (k : Nat) : Keeper := SMap.getD s.keepers k Keeper.empty
def State.setKeeper (s : State) (k : Nat) (x : Keeper) : State := { s with keepers := SMap.put s.keepers k x }
def State.job (s : State) (j : Nat) : Job := SMap.getD s.jobs j Job.empty
def State.setJob (s : State) (j : Nat) (x : Job) : State := { s with jobs := SMap.put s.jobs j x }
def State.eng (s : State) (q : Nat) : QEng := SMap.getD s.qs q QEng.empty
def State.setEng (s : State) (q : Nat) (x : QEng) : State := { s with qs := SMap.put s.qs q x }
/-- The scratchpad of a die in MiB (R244: 16 after reset). -/
def State.scratchOf (s : State) (die : Nat) : Nat := SMap.getD s.scratch die 16
/-- The partition that owns a cluster (R59). -/
def State.ownerOf (s : State) (cluster : Nat) : Option Nat :=
  match SMap.getD s.clusters cluster 0 % 16 with
  | 0 => none
  | p + 1 => some p
def State.owns (s : State) (p cluster : Nat) : Bool := s.ownerOf cluster == some p
/-- The clusters of a partition, rising. -/
def State.clustersOf (s : State) (p : Nat) : List Nat := (SMap.keys s.clusters).filter (s.owns p)
/-- The cores of a partition on a die, rising. -/
def State.coresOn (s : State) (p die : Nat) : List Nat :=
  ((s.clustersOf p).filter (· / 12 = die)).flatMap coresOf
/-- The die on which a partition's entries wait that are due on `die`: where it owns no cluster there any more (R61), the first die on
which it does (log entry 29). -/
def State.liveDie (s : State) (p die : Nat) : Nat :=
  if s.coresOn p die != [] then die else ((List.range 4).find? fun d => s.coresOn p d != []).getD die
/-- A feature is in the accepted mask (R37, R38). -/
def State.feature (s : State) (n : Nat) : Bool := s.mgmt.faccept.getLsbD n
/-- FVER (R40). -/
def State.fver (s : State) : Word := word (0x03 * 2 ^ 56 + s.mgmt.epoch.toNat * 2 ^ 32 + s.mgmt.modsn.toNat)
def State.dtime (s : State) : Word := s.mgmt.dtime
def State.sem (s : State) (core i : Nat) : Nat := (SMap.getD s.sems (core * 256 + i) 0).toNat
def State.setSem (s : State) (core i v : Nat) : State := { s with sems := SMap.put s.sems (core * 256 + i) (BitVec.ofNat 16 v) }
/-- The context of a task that sits in a slot. -/
def State.slotOfTask (s : State) (t : Nat) : Option Nat :=
  (s.ctxs.find? fun x => x.2.slot != .free && x.2.keeper.isNone && x.2.task == t).map (·.1)
/-- The contexts that hold a slot, RUN, RES, SAVE or LOAD. -/
def State.resident (s : State) : List Nat := (s.ctxs.filter fun x => x.2.slot != .free).map (·.1)
/-- A free slot of a core. -/
def State.freeSlot (s : State) (core : Nat) : Option Nat := (slotsOf core).find? fun k => (s.ctx k).slot == .free

/-- A fresh free value (log entry 8). -/
def State.fresh (s : State) : Nat × State := ((Config.freeWord s.freeCtr).toNat, { s with freeCtr := s.freeCtr + 1 })

/-- One of the numbers offered, where the manual does not say which (log entry 8). -/
def State.pick (s : State) (l : List Nat) : Option Nat × State :=
  if l = [] then (none, s) else (l[(Config.freeWord s.freeCtr).toNat % l.length]?, { s with freeCtr := s.freeCtr + 1 })

/-- Bytes written from a key up; poison they overwrite is gone (R43). -/
def State.store (s : State) (k : Nat) (bs : List Byte) : State :=
  { s with mem := Mem.writeL s.mem k bs, poison := s.poison.filter fun a => a < k || k + bs.length ≤ a }
/-- A byte of the range is poisoned (R43). -/
def State.poisoned (s : State) (k n : Nat) : Bool := s.poison.any fun a => k ≤ a && a < k + n

/-! Registers of a context (R8). -/

/-- The places of the words that R43 can poison one by one, as an image lays them out (R112): scalar registers, handles, lanes; the
accumulators each from a place of its own. -/
def sCell (n : Nat) : Nat := 0x100 + 8 * n
def hCell (n : Nat) : Nat := 0x200 + 4 * n
def laneCell (n l : Nat) : Nat := 0x1000 + 256 * n + 4 * l
def accCell (a i : Nat) : Nat := 0x80000 + 16384 * a + 4 * i
/-- The word that holds a byte of the layout, if it is one of these. -/
def cellOf (o : Nat) : Option Nat :=
  if 0x108 ≤ o && o < 0x200 then some (o / 8 * 8)
  else if (0x200 ≤ o && o < 0x240) || (0x1000 ≤ o && o < 0x3000) || (0x80000 ≤ o && o < 0xC0000) then some (o / 4 * 4)
  else none
/-- A word of accumulator `a` is poisoned. -/
def Ctx.accBad (c : Ctx) (a : Nat) : Bool := c.bad.any fun o => accCell a 0 ≤ o && o < accCell (a + 1) 0
/-- s0 reads as zero. -/
def Ctx.reg (c : Ctx) (n : BitVec 5) : Word := if n = 0 then 0 else SMap.getD c.s n.toNat 0
/-- A write of s0 is discarded; a word that is written is poisoned no more. -/
def Ctx.setReg (c : Ctx) (n : BitVec 5) (v : Word) : Ctx := if n = 0 then c else { c with s := SMap.put c.s n.toNat v, bad := c.bad.filter (· != sCell n.toNat) }
def Ctx.prd (c : Ctx) (n : Nat) : Bool := c.pred.getLsbD n
/-- A number with one bit set to `b`. -/
def putBit (x n : Nat) (b : Bool) : Nat := x - x / 2 ^ n % 2 * 2 ^ n + b2n b * 2 ^ n
def Ctx.setPrd (c : Ctx) (n : Nat) (b : Bool) : Ctx := { c with pred := BitVec.ofNat 12 (putBit c.pred.toNat n b) }
def Ctx.hreg (c : Ctx) (n : BitVec 5) : BitVec 32 := SMap.getD c.h n.toNat 0
def Ctx.setH (c : Ctx) (n : BitVec 5) (v : BitVec 32) : Ctx := { c with h := SMap.put c.h n.toNat v, bad := c.bad.filter (· != hCell n.toNat) }
def Ctx.loopc (c : Ctx) (n : Nat) : BitVec 32 := SMap.getD c.lc n 0
def Ctx.setLoopc (c : Ctx) (n : Nat) (v : BitVec 32) : Ctx := { c with lc := SMap.put c.lc n v }
/-- Lane `l` of vector register `n`. -/
def Ctx.lane (c : Ctx) (n l : Nat) : BitVec 32 := SMap.getD c.v (n * 64 + l) 0
def Ctx.setLane (c : Ctx) (n l : Nat) (x : BitVec 32) : Ctx := { c with v := SMap.put c.v (n * 64 + l) x, bad := c.bad.filter (· != laneCell n l) }
/-- Word (m, n) of accumulator `a` (R404), in a file of the context's own slot (R2, R8; log entry 4). -/
def Ctx.accw (c : Ctx) (a m n : Nat) : BitVec 32 := SMap.getD c.acc (a * 4096 + m * 64 + n) 0
def Ctx.setAcc (c : Ctx) (a m n : Nat) (x : BitVec 32) : Ctx := { c with acc := SMap.put c.acc (a * 4096 + m * 64 + n) x, bad := c.bad.filter (· != accCell a (m * 64 + n)) }
/-- The core of a context's key. -/
def coreOf (key : Nat) : Nat := key / 4

/-! Translation (R213 to R219). -/

/-- How a page is to be used. -/
inductive Use where
  | rd | wr | ex
  deriving DecidableEq, Repr

/-- GV bits [63:52] all equal bit 51 (R213). -/
def gvForm (a : Word) : Bool := (a.extractLsb' 0 52).signExtend 64 == a

/-- A device physical range inside one of the grants of a partition (R60). -/
def State.granted (s : State) (p a n : Nat) : Bool :=
  s.grants.any fun g => (g.p0 == p || g.p1 == p) && g.base ≤ a && a + n ≤ g.base + g.len

/-- The leaf that a walk found: the key of its entry, the entry, log2 of its page. -/
structure Leaf where
  key : Nat
  ent : Nat
  size : Nat
  deriving DecidableEq, Repr

/-- R216: ADDR. -/
def entAddr (e : Nat) : Nat := bits e 55 8 * 256
/-- R217 order 2, for an entry of the level whose index starts at bit `lo`. -/
def entBad (e lo : Nat) : Bool :=
  bits e 62 56 != 0 ||
  if bit e 1 then lo = 39 || bits e 7 6 = 3 || (bits e 7 6 != 1 && entAddr e % 2 ^ lo != 0)
  else lo = 16 || bit e 63 || bits e 7 2 != 0 || entAddr e % (if lo = 21 then 256 else 4096) != 0

/-- The host refuses an access to host memory (R217 order 4): with feature 8 masked every one, otherwise those in the ranges that it
has said it refuses. -/
def State.hostRefuses (s : State) (a : Nat) : Bool :=
  !s.feature 8 || s.refused.any fun x => x.1 ≤ a && a < x.1 + x.2
/-- R217, from one table down; the table at `base` must lie in the grants too, the root among them, and a root that is not aligned
is walked as it is given (log entry 9). ADDR of a DISCARDED leaf is ignored. -/
def State.walkFrom (s : State) (p : Nat) (a : Word) : List (Nat × Nat) → Nat → Except Exc Leaf
  | [], _ => .error (exc 0x20 a.toNat)
  | (lo, w) :: below, base =>
    let k := base + 8 * (a.toNat / 2 ^ lo % 2 ^ w)
    let e := Mem.readN s.mem k 8
    if !s.granted p base (8 * 2 ^ w) then .error (exc 0x23 a.toNat 4)
    else if !bit e 0 then .error (exc 0x20 a.toNat)
    else if entBad e lo then .error (exc 0x01 k)
    else if bit e 1 then
      if bits e 7 6 != 1 && !bit e 63 && !s.granted p (entAddr e) (2 ^ lo) then .error (exc 0x23 a.toNat 4)
      else if bit e 63 && bits e 7 6 != 1 && s.hostRefuses (entAddr e + a.toNat % 2 ^ lo) then .error (exc 0x2B (entAddr e + a.toNat % 2 ^ lo))
      else .ok ⟨k, e, lo⟩
    else State.walkFrom s p a below (entAddr e)

/-- What translation answers: the memory key of the byte, whether the page reads as zeros (DISCARDED), whether it is host
memory; or the access stalls on a page under migration (R226). -/
inductive Tr where
  | ok (key : Nat) (disc host : Bool) (leaf : Nat)
  | moving
  | fault (e : Exc)
  deriving DecidableEq, Repr

/-- R215 to R217, R226. With `hold` an access to a MOVING page stalls. An agent of the module has no stall to show: its access
acts on the frame that the migration has yet to copy, as one before R226 step 1 or after step 5 would. -/
def State.translate (s : State) (p : Nat) (a : Word) (u : Use) (hold : Bool := false) : Tr :=
  if !gvForm a then .fault (exc 0x29 a.toNat)
  else match s.walkFrom p a [(39, 13), (30, 9), (21, 9), (16, 5)] (s.part p).ptroot with
    | .error e => .fault e
    | .ok l =>
      if hold && bits l.ent 7 6 = 2 then .moving
      else if (u = .wr && !bit l.ent 2) || (u = .ex && !bit l.ent 3) then .fault (exc 0x21 a.toNat)
      else if u = .wr && bits l.ent 7 6 = 1 then .fault (exc 0x24 a.toNat)
      else
        let f := entAddr l.ent + a.toNat % 2 ^ l.size
        .ok (if bit l.ent 63 then hostKey f else f) (bits l.ent 7 6 = 1) (bit l.ent 63) l.key

/-- R218: A, and D for a write, set in the leaf. -/
def State.markUsed (s : State) (leaf : Nat) (u : Use) : State :=
  let b := Mem.read s.mem leaf
  { s with mem := Mem.write s.mem leaf (b ||| (if u = .wr then 0x30 else 0x10)) }

/-- The pieces of [a, a + n) that lie in one 64 KiB page each: (address, length). -/
def pieces (a : Word) (n : Nat) : List (Word × Nat) :=
  let first := min n (65536 - a.toNat % 65536)
  (a, first) :: (List.range ((n - first + 65535) / 65536)).map fun i =>
    (a + word (first + i * 65536), min 65536 (n - first - i * 65536))

/-- A range of GV translated piece by piece, with A and D set: the pieces as (address, key, length, DISCARDED). Nothing is
marked when a piece faults or stalls. -/
def State.mapRange (s : State) (p : Nat) (a : Word) (n : Nat) (u : Use) (hold : Bool := false) :
    Except Tr (State × List (Word × Nat × Nat × Bool)) :=
  (pieces a n).foldlM (fun (st : State × List (Word × Nat × Nat × Bool)) (x : Word × Nat) =>
    if x.2 = 0 then .ok st
    else match s.translate p x.1 u hold with
      | .ok k d _ l => .ok (st.1.markUsed l u, st.2 ++ [(x.1, k, x.2, d)])
      | t => .error t) (s, [])

/-- Bytes of a range read through translation, without the context's own buffer; poison is not looked at. -/
def State.gvRead (s : State) (p : Nat) (a : Word) (n : Nat) (hold : Bool := false) : Except Tr (State × List Byte) :=
  match s.mapRange p a n .rd hold with
  | .error t => .error t
  | .ok (s', ps) => .ok (s', ps.flatMap fun x => if x.2.2.2 then List.replicate x.2.2.1 0 else Mem.readL s.mem x.2.1 x.2.2.1)

/-- A byte that a read of the range gives is poisoned (R43). -/
def State.gvPoisoned (s : State) (p : Nat) (a : Word) (n : Nat) : Bool :=
  match s.mapRange p a n .rd with
  | .ok (s', ps) => ps.any fun x => !x.2.2.2 && s'.poisoned x.2.1 x.2.2.1
  | .error _ => false
/-- The poison of `n` bytes from a key up goes with them to a range of GV. -/
def State.poisonOut (s : State) (p k : Nat) (a : Word) (n : Nat) : State :=
  match s.poison.filter fun x => k ≤ x && x < k + n with
  | [] => s
  | l => match s.mapRange p a n .rd with
    | .ok (_, ps) => { s with poison := s.poison ++ l.filterMap fun x =>
        (ps.find? fun y => (y.1 - a).toNat ≤ x - k && x - k < (y.1 - a).toNat + y.2.2.1).map fun y => y.2.1 + (x - k - (y.1 - a).toNat) }
    | .error _ => s
/-- The poison of a range of GV goes with its bytes to those from a key up. -/
def State.poisonIn (s : State) (p : Nat) (a : Word) (k n : Nat) : State :=
  if s.poison = [] then s
  else match s.mapRange p a n .rd with
    | .ok (_, ps) => { s with poison := s.poison ++ ps.flatMap fun y =>
        (s.poison.filter fun x => y.2.1 ≤ x && x < y.2.1 + y.2.2.1).map fun x => k + (y.1 - a).toNat + (x - y.2.1) }
    | .error _ => s

/-- The poisoned bytes of a range of GV, as offsets (R43). -/
def State.gvBad (s : State) (p : Nat) (a : Word) (n : Nat) : List Nat :=
  if s.poison = [] then []
  else match s.mapRange p a n .rd with
    | .ok (_, ps) => ps.flatMap fun y => (s.poison.filter fun x => y.2.1 ≤ x && x < y.2.1 + y.2.2.1).map fun x =>
        (y.1 - a).toNat + (x - y.2.1)
    | .error _ => []
/-- Bytes of a range of GV poisoned, given as offsets and lengths. -/
def State.gvPoison (s : State) (p : Nat) (a : Word) (l : List (Nat × Nat)) : State :=
  l.foldl (fun s x => match s.mapRange p (a + word x.1) x.2 .rd with
    | .ok (_, ps) => { s with poison := s.poison ++ ps.flatMap fun y => (List.range y.2.2.1).map (y.2.1 + ·) }
    | .error _ => s) s

/-- R218: A set in the pages of a range of which the module itself has read. -/
def State.markRead (s : State) (p : Nat) (a : Word) (n : Nat) : State :=
  match s.mapRange p a n .rd with
  | .ok (s', _) => s'
  | .error _ => s
/-- A page of the range is under migration (R226). -/
def State.gvMoving (s : State) (p : Nat) (a : Word) (n : Nat) : Bool :=
  (pieces a n).any fun x => x.2 != 0 && s.translate p x.1 .rd true = .moving

/-- Bytes written to a range through translation. -/
def State.gvWrite (s : State) (p : Nat) (a : Word) (bs : List Byte) (hold : Bool := false) : Except Tr State :=
  match s.mapRange p a bs.length .wr hold with
  | .error t => .error t
  | .ok (s', ps) => .ok (ps.foldl (fun (st : State × List Byte) x =>
      (st.1.store x.2.1 (st.2.take x.2.2.1), st.2.drop x.2.2.1)) (s', bs)).1

/-- A little-endian number of bytes. -/
def leNat : List Byte → Nat
  | [] => 0
  | b :: r => b.toNat + 256 * leNat r
/-- The `n` low bytes of a number. -/
def leBytes : Nat → Nat → List Byte
  | 0, _ => []
  | n + 1, v => BitVec.ofNat 8 v :: leBytes n (v / 256)

/-- The number in `n` bytes of a partition's memory, where the module itself reads a table of the partition; `none` where
translation gives no page. -/
def State.peek (s : State) (p : Nat) (a : Word) (n : Nat) : Option Nat :=
  match s.gvRead p a n with
  | .ok (_, bs) => some (leNat bs)
  | .error _ => none

/-- The exception of a translation that gave no page; a page under migration has none. -/
def Tr.exc : Tr → Exc
  | .fault e => e
  | _ => Machine.exc 0x20

/-! The object table (R300). -/

/-- A LIVE object: its index, text, linkage region, trap vector, scratchpad limits, LFVER. -/
structure Obj where
  idx : Nat
  text : Word
  tlen : Nat
  ltb : Word
  tveco : Nat
  spmin : Nat
  spmax : Nat
  lfver : Word
  deriving DecidableEq, Repr

/-- The GV address of entry `i`. -/
def State.objAddr (s : State) (p i : Nat) : Word := (s.part p).otbase + word (128 * i)

/-- Entry `i` when its STATE is one of those given: 1 LIVE, 2 FORCED. -/
def State.objIn (s : State) (states : List Byte) (p i : Nat) : Option Obj :=
  match s.translate p (s.objAddr p i) .rd with
  | .ok k d _ _ =>
    if d || !states.contains (Mem.read s.mem k) then none
    else if Mem.readN s.mem (k + 3) 1 != 0 || Mem.readN s.mem (k + 0x3C) 68 != 0 then none
    else some ⟨i, word (Mem.readN s.mem (k + 8) 8), Mem.readN s.mem (k + 16) 8, word (Mem.readN s.mem (k + 24) 8),
      Mem.readN s.mem (k + 0x20) 4, Mem.readN s.mem (k + 0x24) 1, Mem.readN s.mem (k + 0x25) 1,
      word (Mem.readN s.mem (k + 0x28) 8)⟩
  | _ => none

/-- Entry `i` when it counts as LIVE. -/
def State.obj (s : State) (p i : Nat) : Option Obj := s.objIn [1] p i

/-- The table is under migration in part, and who reads it stalls (R226). -/
def State.objsMoving (s : State) (p : Nat) : Bool := s.gvMoving p (s.part p).otbase 32768
/-- R218: A set by a search of the table that ends at an entry, or finds none. -/
def State.readObjs (s : State) (p : Nat) (found : Option Nat) : State :=
  s.markRead p (s.part p).otbase (128 * (found.elim 256 (· + 1)))

/-- An address lies in the text of an object. -/
def Obj.has (o : Obj) (a : Word) : Bool := o.text.toNat ≤ a.toNat && a.toNat < o.text.toNat + o.tlen

/-- The first LIVE object with a property, by index. -/
def State.findObj (s : State) (p : Nat) (f : Obj → Bool) : Option Obj :=
  (List.range 256).findSome? fun i => (s.obj p i).bind fun o => if f o then some o else none

/-- The LIVE object whose text holds an address. -/
def State.objAt (s : State) (p : Nat) (a : Word) : Option Obj := s.findObj p (·.has a)

/-- The object, LIVE or under forced unload, whose text holds an address: what a reference names (R309). -/
def State.objRef (s : State) (p : Nat) (a : Word) : Option Nat :=
  (List.range 256).find? fun i => ((s.objIn [1, 2] p i).map (·.has a)).getD false

/-- R302: TVEC at entry. -/
def Obj.tvec (o : Obj) : Word := if o.tveco = 0xFFFFFFFF then 0 else o.text + word o.tveco

/-- LREF of an entry raised or lowered by one (R309), an access that sets A and D (R218); an entry that is FORCED becomes EMPTY
at zero (R312). -/
def State.addRef (s : State) (p i : Nat) (up : Bool) : State :=
  match s.translate p (s.objAddr p i) .wr with
  | .ok k _ _ l =>
    let n := Mem.readN s.mem (k + 4) 4
    let n' := if up then n + 1 else n - 1
    let m := Mem.writeN (s.markUsed l .wr).mem (k + 4) 4 n'
    { s with mem := if n' = 0 && Mem.read m k = 2 then Mem.write m k 0 else m }
  | _ => s

/-! Events (R65). -/

/-- The 32 bytes of a record. -/
def eventBytes (time : Word) (cause kind part srcid : Nat) (i0 i1 : Word) : List Byte :=
  leBytes 8 time.toNat ++ leBytes 1 cause ++ leBytes 1 kind ++ leBytes 1 part ++ [0] ++ leBytes 4 srcid ++
  leBytes 8 i0.toNat ++ leBytes 8 i1.toNat

/-- A device event: into the ring at EVBASE, or counted in EVDROP. -/
def State.devEvent (s : State) (cause kind part srcid : Nat) (i0 i1 : Word) : State :=
  let g := s.mgmt
  let n := g.evsize.toNat
  if n < 4 || 2 ^ n ≤ (g.evwidx - g.evridx).toNat then
    { s with mgmt := { g with evdrop := if g.evdrop = 0xFFFFFFFF then g.evdrop else g.evdrop + 1 } }
  else
    { s with mem := Mem.writeL s.mem (g.evbase.toNat + 32 * (g.evwidx.toNat % 2 ^ n)) (eventBytes g.dtime cause kind part srcid i0 i1),
             mgmt := { g with evwidx := g.evwidx + 1 } }

/-- The record is in use. -/
def Task.live? (t : Task) : Bool := t.st != .ended && t.st != .cancelled

/-- Task records of a die that no task uses. -/
def State.freeRecords (s : State) (die : Nat) : List Nat :=
  let n := (s.tasks.filter fun x => x.1 / 65536 = die).length
  ((List.range (min 65536 (n + 64))).map (die * 65536 + ·)).filter fun k => !(s.task k).live?

/-- R70: a partition that owns clusters on the die is guaranteed 4,096 of its 65,536 records. -/
def State.recordFree (s : State) (p die : Nat) : Bool :=
  let live := s.tasks.filter fun x => x.1 / 65536 = die && x.2.live?
  let mine (q : Nat) := (live.filter fun x => x.2.part = q).length
  let owed := ((List.range 8).filter fun q => q != p && (s.clustersOf q).any (· / 12 = die)).foldl
    (fun n q => n + (4096 - mine q)) 0
  mine p < 4096 || live.length + owed < 65536

/-- A task put into a record: its generation advances (R439). -/
def State.newTask (s : State) (t : Nat) (x : Task) : State :=
  { s.setTask t { x with gen := (s.task t).gen + 1, seq := s.nextId } with nextId := s.nextId + 1 }

/-- The record that a name names, by the DIE, REC and RGEN in it: its own, or the one to which R81 has transferred it. -/
def State.recordNamed (s : State) (n : Word) : Option Nat :=
  let t := bits n.toNat 33 32 * 65536 + bits n.toNat 15 0
  if (s.task t).live? && (s.task t).gen.toNat = bits n.toNat 31 16 then some t
  else (s.names.find? fun x => x.1 = n.toNat).map (·.2)
/-- R439: a task name. -/
def State.taskName (s : State) (t : Nat) : Word := word (t / 65536 * 2 ^ 32 + (s.task t).gen.toNat * 2 ^ 16 + t % 65536)

/-- The tasks that an entry starts. -/
def State.entTasks (s : State) : Ent → List Nat
  | .task t => [t]
  | .gang g => ((SMap.get? s.gangs g).map (·.tasks)).getD []
  | .keeper _ => []
/-- R50, R54: the STAMP that a root takes from DTIME as it enters the Pithead. -/
def State.stampEntry (s : State) (e : Ent) : State :=
  (s.entTasks e).foldl (fun s t => if (s.task t).late then
    s.modTask t fun x => { x with stamp := s.dtime, late := false } else s) s
/-- The entries of a partition that a die's Pithead holds (R84). -/
def State.inPithead (s : State) (die p : Nat) : List PEntry :=
  s.pithead.filter fun e => e.die = die && e.part = p && e.inside
/-- The entry that has been eligible longest outside passes from its record to the tail of its level, when there is room for it
(R84). -/
def State.takeInOne (s : State) (e : PEntry) : State :=
  if e.inside || 16384 ≤ (s.inPithead e.die e.part).length then s
  else ({ s with pithead := s.pithead.erase e ++ [{ e with inside := true, since := s.bclk }] } : State).stampEntry e.ent
/-- Entries pass from their records into the Pithead, in the order in which they became eligible, while there is room (R84). -/
def State.takeIn (s : State) : State := (s.pithead.filter (!·.inside)).foldl State.takeInOne s
/-- An entry at the tail of its level, or, while its partition's entries on the die are full, in its record (R84). -/
def State.enqueue (s : State) (die p level : Nat) (e : Ent) : State :=
  let s1 := s.takeIn
  let die := s1.liveDie p die
  let room : Bool := (s1.inPithead die p).length < 16384
  let s2 := { s1 with pithead := s1.pithead ++ [⟨die, p, level, s1.bclk, e, s1.bclk, room⟩] }
  if room then s2.stampEntry e else s2

/-- R127: an event on a die starts a handler task. -/
def State.handlerDue (s : State) (p die : Nat) : Bool :=
  let x := s.part p
  x.hvec != 0 && !x.handlers.contains die && x.st = .active
/-- R127: the handler task of a partition on a die. -/
def State.handlerEvent (s : State) (p die cause : Nat) : State :=
  let x := s.part p
  if !s.handlerDue p die then s
  else match s.objAt p x.hvec with
    | none => (s.readObjs p none).devEvent 0x58 0 p die x.hvec (word cause)
    | some o =>
      let s := s.readObjs p (some o.idx)
      let (r, s1) := if s.recordFree p die then s.pick (s.freeRecords die) else (none, s)
      match r with
      | none => s
      | some t =>
        let w := Mem.readN s.mem (x.desc + 40) 8
        let task := { Task.empty with
          st := .ready, part := p, die := die, code := o.text, obj := o.idx, entry := (x.hvec - o.text).toNat, prio := 7,
          args := [x.evring, word w, word die, 0], stamp := s.dtime, handler := true }
        (((s1.newTask t task).addRef p o.idx true).setPart p { x with handlers := die :: x.handlers }).enqueue die p 7 (.task t)

/-- A partition event (R65) of a DTIME: into the partition's ring, or counted in EVDROP of its descriptor; then the handler (R127).
An event whose record cannot be written for its ring's size or translation counts as dropped (log entry 14); one whose place is
under migration, or whose handler is looked for in a table that is, stalls (R226). -/
def State.eventAt (s : State) (p die cause kind srcid : Nat) (i0 i1 time : Word) : State :=
  let x := s.part p
  let w := Mem.readN s.mem (x.desc + 40) 8
  let r := Mem.readN s.mem (x.desc + 72) 8
  let a := x.evring + word (32 * (w % 2 ^ x.evsize))
  let full : Bool := x.evsize < 4 || 16 < x.evsize || 2 ^ x.evsize ≤ w - r
  let drop := { s with mem := Mem.writeN s.mem (x.desc + 48) 8 (Mem.readN s.mem (x.desc + 48) 8 + 1) }
  let s1 :=
    if full then drop
    else match s.gvWrite p a (eventBytes time cause kind p srcid i0 i1) with
      | .ok s' => { s' with mem := Mem.writeN s'.mem (x.desc + 40) 8 (w + 1) }
      | .error _ => drop
  if (!full && s.gvMoving p a 32) || (s.handlerDue p die && s.objsMoving p) then { s with held := s.held ++ [.event p die cause kind srcid i0 i1 time] }
  else s1.handlerEvent p die cause
/-- A partition event at the DTIME of now. -/
def State.partEvent (s : State) (p die cause kind srcid : Nat) (i0 i1 : Word) : State :=
  s.eventAt p die cause kind srcid i0 i1 s.dtime

/-- Events whose SRCID the manual does not give (log entry 8). -/
def State.devEventAny (s : State) (cause kind : Nat) (i0 : Word) : State :=
  let (v, s1) := s.fresh
  s1.devEvent cause kind 0xFF (v % 2 ^ 32) i0 0
def State.partEventAny (s : State) (p die cause kind : Nat) (i0 : Word) : State :=
  let (v, s1) := s.fresh
  s1.partEvent p die cause kind (v % 2 ^ 32) i0 0

/-- R108, R358: a semaphore raised; above 65,535 it stays there and 0x4A goes to the partition of the core. -/
def State.semAdd (s : State) (core i n : Nat) : State :=
  let v := s.sem core i + n
  if v ≤ 65535 then s.setSem core i v
  else
    let s1 := s.setSem core i 65535
    match s.ownerOf (clusterOf core) with
    | none => s1
    | some p => s1.partEvent p (dieOf core) 0x4A 0 core (word (core * 2 ^ 16 + i)) 0

/-- R256: a wait's threshold given back, saturating, with no fault. -/
def State.semBack (s : State) (core i n : Nat) : State := s.setSem core i (min 65535 (s.sem core i + n))

end Sys2Proof.Machine
end

