-- ==== Sys2Proof/Machine/Pool.lean ====
section
/-! DEFINITION. The tile pools (R130 to R163): handles, headers, holders, quotas, allocation, reads and the return of pages.
What also touches tasks (commit, an uncommitted free) is in Sched.lean. -/

namespace Sys2Proof.Machine
open Sys2Proof

/-! Handles and pools (R130 to R135). Pool numbers: a core, or 576 + a die. -/

def hLvl (h : BitVec 32) : Nat := bits h.toNat 31 30
def hGen (h : BitVec 32) : Nat := bits h.toNat 10 0
/-- The pool and slot that a handle names, if its form allows one. -/
def hSlot (h : BitVec 32) : Option Nat :=
  let n := h.toNat
  match hLvl h with
  | 3 => none
  | 2 => if bits n 27 24 = 0 then some ((576 + bits n 29 28) * 8192 + bits n 23 11) else none
  | _ => if bits n 29 20 < 576 then some (bits n 29 20 * 8192 + bits n 19 11) else none
/-- The handle of a slot (R134). -/
def mkHandle (lvl pool slot gen : Nat) : BitVec 32 :=
  BitVec.ofNat 32 (lvl * 2 ^ 30 + (if pool < 576 then pool * 2 ^ 20 + slot * 2 ^ 11 else (pool - 576) * 2 ^ 28 + slot * 2 ^ 11) + gen)

/-- CPOOL on a core: the value that its cluster passed to its partition with (R131); 0 without a partition. -/
def State.cpoolOf (s : State) (core : Nat) : Nat :=
  SMap.getD s.clusters (clusterOf core) 0 / 16
/-- Two handles name one slot with one generation: a tile of a core pool has a handle at level 0 and one at level 1 (R134, R138). -/
def sameTile (h h' : BitVec 32) : Bool :=
  h = h' || (hLvl h < 2 && hLvl h' < 2 && bits h.toNat 29 0 = bits h'.toNat 29 0)
/-- The handles that name a slot with a generation: at levels 0 and 1, or at level 2. -/
def handlesOf (pool slot gen : Nat) : List (BitVec 32) :=
  if pool < 576 then [mkHandle 0 pool slot gen, mkHandle 1 pool slot gen] else [mkHandle 2 pool slot gen]

/-- The pages of a pool (R130). -/
def State.poolPages (s : State) (pool : Nat) : Nat := if pool < 576 then s.cpoolOf pool else 8192
/-- The die of a pool. -/
def poolDie (pool : Nat) : Nat := if pool < 576 then dieOf pool else pool - 576
/-- The key of byte `o` of a page (R130 to R132). -/
def State.pageKey (s : State) (pool page o : Nat) : Nat :=
  if pool < 576 then lsKey pool (2 ^ 20 - s.cpoolOf pool * 2048 + page * 2048 + o) else dxKey (pool - 576) (page * 2048 + o)

/-- The key and the generation of the header that a handle names, through the indirection of R162 for a moved tile. -/
def State.slotOf (s : State) (h : BitVec 32) : Option (Nat × Nat) :=
  (hSlot h).map fun k => match SMap.get? s.moved h.toNat with
    | some m => (m / 2048, m % 2048)
    | none => (k, hGen h)
/-- The key of the tile that a handle names; `none` when the handle is stale (R135). -/
def State.tileOf (s : State) (h : BitVec 32) : Option Nat :=
  match s.slotOf h with
  | none => none
  | some (k, g) =>
    if s.poolPages (k / 8192) ≤ k % 8192 then none
    else
      let t := s.tile k
      if t.gen = g && t.st != .free then some k else none

/-- The key of byte `o` of a tile (R133). -/
def State.tileByte (s : State) (tk o : Nat) : Nat :=
  s.pageKey (tk / 8192) ((s.tile tk).pmap.getD (o / 2048) 0) (o % 2048)
def State.tileRead (s : State) (tk o n : Nat) : List Byte := (List.range n).map fun i => Mem.read s.mem (s.tileByte tk (o + i))
def State.tileWrite (s : State) (tk o : Nat) (bs : List Byte) : State :=
  ((List.range bs.length).zip bs).foldl (fun s x => s.store (s.tileByte tk (o + x.1)) [x.2]) s

/-- The tiles that hold pages of a pool. -/
def State.tilesIn (s : State) (pool : Nat) : List (Nat × Tile) :=
  s.tiles.filter fun x => x.1 / 8192 = pool && (x.2.st != .free || x.2.dying)
def State.usedBy (s : State) (pool p : Nat) : Nat :=
  ((s.tilesIn pool).filter (·.2.part = p)).foldl (fun n x => n + x.2.pg) 0
def State.freePages (s : State) (pool : Nat) : Nat :=
  s.poolPages pool - (s.tilesIn pool).foldl (fun n x => n + x.2.pg) 0
def State.quota (s : State) (pool p : Nat) : Quota := SMap.getD s.quotas (pool * 8 + p) ⟨0, 0⟩
def State.unusedG (s : State) (pool p : Nat) : Nat := (s.quota pool p).g - s.usedBy pool p
/-- R139, once the pages of the requests `g` are gone too. -/
def State.grantableAfter (s : State) (g : List Req) (pool p n : Nat) : Bool :=
  let taken (q : Nat) := (g.filter (·.part = q)).foldl (fun a r => a + r.n) 0
  s.usedBy pool p + taken p + n ≤ (s.quota pool p).c &&
  n + ((List.range 8).filter (· != p)).foldl (fun a q => a + (s.unusedG pool q - taken q)) 0 + g.foldl (fun a r => a + r.n) 0 ≤
    s.freePages pool
/-- R139. -/
def State.grantable (s : State) (pool p n : Nat) : Bool := s.grantableAfter [] pool p n

/-- R142: the order of age. -/
def Req.older (x y : Req) : Bool := x.age < y.age || (x.age = y.age && x.core < y.core)
/-- The oldest blocked request of a partition in a pool. -/
def State.headReq (s : State) (pool p : Nat) : Option Req :=
  (s.reqs.filter fun r => r.pool = pool && r.part = p).foldl (fun m r => match m with
    | none => some r
    | some q => if r.older q then some r else m) none
/-- R61: a cluster of a partition is being moved away. -/
def State.leaving (s : State) (p cluster : Nat) : Bool := s.moves.any fun m => m.from_ = p && m.cluster = cluster
/-- A request is the oldest of its partition in its pool, and grantable; while its cluster moves, allocations there block
(R61). -/
def State.fitsNow (s : State) (r : Req) : Bool :=
  s.headReq r.pool r.part == some r && s.grantable r.pool r.part r.n && !(r.pool < 576 && s.leaving r.part (clusterOf r.pool))
/-- It can be granted, and of a multicast's command every other (R158). -/
def State.allFit (s : State) (r : Req) : Bool := (s.reqs.filter (·.who = r.who)).all s.fitsNow
/-- The oldest requests of the partitions in a pool, oldest first. -/
def State.heads (s : State) (pool : Nat) : List Req :=
  ((List.range 8).filterMap (s.headReq pool)).foldl (fun l r => l.filter (·.older r) ++ [r] ++ l.filter fun q => !q.older r) []
/-- Those that the pool could grant in this bclk (R142). -/
def State.grantsNow (s : State) (pool : Nat) : List Req := (s.heads pool).filter s.allFit
/-- Those that it grants before a dispatch of this bclk takes what remains; none, once it has granted them (R142). -/
def State.granting (s : State) (pool : Nat) : List Req :=
  if (s.shared.getD []).contains pool then []
  else (s.grantsNow pool).foldl (fun g r => if s.grantableAfter g pool r.part r.n then g ++ [r] else g) []
/-- R142: the pool may grant a request now: it fits, and no older one is granted before it. -/
def State.mayGrant (s : State) (r : Req) : Bool := s.fitsNow r && !(s.grantsNow r.pool).any fun q => q != r && q.older r

/-- `n` of the numbers offered, where the manual does not say which (log entry 8). -/
def State.pickN (s : State) (l : List Nat) : Nat → List Nat × State
  | 0 => ([], s)
  | n + 1 =>
    match s.pick l with
    | (none, s') => ([], s')
    | (some x, s') => let r := State.pickN s' (l.filter (· != x)) n; (x :: r.1, r.2)

/-- R136: the word OWNER. -/
def ownerWord (kind id : Nat) : BitVec 32 := BitVec.ofNat 32 (kind * 2 ^ 30 + id)
def taskOwner (t : Nat) : BitVec 32 := ownerWord 0 t
def ruleOwnerWord (core slot k : Nat) : BitVec 32 := ownerWord 2 (core * 256 + slot * 16 + k)

/-- The slices of the streams without those that handles named in an earlier turn of GEN (R135, R165): their tiles are FREE. -/
def staleSlices (hs : List (BitVec 32)) (m : SMap Stream) : SMap Stream :=
  m.map fun x => if x.2.slices.any (fun y => hs.contains y.2) then (x.1, { x.2 with slices := x.2.slices.filter fun y => !hs.contains y.2 }) else x
/-- R145: a grant of `n` pages; the tile's key and handle. The pool must be able to give them. -/
def State.allocTile (s : State) (pool lvl p n decl : Nat) (stamp : Word) (own : Owner) (ow : BitVec 32) (by_ : Holder) :
    State × BitVec 32 :=
  let live := s.tilesIn pool
  let slots := (List.range (s.poolPages pool)).filter fun i => !live.any fun x => x.1 = pool * 8192 + i
  let usedPages := live.flatMap fun x => x.2.pmap.take x.2.pg
  let (sl, s1) := s.pick slots
  let (pgs, s2) := s1.pickN ((List.range (s.poolPages pool)).filter fun i => !usedPages.contains i) n
  let slot := sl.getD 0
  let old := s.tile (pool * 8192 + slot)
  let gen := if old.gen = 2047 then 1 else old.gen + 1
  let h := mkHandle lvl pool slot gen
  let t : Tile := { Tile.empty with
    st := .alloc, part := p, pg := n, gen := gen, decl := decl, rem := decl, hold := 1, ownerW := ow, owner := own, stamp := stamp,
    pmap := pgs }
  let mem := pgs.foldl (fun m g => if SMap.getD s.pages (pool * 8192 + g) 0 = p + 1 then m else Mem.clear m (s.pageKey pool g 0) 2048) s2.mem
  let pages := pgs.foldl (fun m g => SMap.put m (pool * 8192 + g) (p + 1)) s2.pages
  let zeroed := pgs.filter fun g => SMap.getD s.pages (pool * 8192 + g) 0 != p + 1
  let poison := s2.poison.filter fun k => !zeroed.any fun g => s.pageKey pool g 0 ≤ k && k < s.pageKey pool g 0 + 2048
  ({ s2 with tiles := SMap.put s2.tiles (pool * 8192 + slot) t, mem := mem, poison := poison, pages := pages,
             holds := (by_, h) :: s2.holds.filter fun x => !(handlesOf pool slot gen).contains x.2,
             streams := staleSlices (handlesOf pool slot gen) s2.streams,
             moved := (handlesOf pool slot gen).foldl (fun m h => SMap.del m h.toNat) s2.moved }, h)

/-! Monitors (R67, R68). -/

/-- R68: the histogram bin of a value. -/
def histBin (v : Nat) : Nat := if v = 0 then 0 else min 31 (Nat.log2 v + 1)
/-- A value counted; counts saturate. -/
def Monitor.take (m : Monitor) (v : Nat) : Monitor :=
  { m with count := min (2 ^ 64 - 1) (m.count + 1), sum := min (2 ^ 64 - 1) (m.sum + v), min_ := min m.min_ v, max_ := max m.max_ v,
           bins := SMap.put m.bins (histBin v) (min (2 ^ 32 - 1) (SMap.getD m.bins (histBin v) 0 + 1)) }
/-- A sample taken by every monitor of a die that watches the source. -/
def State.sample (s : State) (die src sel v : Nat) : State :=
  { s with monitors := s.monitors.map fun x =>
      if x.1 / 32 = die && x.2.on && x.2.src = src && x.2.sel = sel then (x.1, x.2.take v) else x }

/-! Reads, holders and the return of pages (R138, R150 to R157). -/

/-- R156, R67: the abandonment event of a tile that goes, its sample the reads abandoned (log entry 34). -/
def State.abandonEvent (s : State) (tk : Nat) (t : Tile) : State :=
  if t.abn = 0 then s else s.sample (poolDie (tk / 8192)) 6 t.part t.abn

/-- R153, R154, R155: the pages return when nothing keeps them; in a bclk that several acts share, after all of them (R137). -/
def State.settle (s : State) (tk : Nat) : State :=
  let t := s.tile tk
  if s.shared.isSome then s
  else if t.dying then
    if t.pin = 0 then s.setTile tk { t with dying := false, pmap := [] } else s
  else if t.rsv = 0 && t.pin = 0 && t.rem = 0 && t.st = .committed then
    (s.setTile tk { t with st := .free, pmap := [], slice := false, carry := false, mismatch := false }).abandonEvent tk t
  else if t.rsv = 0 && t.pin = 0 && t.st = .abandoned then
    (s.setTile tk { t with st := .free, pmap := [], slice := false, carry := false }).abandonEvent tk t
  else s

/-- `n` reads consumed at once (R150, DIRECT mode of R151). -/
def State.consumeNow (s : State) (tk n : Nat) : State := (s.modTile tk fun t => { t with rem := t.rem - n }).settle tk
/-- `n` reads reserved by a buffered region (R151). -/
def State.reserveReads (s : State) (tk n : Nat) : State := s.modTile tk fun t => { t with rem := t.rem - n, rsv := t.rsv + n }
/-- A reservation that its region commits (R151). -/
def State.commitReads (s : State) (h : BitVec 32) (n : Nat) : State :=
  match s.tileOf h with
  | some tk => (s.modTile tk fun t => { t with rsv := t.rsv - n }).settle tk
  | none => s
/-- A reservation that its region aborts (R151). -/
def State.undoReads (s : State) (h : BitVec 32) (n : Nat) : State :=
  match s.tileOf h with
  | some tk =>
    (s.modTile tk fun t =>
      if t.st = .abandoned || t.mismatch then { t with rsv := t.rsv - n, abn := t.abn + n }
      else { t with rsv := t.rsv - n, rem := t.rem + n }).settle tk
  | none => s
/-- R154: `k` reads abandoned. -/
def State.abandonReads (s : State) (h : BitVec 32) (k : Nat) : State :=
  match s.tileOf h with
  | some tk =>
    let t := s.tile tk
    if t.st != .committed || t.rem = 0 then s
    else
      let n := min k t.rem
      (s.setTile tk { t with rem := t.rem - n, abn := t.abn + n, st := if t.rem = n then .abandoned else t.st }).settle tk
  | none => s

/-- The holder holds the tile that a handle names (R138: by slot and generation). -/
def State.holdsTile (s : State) (w : Holder) (h : BitVec 32) : Bool := s.holds.any fun x => x.1 = w && sameTile x.2 h
/-- R138: a hold taken; `none` when HOLD would exceed 65,535. A holder holds a tile at most once. -/
def State.takeHold (s : State) (w : Holder) (h : BitVec 32) : Option State :=
  if s.holdsTile w h then some s
  else match s.tileOf h with
    | none => some s
    | some tk =>
      if (s.tile tk).hold = 65535 then none
      else some { s.modTile tk fun t => { t with hold := t.hold + 1 } with holds := (w, h) :: s.holds }

/-- A hold, or the 0x39 of one that is refused (R138). -/
def State.holdOr (s : State) (w : Holder) (h : BitVec 32) : Except Exc State :=
  match s.takeHold w h with
  | some s1 => .ok s1
  | none => .error (exc 0x39 0xFFFF (tinfoTile h))

/-- R138, R154, R157: a hold released, ordinarily or by abandonment; SRCID of its event is the pool (log entry 34). -/
def State.dropHold (s : State) (w : Holder) (h : BitVec 32) (abandon : Bool) : State :=
  if !s.holdsTile w h then s
  else
    let s1 := { s with holds := s.holds.eraseP fun x => x.1 = w && sameTile x.2 h }
    match s1.tileOf h with
    | none => s1
    | some tk =>
      let t := { s1.tile tk with hold := (s1.tile tk).hold - 1 }
      if t.hold != 0 || t.st != .committed || t.rem = 0 then (s1.setTile tk t).settle tk
      else if abandon then (s1.setTile tk { t with st := .abandoned, abn := t.abn + t.rem, rem := 0 }).settle tk
      else
        ((s1.setTile tk { t with rem := 0, mismatch := true }).settle tk).partEvent t.part (poolDie (tk / 8192)) 0x31 0
          (tk / 8192) (word t.rem) (word (tinfoTile h))

/-- The tiles that a holder holds. -/
def State.heldBy (s : State) (w : Holder) : List (BitVec 32) := (s.holds.filter (·.1 = w)).map (·.2)
/-- R138: a hold that passes to another holder without a change of HOLD. -/
def State.passHold (s : State) (w w' : Holder) : State :=
  { s with holds := s.holds.map fun x => if x.1 = w then (w', x.2) else x }

/-- R152. -/
def State.pin (s : State) (h : BitVec 32) : State :=
  match s.tileOf h with
  | some tk => s.modTile tk fun t => { t with pin := t.pin + 1 }
  | none => s
def State.unpin (s : State) (h : BitVec 32) : State :=
  match s.slotOf h with
  | none => s
  | some (k, g) =>
    if (s.tile k).gen = g then (s.modTile k fun t => { t with pin := t.pin - 1 }).settle k else s

/-! Access checks (R148). -/

/-- Who reaches a tile through a handle: a task on a core, or a firing of a rule. -/
inductive User where
  | task (id core : Nat)
  | rule (own : RuleOwner) (k : Nat)
  deriving DecidableEq, Repr

/-- What an access does to the tile (R148 orders 5 to 9). -/
inductive Need where
  | rd | wr | use
  deriving DecidableEq, Repr

/-- R148 order 3, R162: a tile is reached from its cluster, or from its die for a tile in the die pool. -/
def reachable (tk core : Nat) : Bool :=
  if tk / 8192 < 576 then clusterOf (tk / 8192) = clusterOf core else tk / 8192 - 576 = dieOf core

/-- R148 orders 1 and 2, and order 3 for a task. -/
def State.tileNamed (s : State) (u : User) (h : BitVec 32) (off : Nat) : Except Exc Nat :=
  if h = 0 then .error (exc 0x37)
  else match s.tileOf h with
    | none => .error (exc 0x32 0 (tinfoTile h))
    | some tk =>
      match u with
      | .task _ core => if reachable tk core then .ok tk else .error (exc 0x23 off (tinfoTile h))
      | .rule _ _ => .ok tk

/-- The code of STATE (R136). -/
def TileSt.code : TileSt → Nat
  | .free => 0
  | .alloc => 1
  | .committed => 2
  | .abandoned => 3

/-- R148 orders 5 to 9. `mine` says that the accessor is the owner or its engine job. -/
def tileUse (t : Tile) (h : BitVec 32) (off : Nat) (mine : Bool) (need : Need) : Option Exc :=
  match need with
  | .wr =>
    if !mine then some (exc 0x3A 0 (tinfoTile h))
    else if t.st != .alloc then some (exc 0x36 off (tinfoTile h))
    else none
  | .rd => if t.st = .alloc && !mine then some (exc 0x39 t.st.code (tinfoTile h)) else none
  | .use =>
    if t.st = .alloc then some (exc 0x39 t.st.code (tinfoTile h))
    else if t.rem = 0 then some (exc 0x30 0 (tinfoTile h))
    else none

end Sys2Proof.Machine
end

