-- ==== Sys2Proof/Machine/Image.lean ====
section
/-! DEFINITION. The records that the module writes to memory and reads back: bindings (R168), rule records (R185), context
images (R112) with their trailer (R309), and continuation records (R96). -/

namespace Sys2Proof.Machine
open Sys2Proof

/-- The little-endian number in `n` bytes at an offset of a byte string. -/
def slice (bs : List Byte) (off n : Nat) : Nat := leNat ((bs.drop off).take n)

/-! Bindings (R168). -/

def bindingNat (b : Binding) : Nat :=
  b.tid.toNat + (if b.out then 2 else 1) * 2 ^ 16 + b.lvl.toNat * 2 ^ 24 + b.pg.toNat * 2 ^ 32 + b.rds.toNat * 2 ^ 48 +
  b.start.toNat * 2 ^ 64 + b.sext.toNat * 2 ^ 128
/-- Reserved bits, MODE 3, or a field outside its limits. A MODE of 0 needs no more. -/
def bindingBad (n : Nat) : Bool :=
  bits n 23 18 != 0 || bits n 17 16 = 3 || bits n 31 26 != 0 || bits n 47 40 != 0 || bits n 63 60 != 0 || bits n 127 112 != 0 ||
  bits n 255 192 != 0 ||
  (bits n 17 16 = 1 && (bits n 39 24 != 0 || bits n 59 48 != 0)) ||
  (bits n 17 16 = 2 && (bits n 25 24 = 3 || bits n 39 32 = 0 || 32 < bits n 39 32 || bits n 59 48 = 0))
/-- The binding of 32 bytes; `none` for MODE 0. -/
def bindingOf (n : Nat) : Option Binding :=
  if bits n 17 16 = 0 then none
  else some ⟨BitVec.ofNat 16 n, bits n 17 16 = 2, BitVec.ofNat 2 (bits n 25 24), BitVec.ofNat 8 (bits n 39 32),
    BitVec.ofNat 12 (bits n 59 48), BitVec.ofNat 48 (bits n 111 64), word (bits n 191 128)⟩
/-- START names BASE (R168). -/
def Binding.fromBase (b : Binding) : Bool := b.start == 0xFFFFFFFFFFFF

/-! Rule records (R185). -/

def RuleSt.code : RuleSt → Nat
  | .armed => 1
  | .firing => 2
  | .faulted => 3
def ruleNat (r : Rule) : Nat :=
  r.img0.toNat + r.img1.toNat * 2 ^ 64 + r.img2.toNat * 2 ^ 128 + r.img3.toNat * 2 ^ 192 + r.cur % 2 ^ 48 * 2 ^ 256 +
  r.st.code * 2 ^ 304 + r.fcause.toNat * 2 ^ 312 + r.rank % 2 ^ 16 * 2 ^ 320 + r.tida.toNat * 2 ^ 336 + r.tidb.toNat * 2 ^ 352 +
  r.tidd.toNat * 2 ^ 368 + r.outf.toNat * 2 ^ 384 + r.carry.toNat * 2 ^ 416 + r.ckind.toNat * 2 ^ 448 + r.rslt.toNat * 2 ^ 480
/-- A stored record that fails its load checks. -/
def ruleBad (n : Nat) : Bool := bits n 305 304 = 2 || bits n 311 306 != 0 || bits n 407 396 != 0 || bits n 479 456 != 0
/-- The record of 64 bytes, with its SUBST entry, its installer's object and the context key of its installation. -/
def ruleOf (n sub obj home : Nat) : Option Rule :=
  if bits n 305 304 = 0 then none
  else some ⟨word n, word (n / 2 ^ 64), word (n / 2 ^ 128), word (n / 2 ^ 192), bits n 303 256,
    if bits n 305 304 = 3 then .faulted else .armed, BitVec.ofNat 8 (n / 2 ^ 312), bits n 335 320, BitVec.ofNat 16 (n / 2 ^ 336),
    BitVec.ofNat 16 (n / 2 ^ 352), BitVec.ofNat 16 (n / 2 ^ 368), BitVec.ofNat 32 (n / 2 ^ 384), BitVec.ofNat 32 (n / 2 ^ 416),
    BitVec.ofNat 8 (n / 2 ^ 448), BitVec.ofNat 32 (n / 2 ^ 480), BitVec.ofNat 32 sub, BitVec.ofNat 2 (sub / 2 ^ 32), obj,
    home, [], 0, none⟩
def Rule.substNat (r : Rule) : Nat := r.sub.toNat + r.subOp.toNat * 2 ^ 32
/-- The instruction in a rule's IMG, as one number. -/
def Rule.img (r : Rule) : Nat := r.img0.toNat + r.img1.toNat * 2 ^ 64 + r.img2.toNat * 2 ^ 128 + r.img3.toNat * 2 ^ 192

/-! Context images (R112). -/

/-- The register TASK of a task record: its die and its number (R96, R330). -/
def taskWord (t : Nat) : Word := word (t / 65536 * 2 ^ 32 + t % 65536)
/-- The task record that a TASK register names. -/
def taskNo (w : Word) : Nat := bits w.toNat 33 32 * 65536 + bits w.toNat 15 0

/-- The accumulators that hold anything, OVF and poison among it. -/
def Ctx.accMap (c : Ctx) : List Nat :=
  (List.range 16).filter fun a => c.ovf.getLsbD a || c.accBad a || c.acc.any fun x => x.1 / 4096 = a && x.2 != 0
/-- STATUS. -/
def Ctx.status (c : Ctx) : Nat :=
  c.pred.toNat + b2n c.th * 2 ^ 12 + b2n c.ph * 2 ^ 13 + b2n c.direct * 2 ^ 14 + b2n c.lxu * 2 ^ 15 +
  (c.accMap.foldl (fun n a => n + 2 ^ a) 0) * 2 ^ 16 + ((SMap.keys c.k).foldl (fun n k => n + 2 ^ k) 0) * 2 ^ 32 +
  c.depth % 32 * 2 ^ 48 + b2n (c.async != []) * 2 ^ 53

/-- The registers of SPECIAL beside FPC and FPS, with TSAVE and TSAVD. -/
def Ctx.special (c : Ctx) : List Word :=
  [c.etb, c.ptb, c.ltb, c.taskR, c.stamp, c.tcause, c.tpc, c.tval, c.tinfo, c.tvec, c.tsave, word c.tsavd]
/-- The bits of STATUS that no part of an image gives. -/
def Ctx.modes (c : Ctx) : Nat :=
  c.pred.toNat + b2n c.th * 2 ^ 12 + b2n c.ph * 2 ^ 13 + b2n c.direct * 2 ^ 14 + c.depth % 32 * 2 ^ 48
/-- A keeper as a context whose image is its own (R187): STATUS, SPECIAL, F, K and carried accumulators. -/
def Keeper.ctx (x : Keeper) : Ctx :=
  let w (i : Nat) := x.special.getD i 0
  { Ctx.empty with
    part := x.part, pred := BitVec.ofNat 12 x.status, th := bit x.status 12, ph := bit x.status 13, direct := bit x.status 14,
    depth := bits x.status 52 48, etb := w 0, ptb := w 1, ltb := w 2, taskR := w 3, stamp := w 4, tcause := w 5, tpc := w 6, tval := w 7,
    tinfo := w 8, tvec := w 9, tsave := w 10, tsavd := (w 11).toNat, fpc := x.fpc, fps := x.fps, f := x.f, k := x.k, acc := x.acc,
    ovf := x.ovf, bad := x.bad.filter (0x80000 ≤ ·) }

/-- MXRES of one job. -/
def MxJob.bytes (j : MxJob) : List Byte :=
  leBytes 8 j.img0.toNat ++ leBytes 8 j.img1.toNat ++ leBytes 8 j.pc.toNat ++ leBytes 4 j.done ++ leBytes 4 3

/-- `n` places of `w` bytes, each from its number. -/
def places (n w : Nat) (f : Nat → Nat) : List Byte := (List.range n).flatMap fun i => leBytes w (f i)

/-- The tag of a store-buffer sector: its address and class, then the mask of its bytes. -/
def Ctx.sbTag (c : Ctx) (sec : Nat × Nat) : List Byte :=
  leBytes 8 (sec.1 + sec.2 * 8 + 1) ++
  leBytes 16 ((List.range 128).foldl (fun m i => if (SMap.get? c.sbuf (sec.1 + i)).isSome then m + 2 ^ i else m) 0) ++ leBytes 8 0

/-- Bytes 0x0000 to 0xCFFF. -/
def Ctx.imageBase (c : Ctx) : List Byte :=
  leBytes 8 c.pc.toNat ++ leBytes 8 c.status ++ places 4 4 (fun i => (c.loopc i).toNat) ++
  ([c.etb, c.ptb, c.ltb, c.taskR, c.stamp, c.fpc, c.fps, c.tcause, c.tpc, c.tval,
    c.tinfo, c.tvec].flatMap fun w => leBytes 8 w.toNat) ++
  leBytes 8 c.tsave.toNat ++ leBytes 8 c.tsavd ++ leBytes 112 0 ++
  places 32 8 (fun i => if i = 0 then 0 else (SMap.getD c.s i 0).toNat) ++ places 16 4 (fun i => (SMap.getD c.h i 0).toNat) ++
  places 16 8 (fun i => match SMap.get? c.k i with | some r => r.substNat | none => 0) ++ leBytes 64 0 ++
  places 16 16 (fun i => match SMap.get? c.calls i with | some f => f.1.toNat + f.2.toNat * 2 ^ 64 | none => 0) ++
  places 16 32 (fun i => match SMap.get? c.f i with | some b => bindingNat b | none => 0) ++
  places 16 64 (fun i => match SMap.get? c.k i with | some r => ruleNat r | none => 0) ++
  (List.range 8).flatMap (fun i => match c.mx[i]? with | some j => j.bytes | none => leBytes 32 0) ++
  places 32 8 (fun i => match c.cbuf[i]? with | some x => x.1.toNat + x.2 * 2 ^ 32 | none => 0) ++ leBytes 1024 0 ++
  places 2048 4 (fun i => (SMap.getD c.v i 0).toNat) ++
  (List.range 256).flatMap (fun i => match c.secs[i]? with | some x => c.sbTag x | none => leBytes 32 0) ++
  (List.range 256).flatMap (fun i => match c.secs[i]? with
    | some x => places 128 1 (fun o => (SMap.getD c.sbuf (x.1 + o) 0).toNat)
    | none => leBytes 128 0)

/-- The accumulators in ACCMAP, packed. -/
def Ctx.accBytes (c : Ctx) : List Byte := c.accMap.flatMap fun a => places 4096 4 fun i => (SMap.getD c.acc (a * 4096 + i) 0).toNat

/-- R43: the poisoned words as they lie in an image, each with its bytes; for one that has no place of its own, the PC. -/
def Ctx.badBytes (c : Ctx) : List (Nat × Nat) :=
  (if c.upset then [(0, 8)] else []) ++ c.bad.map fun o =>
    if o < 0x80000 then (o, if o < 0x200 then 8 else 4)
    else (0xD000 + 16384 * ((c.accMap.filter (· < (o - 0x80000) / 16384)).length) + (o - 0x80000) % 16384, 4)

/-- The trailer (R309). -/
def trailer (kobj : Nat → Nat) (pobj : List Nat) : List Byte :=
  places 16 2 kobj ++ places 32 2 (fun i => pobj.getD i 0xFFFF) ++ leBytes 160 0

/-- The address of a save-area slot (R113). -/
def State.saveAddr (s : State) (p n : Nat) : Word := (s.part p).savebase + word (n * 0x70000)

/-- The addresses of an image whose objects it refers to beside the installers of its rules (R309): ETB, TVEC, the frames' return
PCs, and, of a context that is no keeper, its PC. -/
def Ctx.refAddrs (c : Ctx) (keeper : Bool) : List Word :=
  (if keeper then [] else [c.pc]) ++ [c.etb] ++ (if c.tvec = 0 then [] else [c.tvec]) ++
    (List.range c.depth).filterMap fun i => (SMap.get? c.calls i).map (·.1)
/-- R309: the objects, LIVE or under forced unload, that the trailer of an image lists: the installers of its rules, then the others
that it names. -/
def State.refsOf (s : State) (p : Nat) (c : Ctx) (keeper : Bool) : List Nat :=
  let k := ((c.k.map (·.2.obj)).filter (· < 256)).eraseDups
  k ++ ((((c.refAddrs keeper).filterMap (s.objRef p)).eraseDups).filter fun i => i < 256 && !k.contains i).take 32
/-- R218: A set by the looks at the object table that find them. -/
def State.readRefs (s : State) (p : Nat) (c : Ctx) (keeper : Bool) : State :=
  (c.refAddrs keeper).foldl (fun s a => s.readObjs p (s.objRef p a)) s
/-- POBJ: the references that the image's slot has taken, without one for each installer that KOBJ lists. -/
def pobjOf (objs : List Nat) (k : SMap Rule) : List Nat := k.foldl (fun l r => l.erase r.2.obj) objs

/-- An image written to slot `n` of a partition's save area, with its trailer, and the poison of its words; the lane slices of the context `key`, with their
poison, after the accumulators, and after those OVF (log entry 32). -/
def State.writeImage (s : State) (p n key : Nat) (c : Ctx) (pobj : List Nat) : Except Tr State := do
  let a := s.saveAddr p n
  let s1 ← s.gvWrite p a c.imageBase true
  let s2 ← s1.gvWrite p (a + 0xD000) c.accBytes true
  let lx := a + word (0xD000 + 16384 * c.accMap.length)
  let s3 ← if c.lxu then
      (s2.gvWrite p lx ((List.range 131072).map fun i => Mem.read s.mem (lxKey key 0 i)) true).map fun s =>
        s.poisonOut p (lxKey key 0 0) lx 131072
    else .ok s2
  let s4 ← if c.accMap = [] then .ok s3 else s3.gvWrite p (a + 0x6E000) (leBytes 8 c.ovf.toNat) true
  let s5 := s4.gvPoison p a c.badBytes
  s5.gvWrite p (a + 0x6F000) (trailer (fun i => match SMap.get? c.k i with | some r => r.obj | none => 0xFFFF) pobj) true

/-- R113: an image whose reserved bytes are not all zero, or a rule record that fails; the place of s0, a call depth over 16 and a
binding outside its limits count as reserved bytes do (log entry 43). -/
def imageBad (b : List Byte) : Bool :=
  slice b 0x8 8 / 2 ^ 54 != 0 || slice b 0x88 8 / 32 != 0 || slice b 0x90 112 != 0 || slice b 0x100 8 != 0 || slice b 0x2C0 64 != 0 ||
  slice b 0xC00 1024 != 0 || 16 < slice b 0x8 8 / 2 ^ 48 % 32 ||
  (List.range 16).any (fun i => slice b (0x240 + 8 * i) 8 / 2 ^ 34 != 0 || ruleBad (slice b (0x600 + 64 * i) 64) ||
    bindingBad (slice b (0x400 + 32 * i) 32)) ||
  (List.range 8).any (fun i => 4 ≤ slice b (0xA1C + 32 * i) 4) ||
  (List.range 32).any (fun i => slice b (0xB00 + 8 * i) 8 / 2 ^ 44 != 0) ||
  (List.range 256).any (fun i => slice b (0x3000 + 32 * i) 8 / 2 % 4 != 0 || slice b (0x3018 + 32 * i) 8 != 0)

/-- A table of the nonzero places. -/
def tableOf {β : Type} (n : Nat) (f : Nat → Option β) : SMap β := (List.range n).filterMap fun i => (f i).map fun x => (i, x)

/-- The registers of an image: what R112 lays out, on top of a context that holds the rest. `kobj` are the objects of the
trailer, `acc` the bytes of the accumulators. -/
def Ctx.ofImage (c : Ctx) (b acc : List Byte) (kobj : Nat → Nat) (side : SaveSlot) : Ctx :=
  let st := slice b 8 8
  let w (o : Nat) := word (slice b o 8)
  let accs := (List.range 16).filter fun a => bit st (16 + a)
  let secs := (List.range 256).filterMap fun i =>
    let t := slice b (0x3000 + 32 * i) 8
    if t % 2 = 1 then some (i, t / 128 * 128, t / 8 % 16, slice b (0x3008 + 32 * i) 16) else none
  { c with
    pc := w 0, pred := BitVec.ofNat 12 st, th := bit st 12, ph := bit st 13, direct := bit st 14, lxu := bit st 15,
    depth := bits st 52 48, async := if bit st 53 then side.async else [],
    lc := tableOf 4 fun i => some (BitVec.ofNat 32 (slice b (0x10 + 4 * i) 4)),
    etb := w 0x20, ptb := w 0x28, ltb := w 0x30, taskR := w 0x38, stamp := w 0x40, fpc := w 0x48 &&& 0x1F07, fps := w 0x50 &&& 0x1F, tcause := w 0x58 &&& 0xFFF, tpc := w 0x60,
    tval := w 0x68, tinfo := w 0x70, tvec := w 0x78, tsave := w 0x80, tsavd := slice b 0x88 1,
    s := tableOf 32 fun i => if i = 0 then none else some (w (0x100 + 8 * i)),
    h := tableOf 16 fun i => some (BitVec.ofNat 32 (slice b (0x200 + 4 * i) 4)),
    calls := tableOf 16 fun i => some (w (0x300 + 16 * i), w (0x308 + 16 * i)),
    f := tableOf 16 fun i => bindingOf (slice b (0x400 + 32 * i) 32),
    k := tableOf 16 fun i => ruleOf (slice b (0x600 + 64 * i) 64) (slice b (0x240 + 8 * i) 8) (kobj i)
      (SMap.getD side.homes i 0),
    mx := (List.range 8).filterMap fun i =>
      if slice b (0xA1C + 32 * i) 4 / 2 % 2 = 1 then side.mx[i]?.map fun j =>
        { j with pc := w (0xA10 + 32 * i), done := slice b (0xA18 + 32 * i) 4 } else none,
    cbuf := (List.range 32).filterMap fun i =>
      let x := slice b (0xB00 + 8 * i) 8
      if x = 0 then none else some (BitVec.ofNat 32 x, x / 2 ^ 32),
    v := tableOf 2048 fun i => some (BitVec.ofNat 32 (slice b (0x1000 + 4 * i) 4)),
    secs := secs.map fun x => (x.2.1, x.2.2.1), sbits := side.sbits,
    sbuf := secs.foldl (fun m x => (List.range 128).foldl (fun m o =>
      if bit x.2.2.2 o then SMap.put m (x.2.1 + o) (b.getD (0x5000 + x.1 * 128 + o) 0) else m) m) [],
    acc := (List.range accs.length).flatMap fun j => tableOf 4096 (fun i =>
      some (BitVec.ofNat 32 (slice acc (j * 16384 + 4 * i) 4))) |>.map fun x => (accs.getD j 0 * 4096 + x.1, x.2),
    installs := side.installs,
    region := side.region, exits := [], patch := [], stall := none, passed := none, ending := side.ending }

/-- What the module keeps beside the image of a context that it saves. -/
def Ctx.side (c : Ctx) (task keeper : Option Nat) (held : Bool) (objs : List Nat) : SaveSlot :=
  { part := c.part, task := task, keeper := keeper, held := held, mx := c.mx, region := c.region, async := c.async, objs := objs,
    installs := c.installs, homes := c.k.map fun x => (x.1, x.2.home), sbits := c.sbits, ending := c.ending }
/-- What is kept of a slot that holds nothing. -/
def SaveSlot.empty (p : Nat) : SaveSlot := Ctx.side { Ctx.empty with part := p } none none false []

/-! Continuation records (R96). -/

/-- The registers that LIVE names, rising. -/
def liveRegs (live : Nat) : List Nat := (List.range 32).filter (bit live)

/-- The 256 bytes of a record. -/
def Ctx.record (c : Ctx) (t : Task) (pc : Word) (live wake fut : Nat) (wval dt : Word) : List Byte :=
  leBytes 8 pc.toNat ++ leBytes 2 c.pred.toNat ++ leBytes 1 c.prio ++ leBytes 1 c.part ++ leBytes 1 wake ++
  leBytes 1 (b2n c.ph + 2 * b2n t.gang.isSome) ++ leBytes 2 t.group ++ places 4 4 (fun i => (c.loopc i).toNat) ++
  leBytes 8 c.etb.toNat ++ leBytes 8 c.ptb.toNat ++ leBytes 8 c.ltb.toNat ++ leBytes 8 c.taskR.toNat ++
  leBytes 4 live ++ leBytes 4 0 ++ leBytes 8 wval.toNat ++ leBytes 8 fut ++ leBytes 8 c.stamp.toNat ++ leBytes 8 c.fpc.toNat ++
  leBytes 8 c.fps.toNat ++ leBytes 8 dt.toNat ++ leBytes 8 0 ++
  places 16 8 (fun i => match (liveRegs live)[i]? with | some n => (c.reg (BitVec.ofNat 5 n)).toNat | none => 0)

/-- R97: a record that breaks R96, as the cause it gives. -/
def recordBad (b : List Byte) : Option Exc :=
  if slice b 0x44 4 != 0 || slice b 0x78 8 != 0 || 3 < slice b 0x0C 1 || 4 ≤ slice b 0x0D 1 || slice b 0x08 2 / 2 ^ 12 != 0 then
    some (exc 0x01)
  else if slice b 0x40 4 % 2 = 1 || 16 < popcount 32 (slice b 0x40 4) then some (exc 0x0B (slice b 0x40 4))
  else none

end Sys2Proof.Machine
end

