-- ==== Sys2Proof/Machine/Sched.lean ====
section
/-! DEFINITION. What binds tiles, streams, rules, futures and tasks together: commits, readiness (R78, R81), futures (R363,
R365, R469), the end of a rule (R184), cancellation (R156), and regions (R114 to R118). An operation that sets others off
answers them as a list of `Work`, which `State.work` carries out. -/

namespace Sys2Proof.Machine
open Sys2Proof

/-- What an operation sets off. -/
inductive Work where
  /-- An agent resolves or fails a future (R469). -/
  | resolve (p : Nat) (a : Word) (failed : Bool) (v : Nat)
  /-- A task is cancelled; its COMPL fails with the cause; `count` says that its LAUNCH fails too (R95). -/
  | cancel (t cause : Nat) (count : Bool)
  /-- A live count falls by one (R78). -/
  | dec (t : Nat)
  /-- A task may have become READY (R81). -/
  | ready (t : Nat)
  /-- A rule reached the end of its stream (R184). -/
  | ruleEnd (own : RuleOwner) (k : Nat)
  deriving DecidableEq, Repr

/-! Tensors (R220). -/

/-- The element width in bits of an ETYPE; 0 where reserved. -/
def etypeBits : Nat → Nat
  | 0 | 4 => 2
  | 1 | 5 => 4
  | 2 | 6 => 6
  | 3 | 7 | 8 | 9 => 8
  | 10 | 11 => 16
  | 12 | 13 => 32
  | _ => 0

/-- A tensor table entry. -/
structure Tensor where
  addr : Word
  v : Bool
  isOpen : Bool
  eosv : Bool
  rank : Nat
  oax : Nat
  etype : Nat
  tsh : List Nat
  ext : List Nat
  ntt : Nat
  ttab : Word
  sext : Nat
  stored : Nat
  eosi : Nat
  sstamp : Word
  bad : Bool
  deriving DecidableEq, Repr

/-- The fields of an entry's 128 bytes. `bad` says that it breaks R220: the tile-size rule or a reserved byte, or one of the limits
for which R220 names no cause (log entry 43). -/
def tensorOf (addr : Word) (b : List Byte) : Tensor :=
  let f := slice b 0 1
  let rank := slice b 1 1
  let oax := slice b 2 1
  let et := slice b 3 1
  let tsh := (List.range 5).map fun i => slice b (4 + i) 1
  let ext := (List.range 5).map fun i => slice b (0x10 + 4 * i) 4
  let open_ := bit f 1
  let sum := (tsh.take rank).foldl (· + ·) 0
  let bad := 8 ≤ f || rank = 0 || 5 < rank || (open_ && rank ≤ oax) || (!open_ && oax != 0) || 13 < et ||
    (List.range 5).any (fun i => (rank ≤ i && (tsh.getD i 0 != 0 || ext.getD i 0 != 0)) ||
      (i < rank && (if open_ && i = oax then ext.getD i 0 != 0 else ext.getD i 0 = 0))) ||
    slice b 9 7 != 0 || slice b 0x50 48 != 0 || slice b 0x28 8 % 8 != 0 || slice b 0x3E 2 != 0 || slice b 0x46 2 != 0 ||
    19 < sum || 2 ^ sum * etypeBits et != 2 ^ 19 || (if open_ then slice b 0x30 8 = 0 else slice b 0x30 8 != 0)
  { addr := addr, v := bit f 0, isOpen := open_, eosv := bit f 2, rank := rank, oax := oax, etype := et, tsh := tsh, ext := ext,
    ntt := slice b 0x24 4, ttab := word (slice b 0x28 8), sext := slice b 0x30 8, stored := slice b 0x38 6, eosi := slice b 0x40 6,
    sstamp := word (slice b 0x48 8), bad := bad }
def State.tensorAddr (s : State) (p tid : Nat) : Word := (s.part p).ttbase + word (128 * tid)
/-- The entry as one snapshot. -/
def State.tensor (s : State) (p tid : Nat) : Option Tensor :=
  match s.gvRead p (s.tensorAddr p tid) 128 with
  | .ok (_, b) => some (tensorOf (s.tensorAddr p tid) b)
  | .error _ => none
/-- R164: the bytes of one slice. -/
def Tensor.sliceBytes (t : Tensor) : Nat :=
  (t.sext * ((List.range t.rank).foldl (fun n i => if i = t.oax then n else n * t.ext.getD i 0) 1) * etypeBits t.etype + 7) / 8

/-! Tiles and tasks. -/

/-- R92: the instance whose record carries the live count of a gang. -/
def Task.lead (t : Task) : Bool := match t.gang with | some (_, i, _) => i = 0 | none => true
/-- The tasks that wait and declare a tile, once for each declaration. -/
def State.declarers (s : State) (h : BitVec 32) : List Nat :=
  s.tasks.flatMap fun x => if x.2.st = .waiting then (x.2.ins.filter fun y => sameTile y.2 h).map fun _ => x.1 else []

/-- R147: ALLOC becomes COMMITTED, and the tasks that declared the tile count down. -/
def State.commitTile (s : State) (h : BitVec 32) : State × List Work :=
  match s.tileOf h with
  | none => (s, [])
  | some tk =>
    if (s.tile tk).st != .alloc then (s, [])
    else (s.modTile tk fun t => { t with st := .committed, commitAt := s.dtime.toNat },
      (s.declarers h).filterMap fun t => if (s.task t).lead then some (.dec t) else none)

/-- R155: an uncommitted free; the tasks that declared the tile are cancelled. -/
def State.freeUncommitted (s : State) (h : BitVec 32) : State × List Work :=
  match s.tileOf h with
  | none => (s, [])
  | some tk => ((s.modTile tk fun t => { t with st := .free, dying := true }).settle tk,
      (s.declarers h).map fun t => .cancel t 0x5F true)

/-- Two steps one after the other, their work gathered. -/
def andThen (x : State × List Work) (f : State → State × List Work) : State × List Work :=
  let y := f x.1
  (y.1, x.2 ++ y.2)
/-- A step for each of a list. -/
def forEach {α : Type} (l : List α) (s : State) (f : State → α → State × List Work) : State × List Work :=
  l.foldl (fun x a => andThen x fun s' => f s' a) (s, [])

/-! Readiness (R72, R81). -/

/-- The home of a task: a cluster, or a die. -/
inductive Home where
  | cluster (c : Nat)
  | die (d : Nat)
  | any
  deriving DecidableEq, Repr

def State.homeOf (s : State) (t : Task) : Home :=
  let pools := t.ins.filterMap fun x => (s.tileOf x.2).map (· / 8192)
  match pools.find? (· < 576) with
  | some c => .cluster (clusterOf c)
  | none => match pools.head? with
    | some d => .die (d - 576)
    | none => .any
def inHome (h : Home) (pool : Nat) : Bool :=
  match h with
  | .cluster c => (pool < 576 && clusterOf pool = c) || pool = 576 + c / 12
  | .die d => pool = 576 + d
  | .any => true
def Home.dieOr (h : Home) (d : Nat) : Nat :=
  match h with
  | .cluster c => c / 12
  | .die x => x
  | .any => d
/-- A page of a partition is present and not DISCARDED. -/
def State.pagePresent (s : State) (p : Nat) (a : Word) : Bool :=
  match s.walkFrom p a [(39, 13), (30, 9), (21, 9), (16, 5)] (s.part p).ptroot with
  | .ok l => bits l.ent 7 6 != 1
  | .error e => e.cause != 0x20
/-- R117, R72: the page of a requeued task is present and not DISCARDED. -/
def State.pageBack (s : State) (t : Task) : Bool := t.page.all (s.pagePresent t.part)
/-- Every declared input is committed and lies, unmoving, in the home, or in the die pool that R81 moves it to. -/
def State.inputsHome (s : State) (t : Task) : Bool :=
  t.ins.all fun x => match s.tileOf x.2 with
    | none => true
    | some tk => (s.tile tk).st != .alloc && !(s.tile tk).moving && inHome (s.homeOf t) (tk / 8192)
/-- The records of a task's gang, or its own. -/
def State.instances (s : State) (t : Nat) : List Nat :=
  match (s.task t).gang with
  | some (g, _, _) => (((SMap.get? s.gangs g).map (·.tasks)).getD [t]).filter fun i => match (s.task i).gang with
    | some (g', _, _) => g' = g
    | none => false
  | none => [t]

/-- The member core of a gang's instance (R92). -/
def State.memberCore (s : State) (x : Task) : Option Nat :=
  match x.gang with
  | some (g, i, _) => ((SMap.get? s.gangs g).map (·.cores)).bind (·[i]?)
  | none => none
/-- R81: the record of a task goes to another die, and the names that it has borne lead there. The record that it leaves is free. -/
def State.transfer (s : State) (t die : Nat) : State × Nat :=
  match s.pick (s.freeRecords die) with
  | (none, _) => (s, t)
  | (some u, s1) =>
    let x := s1.task t
    let as_ (w : Holder) : Holder := if w = .task t then .task u else w
    let s2 := (s1.setTask t { Task.empty with gen := x.gen, part := x.part, die := x.die }).setTask u
      { x with gen := (s1.task u).gen + 1, die := die }
    ({ s2 with
        holds := s2.holds.map fun y => (as_ y.1, y.2)
        tiles := s2.tiles.map fun y => if y.2.owner = .task t then (y.1, { y.2 with owner := .task u, ownerW := ownerWord 0 u }) else y
        jobs := s2.jobs.map fun y => if y.2.task = t then (y.1, { y.2 with task := u }) else y
        qs := s2.qs.map fun y => match y.2.root with
          | some (r, g) => if r = t && g = x.gen then (y.1, { y.2 with root := some (u, (s1.task u).gen + 1) }) else y
          | none => y
        names := ((s1.taskName t).toNat, u) :: s2.names.map fun y => if y.2 = t then (y.1, u) else y }, u)
/-- R72, R81: WAITING becomes READY once nothing keeps it: a task whose home is on another die needs a record there. A gang's
instances become READY as one entry, on the die of the lowest member; one that a region abort has requeued goes back alone, to
its own core (log entry 42). -/
def State.tryReady (s : State) (t : Nat) : State :=
  let x := s.task t
  let alone : Bool := x.page.isSome || x.gang.isNone
  let die := match (if alone then s.memberCore x else (s.gangs.find? fun g => g.2.tasks.contains t).bind (·.2.cores.head?)) with
    | some c => dieOf c
    | none => (s.homeOf x).dieOr x.die
  if x.st != .waiting || x.live != 0 || !(alone || x.lead) || !s.pageBack x || !s.inputsHome x ||
      !(x.gang.isSome || die = x.die || s.recordFree x.part die) then s
  else
    let up := if alone then [t] else (s.instances t).filter fun i => (s.task i).st = .waiting && (s.task i).page.isNone
    let s1 := up.foldl (fun s i => s.modTask i fun y => { y with st := .ready, page := none }) s
    match x.gang with
    | some (g, _, _) => s1.enqueue die x.part x.prio (if alone then .task t else .gang g)
    | none =>
      let (s2, u) := if die = x.die then (s1, t) else s1.transfer t die
      s2.enqueue die x.part x.prio (.task u)

/-! Queue control blocks (R46), where a future or a task acts on a queue. -/

def State.qcb (s : State) (q : Nat) : Nat := s.mgmt.qtbase.toNat + 256 * q
def State.qcbField (s : State) (q off n : Nat) : Nat := Mem.readN s.mem (s.qcb q + off) n
def State.setQcb (s : State) (q off n v : Nat) : State := { s with mem := Mem.writeN s.mem (s.qcb q + off) n v }
/-- QSTAT STATE. -/
def State.qstate (s : State) (q : Nat) : Nat := s.qcbField q 0x88 1 % 8
def State.owners (s : State) (q : Nat) : List Nat := [s.qcbField q 0x11 1, s.qcbField q 0x12 1].filter (· < 8)
/-- R52. -/
def State.queueFault (s : State) (q cause : Nat) (ts : Word) : State :=
  let i := s.qcbField q 0x80 8
  let s1 := (s.setQcb q 0x88 8 (i % 2 ^ 32 * 2 ^ 32 + cause * 256 + 4)).setQcb q 0x90 8 0
  let s2 := s1.setEng q { s1.eng q with taken := none, root := none }
  ((s2.owners q).foldl (fun s p => s.partEvent p 0 cause 6 q (word i) ts) s2).devEvent cause 6 (s.qcbField q 0x11 1) q (word i) ts
/-- The engine goes on past the packet at RIDX (R49, R53); a queue that has been disabled since stays so. -/
def State.queueNext (s : State) (q : Nat) : State :=
  let s1 := ((s.setQcb q 0x80 8 (s.qcbField q 0x80 8 + 1)).setQcb q 0x88 1 (if s.qstate q = 0 then 0 else 1)).setQcb q 0x90 8 0
  s1.setEng q { s1.eng q with taken := none, root := none }
/-- An accepted packet is complete. -/
def State.packetDone (s : State) (q i : Nat) : State :=
  s.setEng q { s.eng q with open_ := (s.eng q).open_.filter (· != i) }

/-! Futures (R363 to R365, R469). -/

/-- A GV address lies on a page of host memory. -/
def State.onHost (s : State) (p : Nat) (a : Word) : Bool :=
  gvForm a && match s.walkFrom p a [(39, 13), (30, 9), (21, 9), (16, 5)] (s.part p).ptroot with
    | .ok l => bit l.ent 63
    | .error e => e.cause = 0x2B
/-- The key of a future's word; a queue of no partition names it by device physical address (log entry 15). -/
def State.futKey (s : State) (p : Nat) (a : Word) : Except Exc (Nat × State) :=
  if a.toNat % 8 != 0 then .error (exc 0x22 a.toNat)
  else if 8 ≤ p then if inHbm a.toNat then .ok (a.toNat, s) else .error (exc 0x20 a.toNat)
  else if s.onHost p a then .error (exc 0x2C a.toNat)
  else match s.translate p a .wr with
    | .ok k _ _ l => .ok (k, s.markUsed l .wr)
    | t => .error t.exc

/-- R97, R78, R80, R57: what a resolution or failure does to one waiter. A continuation becomes READY at the PRIO of its record; its
waking stalls while the record's page is under migration (R226), and one whose write fails goes on without it (log entry 30). A task is the one that bears the name under which it was
registered, or has borne it: it counts down, or is cancelled whatever its state. -/
def State.wake (s : State) (failed : Bool) (v : Nat) (w : Waiter) : State × List Work :=
  match w with
  | .record t a =>
    let x := s.task t
    if x.st != .suspended || x.resume != .record a then (s, [])
    else if s.gvMoving x.part a 256 then ({ s with held := s.held ++ [.wake failed v w] }, [])
    else
      let s1 := match s.gvWrite x.part (a + 0x0C) [if failed then 2 else 1] with
        | .ok s' => (s'.gvWrite x.part (a + 0x48) (leBytes 8 v)).toOption.getD s'
        | .error _ => s
      let (s1, lvl) := match s1.gvRead x.part (a + 0x0A) 1 with
        | .ok (s', b) => (s', leNat b % 8)
        | .error _ => (s1, x.prio)
      ((s1.modTask t fun y => { y with st := .ready }).enqueue x.die x.part lvl (.task t), [])
  | .task name => (s, (s.recordNamed name).toList.map fun t => if failed then .cancel t 0x49 true else .dec t)
  | .queue q => (if s.qstate q != 2 then s else if failed then s.queueFault q 0x49 ((s.eng q).ts) else s.queueNext q, [])

/-- R365: a future resolved with a value or failed with a cause, in one step at its home slice. -/
def State.futSet (s : State) (p : Nat) (a : Word) (failed : Bool) (v : Nat) : Except Exc (State × List Work) :=
  match s.futKey p a with
  | .error e => .error e
  | .ok (k, s1) =>
    if s.poisoned k 8 then .error (exc 0x5B a.toNat)
    else match Mem.readN s.mem k 8 % 4 with
    | 3 => .error (exc 0x4C a.toNat)
    | 0 =>
      let val := if failed then v % 256 else v % 2 ^ 48
      let s2 := { s1 with mem := Mem.writeN s1.mem k 8 (val * 2 ^ 16 + (if failed then 2 else 1)), futs := SMap.del s1.futs k }
      .ok (forEach (SMap.getD s.futs k []) s2 fun s w => s.wake failed val w)
    | _ => .error (exc 0x48 a.toNat)

/-- R226: the word of a future is on a page under migration. -/
def State.futMoving (s : State) (p : Nat) (a : Word) : Bool := p < 8 && a.toNat % 8 = 0 && s.gvMoving p a 8
/-- R469: an agent's resolution. A future that is not pending reports nothing here; one that cannot be reached is an event; one on a
page under migration waits for its end (R226). -/
def State.agentSet (s : State) (p : Nat) (a : Word) (failed : Bool) (v : Nat) : State × List Work :=
  if a = 0 then (s, [])
  else if s.futMoving p a then ({ s with held := s.held ++ [.resolve p a failed v] }, [])
  else match s.futSet p a failed v with
    | .ok r => r
    | .error e =>
      if e.cause = 0x48 then (s, [])
      else if 8 ≤ p then (s.devEventAny e.cause.toNat 0 a, [])
      else (s.partEventAny p 0 e.cause.toNat 0 a, [])

/-! Footprint domains (R82, R83). -/

/-- A member ends: its edges are released. -/
def State.memberEnd (s : State) (m : Option Nat) : State × List Work :=
  match m with
  | none => (s, [])
  | some id =>
    let hit := s.members.filter fun x => x.from_.contains id
    ({ s with members := (s.members.filter (·.id != id)).map fun x => { x with from_ := x.from_.filter (· != id) } },
     hit.flatMap fun x => s.tasks.filterMap fun y => if y.2.memb = some x.id && y.2.live? then some (.dec y.1) else none)
def overlaps (x y : Region) : Bool := x.base < y.base + y.len && y.base < x.base + x.len && (x.w || y.w)
/-- A member enters a domain with its regions; its number and how many edges it received. -/
def State.memberEnter (s : State) (dom : Nat) (rs : List Region) : State × Option Nat × Nat :=
  if rs = [] then (s, none, 0)
  else
    let from_ := (s.members.filter fun y => y.dom = dom && rs.any fun a => y.regions.any fun b => overlaps a b).map (·.id)
    ({ s with members := s.members ++ [⟨s.nextId, dom, rs, from_⟩], nextId := s.nextId + 1 }, some s.nextId, from_.length)

/-! Launches (R95). -/

/-- A task of a launch has ended or been cancelled. -/
def State.launchLess (s : State) (l : Option Nat) (cause : Option Nat) : State × List Work :=
  match l with
  | none => (s, [])
  | some id =>
    match SMap.get? s.launches id with
    | none => (s, [])
    | some x =>
      let f := x.failed.or (cause.map (BitVec.ofNat 8))
      if x.left ≤ 1 then
        (({ s with launches := SMap.del s.launches id }).packetDone x.q x.idx,
          [.resolve x.part x.compl f.isSome (match f with | some c => c.toNat | none => 0)])
      else ({ s with launches := SMap.put s.launches id { x with left := x.left - 1, failed := f } }, [])

/-! Rules (R172 to R189). -/

/-- The slot of the save area that holds a task's image. -/
def State.savedOf (s : State) (t : Nat) : Option Nat := (s.saves.find? fun x => x.2.task = some t).map (·.1)
/-- A save slot's partition and number. -/
def saveKey (p n : Nat) : Nat := p * 2 ^ 32 + n
/-- A page of a saved image is under migration (R226). -/
def State.imageMoving (s : State) (sk : Nat) : Bool := s.gvMoving (sk / 2 ^ 32) (s.saveAddr (sk / 2 ^ 32) (sk % 2 ^ 32)) 0x70000
/-- `n` bytes at an offset of a saved image; zeros where its page is gone. -/
def State.savedBytes (s : State) (sk off n : Nat) : List Byte :=
  match s.gvRead (sk / 2 ^ 32) (s.saveAddr (sk / 2 ^ 32) (sk % 2 ^ 32) + word off) n with
  | .ok (_, b) => b
  | .error _ => List.replicate n 0
/-- The rules in a saved image. -/
def State.savedRules (s : State) (sk : Nat) : SMap Rule :=
  let b := s.savedBytes sk 0x600 1024
  let sub := s.savedBytes sk 0x240 128
  let tr := s.savedBytes sk 0x6F000 32
  let side := (SMap.get? s.saves sk).getD (SaveSlot.empty 0)
  tableOf 16 fun i => ruleOf (slice b (64 * i) 64) (slice sub (8 * i) 8) (slice tr (2 * i) 2) (SMap.getD side.homes i 0)
/-- The rule records of a saved image replaced, with SUBST and RULEMAP. -/
def State.saveRules (s : State) (sk : Nat) (m : SMap Rule) : State :=
  let p := sk / 2 ^ 32
  let put (s : State) (off : Nat) (bs : List Byte) : State :=
    (s.gvWrite p (s.saveAddr p (sk % 2 ^ 32) + word off) bs).toOption.getD s
  put (put (put s 0x600 (places 16 64 fun i => match SMap.get? m i with | some r => ruleNat r | none => 0))
    0x240 (places 16 8 fun i => match SMap.get? m i with | some r => r.substNat | none => 0))
    0x0C (leBytes 2 ((SMap.keys m).foldl (fun n k => n + 2 ^ k) 0))
/-- The slot in which a task's context is; one in LOAD is still in its image. -/
def State.heldIn (s : State) (t : Nat) : Option Nat := (s.slotOfTask t).filter fun k => (s.ctx k).slot != .load
/-- A context that is resident in RUN or RES. -/
def Ctx.inSlot (c : Ctx) : Bool := c.slot = .run || c.slot = .res
/-- A keeper is in a slot; one in LOAD is still in its image. -/
def State.keeperHere (s : State) (k : Nat) : Bool := (s.keeper k).at_.any fun key => (s.ctx key).slot != .load
/-- The slot of the save area that holds an owner's rules. -/
def State.rulesIn (s : State) (o : RuleOwner) : Option Nat :=
  match o with
  | .keeper k => if s.keeperHere k || !(SMap.get? s.keepers k).isSome then none else some (saveKey (s.keeper k).part (s.keeper k).save)
  | .task t => if (s.heldIn t).isSome then none else s.savedOf t
/-- The rules of an owner: in its context or its keeper, or in its saved image. -/
def State.rulesOf (s : State) (o : RuleOwner) : SMap Rule :=
  match s.rulesIn o, o with
  | some sk, _ => s.savedRules sk
  | none, .keeper k => (s.keeper k).k
  | none, .task t => ((s.heldIn t).map fun key => (s.ctx key).k).getD []
def State.setRules (s : State) (o : RuleOwner) (m : SMap Rule) : State :=
  match s.rulesIn o, o with
  | some sk, _ => s.saveRules sk m
  | none, .keeper k => s.setKeeper k { s.keeper k with k := m }
  | none, .task t => match s.heldIn t with
    | some key => s.modCtx key fun c => { c with k := m }
    | none => s
/-- Everyone who owns rules in a partition. -/
def State.ruleOwners (s : State) (p : Nat) : List RuleOwner :=
  (s.ctxs.filterMap fun x => if x.2.slot != .free && x.2.slot != .load && x.2.keeper.isNone && x.2.part = p && x.2.k != []
    then some (.task x.2.task) else none) ++
  (s.saves.filterMap fun x => if x.2.part = p then (x.2.task.filter fun t => (s.heldIn t).isNone).map .task else none) ++
  (s.keepers.filterMap fun x => if x.2.part = p then some (.keeper x.1) else none)
def Rule.reads (r : Rule) (tid : Nat) : Bool := r.tida.toNat = tid || r.tidb.toNat = tid
/-- R184 step 1, R177 condition 2: the lowest EOSX of a rule's inputs. -/
def State.ruleEos (s : State) (p : Nat) (r : Rule) : Option Nat :=
  ([r.tida, r.tidb].filterMap fun t => if t = 0xFFFF then none else (s.stream p t.toNat).eosx).foldl
    (fun m x => some (match m with | some y => min y x | none => x)) none

/-- The input slices of a rule, one entry for each operand. -/
def State.inputTiles (s : State) (p : Nat) (r : Rule) : List (BitVec 32) :=
  ([r.tida, r.tidb].filter (· != 0xFFFF)).filterMap fun t => SMap.get? (s.stream p t.toNat).slices r.cur
/-- R165: BASE. -/
def State.streamBase (s : State) (p tid : Nat) : Nat :=
  let st := s.stream p tid
  ((st.slices.find? fun x => (s.tileOf x.2).isSome).map (·.1)).getD st.next
/-- R166, first part: whether slice `k` may be committed to a stream. -/
def State.sliceCheck (s : State) (p tid k : Nat) (tinfo : Nat) : Option Exc :=
  let st := s.stream p tid
  if st.eosx.isSome then some (exc 0x3F 0 tinfo)
  else if k != st.next then some (exc 0x3E st.next tinfo)
  else none
/-- Who takes a hold on slice `k` of a stream when it commits (R176, R138). -/
def State.readersOf (s : State) (p tid k : Nat) : List Holder :=
  (s.ruleOwners p).flatMap (fun o => (s.rulesOf o).filterMap fun x =>
    if x.2.reads tid && x.2.cur ≤ k then some (.rule o x.1) else none) ++
  s.subs.filterMap fun x => if !x.2.loader && x.2.part = p && x.2.src = tid && x.2.pos ≤ k then some (.storer x.1) else none
/-- R138: HOLD of the tile has no room for the readers of slice `k`. -/
def State.holdsFault (s : State) (p tid k : Nat) (h : BitVec 32) : Option Exc :=
  match s.tileOf h with
  | none => none
  | some tk =>
    if 65535 < (s.tile tk).hold + ((s.readersOf p tid k).filter fun w => !s.holdsTile w h).length then
      some (exc 0x39 0xFFFF (tinfoTile h)) else none
/-- R166, R176: slice `k` committed; every reader takes its hold. -/
def State.commitSlice (s : State) (p tid k : Nat) (h : BitVec 32) : State × List Work :=
  let s1 := match s.tileOf h with
    | some tk => s.modTile tk fun t => { t with slice := true, strm := tid, slidx := k }
    | none => s
  let st := s1.stream p tid
  let s2 := s1.setStream p tid { st with next := k + 1, slices := SMap.put st.slices k h, used := true }
  ((s2.readersOf p tid k).foldl (fun s w => (s.takeHold w h).getD s) s2).commitTile h
/-- End-of-stream committed (R166), and the rules that stand at it. -/
def State.commitEos (s : State) (p tid : Nat) : State × List Work :=
  let st := s.stream p tid
  if st.eosx.isSome then (s, [])
  else (s.setStream p tid { st with eosx := some st.next, used := true },
    (s.ruleOwners p).flatMap fun o => (s.rulesOf o).filterMap fun x =>
      if x.2.reads tid && st.next ≤ x.2.cur then some (.ruleEnd o x.1) else none)

/-- The accumulators that a field instruction writes (R408, R409). -/
def fieldAccs (i : Instr) : List Nat :=
  match i with
  | .mmaq _ _ o => (List.range ((o.km1.toNat + 1) / (32 * 2 ^ o.gs.toNat))).map (o.d.toNat + ·)
  | .mma _ _ o | .mma3 _ _ o | .bsmm _ _ o | .gmm _ _ o => [o.d.toNat]
  | _ => []
/-- The accumulators that a rule carries (R424). -/
def Rule.accs (r : Rule) : List Nat :=
  if r.ckind != 1 then []
  else match decodeNat r.img with
    | .ok i => if fieldAccs i = [] then [r.carry.toNat % 16] else fieldAccs i
    | .error _ => [r.carry.toNat % 16]
/-- Two rules of one owner carry the same operand (R175). -/
def Rule.shares (x y : Rule) : Bool :=
  (x.ckind = 2 && y.ckind = 2 && sameTile x.carry y.carry) || x.accs.any y.accs.contains
/-- The slots of a carry chain, from a member on. -/
def chainSlots (m : SMap Rule) : Nat → List Nat → List Nat
  | 0, l => l
  | n + 1, l => chainSlots m n (l ++ SMap.keys (m.filter fun x =>
      !l.contains x.1 && l.any fun j => match SMap.get? m j with | some y => x.2.shares y | none => false))
/-- The other live members of a rule's carry chain (R175), lowest RANK first. -/
def State.chainOf (s : State) (o : RuleOwner) (k : Nat) : List (Nat × Rule) :=
  let m := s.rulesOf o
  (m.filter fun x => x.1 != k && (chainSlots m 16 [k]).contains x.1).foldl
    (fun l x => (l.filter fun y => y.2.rank < x.2.rank) ++ [x] ++ l.filter fun y => !(y.2.rank < x.2.rank)) []
def State.partOf (s : State) (o : RuleOwner) : Nat :=
  match o with
  | .task t => (s.task t).part
  | .keeper k => (s.keeper k).part

/-- R177 conditions 2 and 3. -/
def State.ruleReady (s : State) (o : RuleOwner) (k : Nat) (r : Rule) : Bool :=
  let p := s.partOf o
  [r.tida, r.tidb].all (fun t => t = 0xFFFF || r.cur < (s.stream p t.toNat).next) &&
  (match s.ruleEos p r with | some e => r.cur < e | none => true) &&
  (s.chainOf o k).all fun x => if x.2.rank < r.rank then r.cur < x.2.cur else r.cur ≤ x.2.cur

/-- R309: a slot of a save area taken, with a reference to each object that its trailer lists. -/
def State.keepSave (s : State) (sk : Nat) (x : SaveSlot) : State :=
  x.objs.foldl (fun s o => s.addRef x.part o true) { s with saves := SMap.put s.saves sk x }
/-- The objects that the trailer of an image lists; of one that is not written yet, those that it will list (R309). -/
def State.trailerObjs (s : State) (sk : Nat) (x : SaveSlot) : List Nat :=
  let a := s.saveAddr (sk / 2 ^ 32) (sk % 2 ^ 32) + 0x6F000
  if s.ctxs.any fun c => c.2.slot = .save && c.2.image = some sk then x.objs
  else match s.gvRead (sk / 2 ^ 32) a 96 with
    | .ok (_, b) => (((List.range 48).map fun i => slice b (2 * i) 2).filter (· < 256)).eraseDups
    | .error _ => x.objs
/-- The references that the trailer of an image lists are released; the read of the trailer sets A (R309, R218). -/
def State.dropRefs (s : State) (sk : Nat) : State :=
  match SMap.get? s.saves sk with
  | none => s
  | some x => (s.trailerObjs sk x).foldl (fun s o => s.addRef x.part o false)
      (s.markRead (sk / 2 ^ 32) (s.saveAddr (sk / 2 ^ 32) (sk % 2 ^ 32) + 0x6F000) 96)
/-- A slot of a save area released, and the references that its trailer lists (R309). -/
def State.freeSave (s : State) (sk : Nat) : State := { s.dropRefs sk with saves := SMap.del s.saves sk }

/-- A keeper's last rule has ended: its image and slots are freed (R188); one in a slot has released its references at its load. -/
def State.keeperGone (s : State) (o : RuleOwner) : State :=
  match o with
  | .task _ => s
  | .keeper k =>
    let x := s.keeper k
    if s.rulesOf o != [] then s
    else
      let sk := saveKey x.part x.save
      let s1 := if x.at_.any fun key => (s.ctx key).inSlot then s else s.dropRefs sk
      let s2 := match x.at_ with | some key => s1.setCtx key Ctx.empty | none => s1
      { s2 with
        keepers := SMap.del s2.keepers k, saves := SMap.del s2.saves sk
        pithead := s2.pithead.filter (·.ent != .keeper k), deques := s2.deques.map fun d => (d.1, d.2.filter (· != .keeper k)) }

/-- The tile is a slice of an input stream of the rule. -/
def State.sliceOf (s : State) (r : Rule) (h : BitVec 32) : Bool :=
  match s.tileOf h with
  | some tk => (s.tile tk).slice && r.reads (s.tile tk).strm
  | none => false
/-- The record of an owner's rules is in a saved image on a page under migration (R226). -/
def State.rulesMoving (s : State) (o : RuleOwner) : Bool := (s.rulesIn o).any s.imageMoving
/-- The tile that a handle names is on its way to another pool (R149). -/
def State.onMove (s : State) (h : BitVec 32) : Bool := (s.tileOf h).any fun tk => (s.tile tk).moving
/-- R149: the tile that the end of a rule frees, or the one that it commits, is on its way to another pool. -/
def State.ruleMoves (s : State) (r : Rule) : Bool := (r.rslt != 0 && s.onMove r.rslt) || (r.ckind = 2 && s.onMove r.carry)
/-- The object table, to which the end of a keeper's image returns its references, is under migration (R226). -/
def State.keeperMoves (s : State) (o : RuleOwner) : Bool := match o with | .keeper _ => s.objsMoving (s.partOf o) | .task _ => false
/-- R184: a rule ends; where its record, or for a keeper the object table, is on a page under migration (R226), or its
tile is on its way (R149), once that ends. The hold of a tile that is no slice, which a keeper took over from its task (R138), is
released ordinarily. -/
def State.endRule (s : State) (o : RuleOwner) (k : Nat) : State × List Work :=
  match SMap.get? (s.rulesOf o) k with
  | none => (s, [])
  | some r =>
    if s.rulesMoving o || s.ruleMoves r || s.keeperMoves o then ({ s with held := s.held ++ [.ruleEnd o k] }, []) else
    let p := s.partOf o
    let w := Holder.rule o k
    let ins := (s.heldBy w).filter fun h => !sameTile h r.rslt && !(r.ckind = 2 && sameTile h r.carry)
    let s1 := ins.foldl (fun s h => s.dropHold w h (s.sliceOf r h)) { s with reqs := s.reqs.filter (·.who != ReqWho.rule o k) }
    let s1 := (r.pins ++ (if r.sub != 0 then [r.sub] else [])).foldl State.unpin s1
    let x2 := if r.rslt != 0 then s1.freeUncommitted r.rslt else (s1, [])
    let x3 := if r.tidd != 0xFFFF then andThen x2 fun s => s.commitEos p r.tidd.toNat else x2
    let rest := s.chainOf o k
    let x4 :=
      if r.ckind != 2 then x3
      else match rest with
        | [] => andThen x3 fun s =>
            let y := s.commitTile r.carry
            let s' := match y.1.tileOf r.carry with
              | some tk => y.1.modTile tk fun t => { t with carry := false }
              | none => y.1
            (s'.dropHold w r.carry false, y.2)
        | n :: _ => andThen x3 fun s =>
            let s' := match s.tileOf r.carry with
              | some tk => if (s.tile tk).owner = Owner.rule o k then s.modTile tk fun t =>
                  { t with owner := Owner.rule o n.1, ownerW := ruleOwnerWord (n.2.home / 4) (n.2.home % 4) n.1 } else s
              | none => s
            (s'.dropHold w r.carry false, [])
    andThen x4 fun s => ((s.setRules o (SMap.del (s.rulesOf o) k)).keeperGone o, [])

/-! Contexts leaving their slots. -/

/-- What a stalled context waits for has come. -/
def State.waitOver (s : State) (key : Nat) (w : Stall) : Bool :=
  let c := s.ctx key
  let phases := match (s.task c.task).gang with
    | some (g, _, _) => ((SMap.get? s.gangs g).map (·.phases)).getD 0
    | none => 0
  let late (t : Option Nat) : Bool := match t with | some b => b ≤ s.bclk | none => false
  match w with
  | .sem i n => n ≤ s.sem (coreOf key) i
  | .bar ph => ph < phases
  | .barw ph t => ph < phases || late t
  | .mon l t => !s.watch.contains (key, l) || late t
  | .alloc | .pump => !s.reqs.any (fun r => r.who = .ctx key && !s.mayGrant r)
  | .cancelled | .parking _ => false
  | .page a => s.pagePresent c.part a
  | .rsyn k n => (SMap.get? c.k k).all fun r => n < r.cur
  | .record | .engine | .debug => true
/-- A RES context that the core could run; a keeper executes no instructions (R188). -/
def State.runnable (s : State) (key : Nat) : Bool :=
  let c := s.ctx key
  c.slot = .res && c.keeper.isNone && match c.stall with | none => true | some w => s.waitOver key w
/-- Of some context slots, the one that has waited longest for its core. -/
def State.longest (s : State) (l : List Nat) : Option Nat :=
  l.foldl (fun m k => match m with
    | none => some k
    | some j => if (s.ctx k).since < (s.ctx j).since then some k else m) none
/-- R110: the RES context of a core that has waited longest. -/
def State.nextRes (s : State) (core : Nat) : Option Nat :=
  s.longest ((slotsOf core).filter fun k => (s.ctx k).slot = .res && (s.ctx k).keeper.isNone)
/-- The RES context to which a core switches, when it has a runnable one: of these the one that has waited longest (R110, R340). -/
def State.switchTo (s : State) (core : Nat) : Option Nat := s.longest ((slotsOf core).filter s.runnable)
/-- A core without a RUN context runs its next RES context. -/
def State.promote (s : State) (core : Nat) : State :=
  if (slotsOf core).any fun k => (s.ctx k).slot = .run then s
  else match s.nextRes core with
    | some k => s.modCtx k fun c => { c with slot := .run, since := s.bclk }
    | none => s
/-- The context in a slot runs, and the RUN context of its core becomes RES. -/
def State.runNow (s : State) (key : Nat) : State :=
  (((slotsOf (coreOf key)).filter fun j => (s.ctx j).slot = .run).foldl
    (fun s j => s.modCtx j fun c => { c with slot := .res, since := s.bclk }) s).modCtx key fun c => { c with slot := .run, since := s.bclk }
/-- R110: a stalled core goes over to the RES context that has waited longest. -/
def State.switch (s : State) (core : Nat) : State :=
  match s.nextRes core with
  | none => s
  | some k => s.runNow k

/-- The owner of the rules that a context slot holds. -/
def Ctx.ruleOwner (c : Ctx) : RuleOwner := match c.keeper with | some id => .keeper id | none => .task c.task
/-- The requests that stay when a context leaves RUN and RES: its own and those of its rules are withdrawn (R142, R177). -/
def State.reqsWithout (s : State) (key : Nat) : List Req :=
  let o := (s.ctx key).ruleOwner
  s.reqs.filter fun r => r.who != .ctx key && match r.who with | .rule o' _ => o' != o | _ => true

/-- The waits of a context given up: its requests and monitors. -/
def State.dropWaits (s : State) (key : Nat) : State :=
  { s with reqs := s.reqs.filter (·.who != .ctx key), watch := s.watch.filter (·.1 != key) }
/-- A slot becomes FREE: its requests, monitors and unaccepted commands go with it. -/
def State.freeCtx (s : State) (key : Nat) : State :=
  ({ s.setCtx key Ctx.empty with
    reqs := s.reqsWithout key,
    watch := s.watch.filter (·.1 != key) } : State).promote (coreOf key)
/-- The pins of a context's matrix jobs released (R152). -/
def State.dropMx (s : State) (c : Ctx) : State := c.mx.foldl (fun s j => j.pins.foldl State.unpin s) s

/-- R109: no image moves on the core. -/
def State.imageFree (s : State) (core : Nat) : Bool :=
  !(slotsOf core).any fun k => (s.ctx k).slot = .save || (s.ctx k).slot = .load

/-- The free slots of a partition's save area (R113), without those that a move has reserved (R61). -/
def State.freeSaves (s : State) (p : Nat) : List Nat :=
  let used := (s.saves.filter (·.1 / 2 ^ 32 = p)).map fun x => x.1 % 2 ^ 32
  let kept := (s.moves.filter (·.from_ = p)).flatMap (·.slots)
  (List.range (min (s.part p).saven (used.length + kept.length + 640))).filter fun n => !used.contains n && !kept.contains n

/-- A task waits for nothing any more. -/
def State.dropWaiters (s : State) (t : Nat) : State :=
  let its (w : Waiter) : Bool := match w with
    | .record u _ => u = t
    | .task n => s.recordNamed n = some t
    | .queue _ => false
  if s.futs.any (·.2.any its) then
    { s with futs := (s.futs.map fun x => (x.1, x.2.filter (!its ·))).filter (·.2 != []) } else s
/-- R95, R72: the record of a task becomes free. -/
def State.freeTask (s : State) (t : Nat) (st : TaskSt) : State :=
  let x := s.task t
  let s1 := s.addRef x.part x.obj false
  let s1 := match x.recObj with | some o => s1.addRef x.part o false | none => s1
  let s2 := if x.handler then s1.setPart x.part { s1.part x.part with handlers := (s1.part x.part).handlers.filter (· != x.die) } else s1
  { (s2.dropWaiters t).setTask t { Task.empty with st := st, gen := x.gen, part := x.part, die := x.die } with
    pithead := s2.pithead.filter (·.ent != .task t),
    deques := s2.deques.map fun d => (d.1, d.2.filter (· != .task t)),
    names := s2.names.filter (·.2 != t) }

/-- The image of a saved task as a context. -/
def State.savedCtx (s : State) (sk : Nat) : Ctx :=
  Ctx.ofImage Ctx.empty (s.savedBytes sk 0 0xD000) [] (fun _ => 0xFFFF) ((SMap.get? s.saves sk).getD (SaveSlot.empty 0))

/-- R156 for one task record: its region's reads, its implicit reads, its rules, its tiles, its holds, its slot. -/
def State.dropTask (s : State) (t : Nat) : State × List Work :=
  let x := s.task t
  let c := match s.heldIn t, s.savedOf t with
    | some key, _ => s.ctx key
    | none, some sk => s.savedCtx sk
    | none, none => Ctx.empty
  let s1 := c.cbuf.foldl (fun s y => s.commitReads y.1 y.2) (s.dropMx c)
  let s1 := x.ins.foldl (fun s y => s.abandonReads y.2 1) s1
  let y := forEach (SMap.keys (s1.rulesOf (.task t))) s1 fun s k => s.endRule (.task t) k
  let mine := (y.1.heldBy (.task t)).filter fun h => match y.1.tileOf h with
    | some tk => (y.1.tile tk).owner = .task t && (y.1.tile tk).st = .alloc
    | none => false
  let y := andThen y fun s => forEach mine s fun s h => s.freeUncommitted h
  let s2 := (y.1.heldBy (.task t)).foldl (fun s h => s.dropHold (.task t) h true) y.1
  let s3 := match s2.slotOfTask t with
    | some key =>
      let d := s2.ctx key
      let s' := match d.image with | some sk => s2.freeSave sk | none => s2
      s'.freeCtx key
    | none => s2
  let s4 := match s3.savedOf t with | some sk => s3.freeSave sk | none => s3
  (s4, y.2)

/-- The object table, or the image of a task, which its end touches, is on a page under migration (R226). -/
def State.dropMoving (s : State) (t : Nat) : Bool :=
  s.objsMoving (s.task t).part || ((s.savedOf t).toList ++ ((s.slotOfTask t).bind fun k => (s.ctx k).image).toList).any s.imageMoving
/-- What a cancellation waits for: a rule of the task fires, a tile that its end frees or commits is on its way to another pool (R149),
or what its end touches is on a page under migration. -/
def State.firing (s : State) (t : Nat) : Bool :=
  s.dropMoving t || (s.rulesOf (.task t)).any fun x => x.2.st = .firing || s.ruleMoves x.2
/-- R156, R93: a task, or every instance of its gang, is cancelled. COMPL fails with the cause. While a firing has yet to end
(R184 step 1), or a page or tile of theirs moves, the cancellation waits, and the contexts execute nothing. -/
def State.cancelTask (s : State) (t cause : Nat) (count : Bool) : State × List Work :=
  let x := s.task t
  let all := (s.instances t).filter fun i => (s.task i).live?
  if !x.live? then (s, [])
  else if all.any s.firing then
    (all.foldl (fun s i =>
      let s1 := s.modTask i fun y => { y with pend := y.pend.or (some (cause, count)) }
      match s1.slotOfTask i with
      | some key => s1.modCtx key fun c => { c with stall := some .cancelled }
      | none => s1) s, [])
  else
    let y := forEach all s fun s i =>
      andThen (s.dropTask i) fun s =>
        andThen (s.memberEnd (s.task i).memb) fun s =>
          andThen (s.launchLess (s.task i).launch (if count then some cause else none)) fun s =>
            match (s.task i).dbg with
            | some (q, n, compl) => ((s.freeTask i .cancelled).packetDone q n, [.resolve 8 compl true 0x5E])
            | none => (s.freeTask i .cancelled, [])
    let s1 := match x.gang with
      | some (g, _, _) => { y.1 with gangs := SMap.del y.1.gangs g, pithead := y.1.pithead.filter (·.ent != .gang g) }
      | none => y.1
    (s1, y.2 ++ [.resolve x.part x.compl true cause])

/-- One piece of work. A decrement past 0 leaves 0 (log entry 30). -/
def State.workOne (s : State) (w : Work) : State × List Work :=
  match w with
  | .resolve p a f v => s.agentSet p a f v
  | .cancel t c n => s.cancelTask t c n
  | .dec t =>
    let x := s.task t
    if x.st = .waiting then (s.setTask t { x with live := x.live - 1 }, [.ready t]) else (s, [])
  | .ready t => (s.tryReady t, [])
  | .ruleEnd o k => s.endRule o k

/-! The die scratchpad (R244 to R246). -/

/-- R246: the boundary of a die; what leaves the scratchpad is lost, and what enters it reads as zero. -/
def State.setSplit (s : State) (die n : Nat) : State :=
  let m := s.scratchOf die
  if m = n then s
  else
    let lo := dxKey die (min m n * 2 ^ 20)
    let len := (max m n - min m n) * 2 ^ 20
    { s with
      mem := Mem.clear s.mem lo len
      poison := s.poison.filter fun k => k < lo || lo + len ≤ k
      scratch := SMap.put s.scratch die n }
/-- R245: the limits of a die, while a launch contributes some. -/
def State.limitsOf (s : State) (die : Nat) : Option (Nat × Nat) :=
  let l := s.launches.filter fun x => s.tasks.any fun t => t.2.live? && t.2.die = die && t.2.launch = some x.1
  if l = [] then none
  else
    let lo := l.foldl (fun m x => max m x.2.spmin) 16
    some (lo, max lo (l.foldl (fun m x => min m x.2.spmax) 96))
/-- R244: a change of limits moves the boundary to the nearest limit. -/
def State.applyLimits (s : State) : State :=
  if s.launches = [] then s
  else (List.range 4).foldl (fun s d => match s.limitsOf d with
    | some (lo, hi) => s.setSplit d (min hi (max lo (s.scratchOf d)))
    | none => s) s

/-- The work an operation set off, and what that sets off in turn, to a depth that no chain of tasks exceeds. -/
def State.workTo : Nat → State → List Work → State
  | 0, s, _ => s
  | n + 1, s, ws => ws.foldl (fun s w => let x := s.workOne w; State.workTo n x.1 x.2) s
def State.work (x : State × List Work) : State :=
  (State.workTo (4 * (x.1.tasks.length + x.1.launches.length) + 64) x.1 x.2).applyLimits

/-- R256: the wait that a discarded instruction had subtracted is added back. -/
def State.giveBack (s : State) (key : Nat) : State :=
  match (s.ctx key).passed with
  | some (i, n) => (s.semBack (coreOf key) i n).modCtx key fun c => { c with passed := none }
  | none => s

/-! Regions (R114 to R119). -/

/-- A buffered byte as it is performed: of a byte only some of whose bits are written, the others stay (R350). -/
def State.perform (s : State) (k : Nat) (b : Byte) : Option Byte → State
  | none => s.store k [b]
  | some m => { s with mem := Mem.write s.mem k ((Mem.read s.mem k &&& ~~~m) ||| (b &&& m)) }
/-- R116: the buffered stores performed and the consumptions applied; `error` where a store meets a translation cause or a page
under migration, and then nothing is performed (R227, R226). -/
def State.commitRegion (s : State) (key : Nat) : Except Tr State :=
  let c := s.ctx key
  let one (s : State) (x : Nat × Byte) : Except Tr State :=
    match s.translate c.part (word x.1) .wr true with
    | .ok k _ _ l => .ok ((s.markUsed l .wr).perform k x.2 (SMap.get? c.sbits x.1))
    | t => .error t
  match c.sbuf.foldlM one s with
  | .error t => .error t
  | .ok s1 =>
    let s2 := c.cbuf.foldl (fun s x => s.commitReads x.1 x.2) s1
    .ok (s2.setCtx key { c with sbuf := [], sbits := [], secs := [], cbuf := [], region := [] })

/-- The tiles that an installed instruction names by handle, beside its streams and its carry tile. -/
def Rule.named (r : Rule) (h : SMap (BitVec 32)) : List (BitVec 32) :=
  let tile (k : BitVec 3) (n : BitVec 5) : List (BitVec 32) := if k = 3 || k = 7 then [SMap.getD h n.toNat 0] else []
  match decodeNat r.img with
  | .ok (.lnop _ _ o) => tile o.kd o.d ++ tile o.ka o.a ++ tile o.kb o.b
  | .ok (.mma _ _ o) | .ok (.mmaq _ _ o) => tile o.ka o.a ++ tile o.kb o.b
  | .ok (.scacc _ _ o) => tile o.ka o.a ++ tile o.kb o.b
  | _ => []
/-- R187: who has the hold of a task on a tile once its rules have passed to a keeper: the rule that names the tile, unless it holds
it already or the tile is the task's own and not committed. -/
def State.heirOf (s : State) (t id : Nat) (c : Ctx) (h : BitVec 32) : Holder :=
  let own : Bool := match s.tileOf h with
    | some tk => (s.tile tk).owner = .task t && (s.tile tk).st = .alloc
    | none => false
  match c.k.find? fun x => (x.2.named c.h).any (sameTile h) with
  | some x => if own || s.holdsTile (.rule (.task t) x.1) h then .task t else .rule (.keeper id) x.1
  | none => .task t
/-- R187: a hold of a task's rule becomes its keeper's. -/
def reown (t id : Nat) (w : Holder) : Holder :=
  match w with
  | .rule (.task u) k => if u = t then .rule (.keeper id) k else w
  | _ => w
/-- A request made for a rule of the task. -/
def ofTask (t : Nat) (w : ReqWho) : Bool :=
  match w with
  | .rule (.task u) _ => u = t
  | _ => false

/-- R187: the rules of a context pass to a keeper in a free slot of the save area; `none` while there is none, or while a
firing has yet to end (R179). -/
def State.handover (s : State) (key : Nat) : Option State :=
  let c := s.ctx key
  if c.k = [] then some s
  else if c.k.any (·.2.st = .firing) then none
  else
    let (n, s0) := s.pick (s.freeSaves c.part)
    match n with
    | none => none
    | some n =>
      let t := c.task
      let id := s0.nextId
      let carried := c.k.flatMap fun x => x.2.accs
      let acc := c.acc.filter fun x => carried.contains (x.1 / 4096)
      let ovf := c.ovf &&& BitVec.ofNat 16 (carried.eraseDups.foldl (fun n a => n + 2 ^ a) 0)
      let kp : Keeper := { Keeper.empty with
        part := c.part, prio := (s0.task t).prio, die := dieOf (coreOf key), save := n, status := c.modes, special := c.special,
        fpc := c.fpc, fps := c.fps, f := c.f, k := c.k, acc := acc, ovf := ovf, bad := c.bad, lastFire := s0.bclk, s := c.s, h := c.h }
      let objs := s0.refsOf c.part kp.ctx true
      match s0.writeImage c.part n key kp.ctx (pobjOf objs c.k) with
      | .error _ => none
      | .ok s1 =>
        let s1 := s1.readRefs c.part kp.ctx true
        let fix (o : Owner) : Owner := match o with
          | .rule (.task u) k => if u = t then .rule (.keeper id) k else o
          | _ => o
        some (({ (s1.setKeeper id kp).setCtx key { c with k := [], f := [] } with
          holds := s1.holds.map (fun x => (if x.1 = .task t then s1.heirOf t id c x.2 else reown t id x.1, x.2)),
          tiles := s1.tiles.map fun x => (x.1, { x.2 with owner := fix x.2.owner }),
          reqs := s1.reqs.filter (!ofTask t ·.who),
          nextId := id + 1 } : State).keepSave (saveKey c.part n) (kp.ctx.side none (some id) false objs))

/-- R138, R187: what a task that ends still holds, and a keeper's rule names, passes to that rule. -/
def State.passToKeepers (s : State) (t : Nat) : State :=
  let p := (s.task t).part
  let heirs := (s.keepers.filter (·.2.part = p)).flatMap fun x => (s.rulesOf (.keeper x.1)).map fun y =>
    (Holder.rule (.keeper x.1) y.1, y.2.named x.2.h)
  let heir (h : BitVec 32) : Holder := match heirs.find? fun y => y.2.any (sameTile h) with
    | some y => if s.holdsTile y.1 h then .task t else y.1
    | none => .task t
  { s with holds := s.holds.map fun x => if x.1 = .task t then (heir x.2, x.2) else x }

/-- R117: the region of a context is discarded: stores, reservations, and the tiles it allocated. -/
def State.discardRegion (s : State) (key : Nat) : State × List Work :=
  let c := s.ctx key
  let s1 := c.cbuf.foldl (fun s x => s.undoReads x.1 x.2) s
  let tiles := c.region.filter fun h => match s1.tileOf h with | some tk => (s1.tile tk).st = .alloc | none => false
  let y := forEach tiles s1 fun s h => s.freeUncommitted h
  (y.1.modCtx key fun c => { c with sbuf := [], sbits := [], secs := [], cbuf := [], region := [] }, y.2)

/-- R309: the reference of the record to which an abort takes a task back, released by the resume that read it, is taken again. -/
def State.retakeRef (s : State) (t : Nat) : State :=
  let x := s.task t
  match x.restart, x.recObj, x.restartObj with
  | some _, none, some o => if (s.objIn [1, 2] x.part o).isSome then
      (s.addRef x.part o true).modTask t fun x => { x with recObj := some o } else s
  | _, _, _ => s
/-- R117: the abort; the task is requeued from its region's start once the page is back. -/
def State.abortRegion (s : State) (key : Nat) (e : Exc) : State :=
  let c := s.ctx key
  let t := c.task
  match s.handover key with
  | none => (s.dropWaits key).modCtx key fun c =>
      { c with stall := some .record, stallAt := if c.stall = some .record then c.stallAt else s.bclk }
  | some s0 =>
    let y := ((s0.giveBack key).dropMx c).discardRegion key
    let s1 := ((y.1.freeCtx key).retakeRef t).modTask t fun x =>
      { x with st := .waiting, warned := c.wdFired, page := some e.tval, h := if x.restart.isSome then x.restartH else [],
               resume := match x.restart with | some a => .record a | none => .fresh }
    let s2 := s1.partEvent c.part (dieOf (coreOf key)) e.cause.toNat 0 (coreOf key) e.tval 0
    State.work (s2, y.2 ++ [.ready t])

/-- R120: the save point. The image goes to the slot `n` of the save area; a wait that had subtracted gives back its threshold. -/
def State.saveCtx (s : State) (key n : Nat) (st : TaskSt) (held : Bool) : State :=
  let s := s.giveBack key
  let c := s.ctx key
  let sk := saveKey c.part n
  ((({ (s.setCtx key { c with slot := .save, image := some sk, stall := none, passed := none }).modTask c.task fun x =>
      { x with st := st, warned := c.wdFired } with
    reqs := s.reqsWithout key, watch := s.watch.filter (·.1 != key) } : State).keepSave sk
      (c.side (some c.task) none held (s.refsOf c.part c false))).readRefs c.part c false).promote (coreOf key)

/-- The contexts of a task, or of every instance of its gang, can leave their slots: no image moves on their cores, none of
their rules fires (R109, R179), and their partition's object table is not under migration (R226). -/
def State.movable (s : State) (l : List Nat) : Bool :=
  l.all fun k => s.imageFree (coreOf k) && !(s.ctx k).k.any (·.2.st = .firing) && !s.objsMoving (s.ctx k).part
/-- R118, R113: a context that is to park goes to a free save slot as soon as its image can move. With no free slot it stays
resident, stalled until its page is there. -/
def State.parkOn (s : State) (key : Nat) : State :=
  let c := s.ctx key
  match c.stall with
  | some (.parking a) =>
    if !c.inSlot || !s.movable [key] then s
    else match s.pick (s.freeSaves c.part) with
      | (none, _) => s.modCtx key fun c => { c with stall := some (.page a) }
      | (some n, s1) => (s1.saveCtx key n .parked false).modTask c.task fun x => { x with page := some a }
  | _ => s
/-- R93: the context in a slot parks on a page, in its turn where an image moves: one in LOAD goes back to its image, and one in
SAVE is parked when it is saved. -/
def State.parkSlot (s : State) (a : Word) (key : Nat) : State :=
  let c := s.ctx key
  let parked (s : State) : State := s.modTask c.task fun x => { x with st := .parked, page := some a }
  match c.slot with
  | .free => s
  | .load => parked (s.freeCtx key)
  | .save => if (s.task c.task).st = .preempted then parked s else s
  | _ => (s.modCtx key fun c => { c with stall := some (.parking a), stallAt := s.bclk }).parkOn key
/-- In every bclk those that are to park, and can, do. -/
def State.parkAll (s : State) : State := (SMap.keys s.ctxs).foldl State.parkOn s
/-- R118, R113, R93: the context parks, with every instance of its gang. With too few free slots it stays resident and stalled until
its page is there. The page's return makes the task READY. One event is written for each page. -/
def State.parkCtx (s : State) (key : Nat) (e : Exc) : State :=
  let c := s.ctx key
  let told : Bool := match c.stall with | some (.page a) | some (.parking a) => a = e.tval | _ => false
  let s0 := (s.giveBack key).dropWaits key
  let s1 := if told then s0 else s0.partEvent c.part (dieOf (coreOf key)) e.cause.toNat 0 (coreOf key) e.tval 0
  let all := key :: ((s.instances c.task).filterMap s.slotOfTask).filter (· != key)
  if (s.freeSaves c.part).length < all.length then
    s1.modCtx key fun c => { c with stall := some (.page e.tval), stallAt := if told then c.stallAt else s.bclk }
  else all.foldl (fun s k => s.parkSlot e.tval k) s1

end Sys2Proof.Machine
end

