-- ==== Sys2Proof/Machine/Ops.lean ====
section
/-! DEFINITION. The operations an instruction is made of: how one stops short (Stop), accesses of the running context to memory
and tiles (R114, R148, R227, R347), region commits (R115), taking a trap (R122 to R125) and returning from one (R336),
sequencing (R258 to R263), and `retire`, which runs an instruction's effect and then its sequencing. -/

namespace Sys2Proof.Machine
open Sys2Proof

/-- How an instruction ends before its effect: a trap (R122), a translation fault that aborts or parks (R227), a region commit
that faults and parks (R227), or a wait. A state that comes with it stands; without one, nothing that the instruction did
stands. -/
inductive Stop where
  | trap (e : Exc) (base : Option State)
  | page (e : Exc) (base : Option State)
  | commit (e : Exc) (base : Option State)
  | wait (w : Stall) (base : Option State)
  deriving DecidableEq, Repr

/-- An effect on the module, made for the context `cur`. -/
abbrev M := StateT State (Except Stop)

/-- R129, raise(c). -/
def raise {α : Type} (cause : Nat) (tval : Nat := 0) (tinfo : Nat := 0) : M α := fun _ => .error (.trap (exc cause tval tinfo) none)
def raiseE {α : Type} (e : Exc) : M α := fun _ => .error (.trap e none)
def waitOn {α : Type} (w : Stall) : M α := fun _ => .error (.wait w none)
/-- A check that raises where it fails. -/
def check (ok : Bool) (cause : Nat) (tval : Nat := 0) (tinfo : Nat := 0) : M Unit := if ok then pure () else raise cause tval tinfo
/-- What was done before stands even when `m` stops short (R115: a region commit stands). -/
def pinned {α : Type} (m : M α) : M α := fun s =>
  match m s with
  | .error (.trap e none) => .error (.trap e (some s))
  | .error (.page e none) => .error (.page e (some s))
  | .error (.commit e none) => .error (.commit e (some s))
  | .error (.wait w none) => .error (.wait w (some s))
  | r => r
def ofExcept {α : Type} : Except Exc α → M α
  | .ok a => pure a
  | .error e => raiseE e
def orRaise : Option Exc → M Unit
  | some e => raiseE e
  | none => pure ()
/-- The state without a change of it by a pure step. -/
def modS (f : State → State) : M Unit := fun s => .ok ((), f s)
def getS : M State := fun s => .ok (s, s)
/-- An operation that sets work off. -/
def modW (f : State → State × List Work) : M Unit := fun s => .ok ((), State.work (f s))
/-- The running context. -/
def getC : M Ctx := fun s => .ok (s.ctx s.cur, s)
def modC (f : Ctx → Ctx) : M Unit := fun s => .ok ((), s.modCtx s.cur f)
/-- The executing core. -/
def coreM : M Nat := fun s => .ok (coreOf s.cur, s)
def rdS (n : BitVec 5) : M Word := fun s => .ok ((s.ctx s.cur).reg n, s)
def wrS (n : BitVec 5) (v : Word) : M Unit := modC fun c => c.setReg n v
def rdH (n : BitVec 5) : M (BitVec 32) := fun s => .ok ((s.ctx s.cur).hreg n, s)

/-- R39. -/
def need (bit_ : Nat) : M Unit := fun s => if s.feature bit_ then .ok ((), s) else .error (.trap (exc 0x59 bit_) none)

/-! Memory of the running context. -/

/-- A GV byte's page for one access (R227): 0x20 and 0x24 abort or park, other causes trap, a MOVING page stalls. -/
def gvPage (a : Word) (u : Use) : M (Nat × Bool × Bool) := fun s =>
  let c := s.ctx s.cur
  match s.translate c.part a u true with
  | .ok k d h l => .ok ((k, d, h), s.markUsed l u)
  | .moving => .error (.wait .engine none)
  | .fault e => if e.cause = 0x20 || e.cause = 0x24 then .error (.page e none) else .error (.trap e none)

/-- R43: reading poison raises 0x5B; A and D of the pages of the access, which translation granted, stand (R218). -/
def raisePoison {α : Type} (tval : Nat) : M α := fun s => .error (.trap (exc 0x5B tval) (some s))
def readKey (k n tval : Nat) : M (List Byte) := fun s =>
  if s.poisoned k n then raisePoison tval s else .ok (Mem.readL s.mem k n, s)
def writeKey (k : Nat) (bs : List Byte) : M Unit := modS fun s => s.store k bs

/-- The GV address at which a context's store buffer holds the byte of a GV address: that address, or another of the same frame
byte (R114, R230); pages are 64 KiB at least, so such an address has the same 16 low bits. -/
def State.bufferedAt (s : State) (c : Ctx) (a key : Nat) : Option Nat :=
  if c.sbuf = [] then none
  else if (SMap.get? c.sbuf a).isSome then some a
  else (c.sbuf.find? fun x => x.1 % 65536 = a % 65536 && match s.translate c.part (word x.1) .rd with
    | .ok k _ _ _ => k = key
    | _ => false).map (·.1)
/-- The context's own buffered byte, with the bits of it that are written (R114, R350). -/
def State.ownByte (s : State) (c : Ctx) (a key : Nat) : Option (Byte × Byte) :=
  (s.bufferedAt c a key).bind fun x => (SMap.get? c.sbuf x).map fun b => (b, SMap.getD c.sbits x 0xFF)
/-- A byte of which only the bits of a mask come from another. -/
def mixByte (old new mask : Byte) : Byte := (old &&& ~~~mask) ||| (new &&& mask)

/-- Memory as a context sees it: what its store buffer holds lies over it (R114). -/
def State.ownView (s : State) (c : Ctx) : State :=
  if c.sbuf = [] then s
  else
    let mem := c.sbuf.foldl (fun m x => match s.translate c.part (word x.1) .rd with
      | .ok k _ _ _ => Mem.write m k (mixByte (Mem.read m k) x.2 (SMap.getD c.sbits x.1 0xFF))
      | _ => m) s.mem
    { s with mem := mem }
/-- The LIVE object whose text holds an address, as a context finds it in the object table (R231, R300). -/
def State.objFor (s : State) (c : Ctx) (a : Word) : Option Obj := (s.ownView c).objAt c.part a

/-- A load from GV: frames, the context's own buffered bytes first; a DISCARDED page reads zeros (R217), and a poisoned byte
that the context has not itself written raises 0x5B (R43). -/
def gvLoad (a : Word) (n : Nat) : M (List Byte) := do
  let parts ← (pieces a n).filter (·.2 != 0) |>.mapM fun x => do
    let (k, d, _) ← gvPage x.1 .rd
    let s ← getS
    let c ← getC
    if c.sbuf = [] then
      if d then pure (List.replicate x.2 0) else readKey k x.2 x.1.toNat
    else
      let own := (List.range x.2).map fun i => s.ownByte c (x.1.toNat + i) (k + i)
      let raw := if d then List.replicate x.2 0 else Mem.readL s.mem k x.2
      if !d && ((List.range x.2).zip own).any fun y => (y.2.map (·.2)).getD 0 != 0xFF && s.poisoned (k + y.1) 1 then
        raisePoison x.1.toNat
      pure ((raw.zip own).map fun y => match y.2 with | some b => mixByte y.1 b.1 b.2 | none => y.1)
  pure parts.flatten

/-- R119: the sectors of a buffered store, 256 at most. -/
def bufSectors (c : Ctx) (a n cls : Nat) : Option (List (Nat × Nat)) :=
  let want := (List.range ((a % 128 + n + 127) / 128)).map fun i => a / 128 * 128 + i * 128
  let secs := want.foldl (fun (l : List (Nat × Nat)) x => if l.any (·.1 = x) then l.map (fun y => if y.1 = x then (x, cls) else y) else l ++ [(x, cls)]) c.secs
  if secs.length ≤ 256 then some secs else none

/-- The bits `m` of a byte put into the store buffer of a context, at its address and wherever the buffer holds the same byte of
a frame. -/
def State.bufferByte (s : State) (c : Ctx) (a key : Nat) (b m : Byte) : Ctx :=
  let own := (s.ownByte c a key).getD (0, 0)
  let same := (c.sbuf.filter fun x => x.1 % 65536 = a % 65536 && x.1 != a && match s.translate c.part (word x.1) .rd with
    | .ok k _ _ _ => k = key
    | _ => false).map (·.1)
  (a :: same).foldl (fun c x => { c with
    sbuf := SMap.put c.sbuf x (mixByte own.1 b m)
    sbits := if own.2 ||| m = 0xFF then SMap.del c.sbits x else SMap.put c.sbits x (own.2 ||| m) }) c
/-- A store to GV: buffered in a buffered region, direct otherwise (R114, R349); every page is translated first. -/
def gvStore (a : Word) (bs : List Byte) (cls : Nat) : M Unit := do
  let ps ← (pieces a bs.length).filter (·.2 != 0) |>.mapM fun x => do
    let (k, _, _) ← gvPage x.1 .wr
    pure (x.1, k, x.2)
  let c ← getC
  if c.direct then
    let _ ← ps.foldlM (fun (rest : List Byte) x => do writeKey x.2.1 (rest.take x.2.2); pure (rest.drop x.2.2)) bs
    pure ()
  else match bufSectors c a.toNat bs.length cls with
    | none => raise 0x2D a.toNat 0
    | some secs =>
      let s ← getS
      let keys := ps.flatMap fun x => (List.range x.2.2).map fun i => (x.1.toNat + i, x.2.1 + i)
      modC fun c => (keys.zip bs).foldl (fun c y => s.bufferByte c y.1.1 y.1.2 y.2 0xFF) { c with secs := secs }
/-- The bits `m` of one byte of GV stored, and no others (R350). -/
def gvStoreBits (a : Word) (b m : Byte) (cls : Nat) : M Unit := do
  let (k, _, _) ← gvPage a .wr
  let c ← getC
  if c.direct then modS fun s => s.perform k b (some m)
  else match bufSectors c a.toNat 1 cls with
    | none => raise 0x2D a.toNat 0
    | some secs =>
      let s ← getS
      modC fun c => s.bufferByte { c with secs := secs } a.toNat k b m

/-- LS, CX and DX (R213): the key of a range, or the cause of its limit (R347 orders 3 and 4). -/
def State.localKey (s : State) (core sp x n : Nat) : Except Exc Nat :=
  match sp with
  | 1 =>
    if 2 ^ 20 < x + n then .error (exc 0x27 x)
    else if 2 ^ 20 - s.cpoolOf core * 2048 < x + n then .error (exc 0x23 x 1)
    else .ok (lsKey core x)
  | 2 =>
    if 12 * 2 ^ 20 < x + n || 12 * 2 ^ 20 ≤ x then .error (exc 0x28 x)
    else
      let dest := clusterOf core * 12 + x / 2 ^ 20
      if 2 ^ 20 - s.cpoolOf dest * 2048 < x % 2 ^ 20 + n then .error (exc 0x23 x 2)
      else .ok (lsKey dest (x % 2 ^ 20))
  | _ =>
    if s.scratchOf (dieOf core) * 2 ^ 20 < x + n then .error (exc 0x2F x)
    else if x < 2 ^ 24 then .error (exc 0x23 x 3)
    else .ok (dxKey (dieOf core) x)

/-! Regions. -/

/-- R116. -/
def commitM : M Unit := fun s =>
  match s.commitRegion s.cur with
  | .ok s' => .ok ((), s')
  | .error (.fault e) => .error (.commit e none)
  | .error _ => .error (.wait .engine none)
/-- R115: an irrevocable instruction, its checks passed, commits a buffered region and sets DIRECT; then it executes. -/
def irrevocably {α : Type} (m : M α) : M α := do
  let c ← getC
  if c.direct then m
  else
    commitM
    modC fun c => { c with direct := true }
    pinned m

/-! The scoreboard (R103, R104). Keys are those of `mem`; an accumulator is one range of its own. -/

/-- Accumulator `a` of a context. -/
def accRng (a : Nat) (w : Bool) : Rng := ⟨2 ^ 72 + a * 64, 64, w⟩
/-- Two ranges share a granule of 64 bytes, and one of them is written. -/
def Rng.clash (x y : Rng) : Bool :=
  (x.w || y.w) && x.len != 0 && y.len != 0 && x.lo / 64 ≤ (y.lo + y.len - 1) / 64 && y.lo / 64 ≤ (x.lo + x.len - 1) / 64
/-- A tile named by handle counts as its pages. -/
def State.tileRng (s : State) (tk : Nat) (w : Bool) : List Rng :=
  (List.range (s.tile tk).pg).map fun i => ⟨s.tileByte tk (i * 2048), 2048, w⟩
/-- The ranges of the context's instructions in flight. -/
def State.inFlight (s : State) (key : Nat) : List Rng :=
  (s.ctx key).mx.flatMap (·.rng) ++
  s.jobs.flatMap fun x => if x.2.task = (s.ctx key).task then x.2.rng else []
/-- R104: an instruction starts only when no older one in flight clashes with its ranges. -/
def ordered (rs : List Rng) : M Unit := fun s =>
  if rs.any fun r => (s.inFlight s.cur).any r.clash then .error (.wait .engine none) else .ok ((), s)

/-! Tiles of the running context. -/

/-- The accessor that the running context is (R148). -/
def userM : M User := fun s => .ok (.task (s.ctx s.cur).task (coreOf s.cur), s)

/-- R175: a handle of a carry tile of an installed rule. -/
def carryBusy (t : Tile) (h : BitVec 32) : Option Exc := if t.carry then some (exc 0x45 h.toNat) else none

/-- R183: the result tile of a FAULTED rule counts as its handler's. -/
def State.faultedResult (s : State) (key : Nat) (h : BitVec 32) : Bool :=
  let c := s.ctx key
  c.k.any (fun x => x.2.st = .faulted && sameTile x.2.rslt h) ||
  (c.ph && s.keepers.any fun y => y.2.part = c.part && (s.rulesOf (.keeper y.1)).any fun x => x.2.st = .faulted && sameTile x.2.rslt h)

/-- A tile that the context reads, writes or consumes: R148 in order. `n` is the bytes from `off`. What older instructions in flight
do to the tile, its commit among it, comes before the looks at its state (R104). A read of a committed tile asks for no hold (log entry
33). -/
def tileFor (h : BitVec 32) (off n : Nat) (need : Need) : M Nat := do
  let s ← getS
  let u ← userM
  let c ← getC
  let tk ← ofExcept (s.tileNamed u h off)
  let t := s.tile tk
  check (off + n ≤ t.pg * 2048) 0x38 (max off (t.pg * 2048)) (tinfoTile h)
  orRaise (carryBusy t h)
  if t.moving then waitOn .engine
  else
    ordered (s.tileRng tk (need = .wr))
    orRaise (tileUse t h off (t.owner = .task c.task || s.faultedResult s.cur h) need)
    pure tk

/-- R151: a read of each of these tiles can be consumed, when an access at offset `off` starts: CBUF has room (log entry 34). -/
def mayConsume (hs : List (BitVec 32)) (off : Nat := 0) : M Unit := do
  let c ← getC
  let new := hs.foldl (fun l h => if l.any (sameTile h) || c.cbuf.any fun x => sameTile x.1 h then l else h :: l) []
  check (c.direct || c.cbuf.length + new.length ≤ 32) 0x2D off 1
/-- R150, R151: `n` reads of a tile, whose checks have passed, by an access at offset `off` (log entry 34). -/
def consume (h : BitVec 32) (n : Nat) (off : Nat := 0) : M Unit := do
  let s ← getS
  let c ← getC
  match s.tileOf h with
  | none => raise 0x32 0 (tinfoTile h)
  | some tk =>
    if c.direct then modS fun s => s.consumeNow tk n
    else if c.cbuf.any fun x => sameTile x.1 h then
      modS fun s => s.reserveReads tk n
      modC fun c => { c with cbuf := c.cbuf.map fun x => if sameTile x.1 h then (x.1, x.2 + n) else x }
    else if 32 ≤ c.cbuf.length then raise 0x2D off 1
    else
      modS fun s => s.reserveReads tk n
      modC fun c => { c with cbuf := c.cbuf ++ [(h, n)] }

/-- Bytes of a tile, poison apart. -/
def tileLoad (tk off n : Nat) : M (List Byte) := do
  let s ← getS
  check (!((List.range n).any fun i => s.poisoned (s.tileByte tk (off + i)) 1)) 0x5B off
  pure (s.tileRead tk off n)

/-! Traps. -/

/-- The partition event of a cause that ends a task (R125), then the cancellation. -/
def State.failTask (s : State) (key cause : Nat) (i0 i1 : Word) : State :=
  let c := s.ctx key
  State.work (s.partEvent c.part (dieOf (coreOf key)) cause 0 (coreOf key) i0 i1, [.cancel c.task cause true])

/-- R93, R120: every resident instance of a task's gang, or the task alone, goes to free save slots; `none` where there are too
few, an image moves on its core (R109), or a firing has yet to end. -/
def State.stopTask (s : State) (t : Nat) (st : TaskSt) (held : Bool) : Option State :=
  ((s.instances t).filterMap s.slotOfTask).foldlM (fun s key =>
    let c := s.ctx key
    if !s.movable [key] then none
    else match s.pick (s.freeSaves c.part) with
      | (none, _) => none
      | (some n, s1) => some (s1.saveCtx key n st held)) s

/-- R64: a stepped task or one at a breakpoint, without a handler, is held; while its image can go nowhere, it executes
nothing. -/
def State.debugHold (s : State) (key : Nat) (e : Exc) : State :=
  let c := s.ctx key
  match s.stopTask c.task .held true with
  | some s1 =>
    s1.partEvent c.part (dieOf (coreOf key)) 0x0D 0 (coreOf key) (word (((s1.ctx key).image.getD 0) % 2 ^ 32)) e.tval
  | none => s.setCtx key { c with async := e :: c.async, stall := some .debug, stallAt := s.bclk }

/-- R123 to R125: TAKING A TRAP. `ec` and `imp` go to TCAUSE, `tpc` to TPC. With TH set, or with no handler, the task ends
instead. -/
def State.trapEnter (s : State) (key : Nat) (e : Exc) (ec : Nat) (imp : Bool) (tpc : Word) : State :=
  let c := s.ctx key
  if c.th then s.failTask key 0x0E (word e.cause.toNat) 0
  else if c.tvec = 0 then
    if e.cause = 0x0D then (s.setCtx key { c with pc := tpc }).debugHold key e
    else s.failTask key e.cause.toNat e.tval 0
  else match s.objFor c c.tvec with
    | none => (s.readObjs c.part none).failTask key 0x58 c.tvec (word e.cause.toNat)
    | some o =>
      ((s.readObjs c.part (some o.idx)).dropWaits key).setCtx key { c with
        tcause := word (e.cause.toNat + ec * 2 ^ 8 + b2n imp * 2 ^ 11), tpc := tpc, tval := e.tval, tinfo := e.tinfo,
        tsave := c.etb, tsavd := c.depth, th := true, etb := c.tvec - 32, exits := [], ltb := o.ltb, pc := c.tvec,
        stall := none, passed := none }

/-- R336: RETURNING FROM A TRAP. The checks of TPC come after the effect. -/
def State.trapReturn (s : State) (key : Nat) : State × Option Exc :=
  let c := s.ctx key
  let c1 := { c with etb := c.tsave, exits := [], depth := c.tsavd, th := false }
  if c.tpc.toNat % 8 != 0 then (s.setCtx key c1, some (exc 0x06 c.tpc.toNat))
  else match s.objFor c c.tpc with
    | none => ((s.readObjs c.part none).setCtx key c1, some (exc 0x58 c.tpc.toNat))
    | some o => ((s.readObjs c.part (some o.idx)).setCtx key { c1 with pc := c.tpc, ltb := o.ltb }, none)

/-! Sequencing (R258 to R263). -/

/-- Where sequencing leads. -/
inductive Next where
  | go (c : Ctx)
  | stop
  | fault (c : Ctx) (e : Exc)
  deriving DecidableEq, Repr

/-- T[i] of R259. -/
def Ctx.exit (c : Ctx) (i : Nat) : Word := c.exits.getD i (c.etb + 32)

/-- R263: a target of the exit table. -/
def State.exitFault (s : State) (c : Ctx) (ti : Nat) : Option Exc :=
  let t := c.exit ti
  if t.toNat % 8 != 0 then some (exc 0x06 t.toNat)
  else match s.objFor c c.etb with
    | some o => if o.has t then none else some (exc 0x07 (c.etb.toNat + 4 * ti) ti)
    | none => some (exc 0x07 (c.etb.toNat + 4 * ti) ti)

/-- A frame pushed (R260). -/
def Ctx.push (c : Ctx) (ret : Word) : Ctx := { c with calls := SMap.put c.calls c.depth (ret, c.etb), depth := c.depth + 1 }

/-- PR (R258). -/
def Ctx.governs (c : Ctx) (pr : BitVec 4) : Bool := pr = 12 || c.prd pr.toNat

/-- R258 to R263: the successor of the instruction at `c.pc`, `after` being the address of the next one. -/
def State.sequence (s : State) (c : Ctx) (q : Seqn) (after : Word) : Next :=
  let ti := q.ti.toNat
  let jump (c : Ctx) : Next :=
    match s.exitFault c ti with
    | some e => .fault c e
    | none => .go { c with pc := c.exit ti }
  let fall := Next.go { c with pc := after }
  match q.nxt.toNat with
  | 0 => fall
  | 1 => if c.governs q.pr then jump c else fall
  | 2 => if c.governs q.pr then fall else jump c
  | 3 =>
    if !c.governs q.pr then fall
    else match s.exitFault c ti with
      | some e => .fault c e
      | none =>
        let t := c.exit ti
        if 16 ≤ c.depth then .fault c (exc 0x08 t.toNat)
        else .go { c.push after with etb := t - 32, exits := [], pc := t }
  | 4 =>
    if !c.governs q.pr then fall
    else if c.depth = 0 then .fault c (exc 0x09)
    else
      let f := SMap.getD c.calls (c.depth - 1) (0, 0)
      if f.1.toNat % 8 != 0 then .fault c (exc 0x06 f.1.toNat)
      else match s.objFor c f.1 with
        | none => .fault c (exc 0x58 f.1.toNat)
        | some o => .go { c with depth := c.depth - 1, etb := f.2, exits := [], pc := f.1, ltb := o.ltb }
  | 5 =>
    let n := c.loopc (ti % 4)
    if n = 0 then fall
    else
      let c1 := c.setLoopc (ti % 4) (n - 1)
      if n = 1 then .go { c1 with pc := after } else jump c1
  | _ => if c.governs q.pr then .stop else fall

/-- R218: A set by the look at the object table that a transfer makes. -/
def State.looked (s : State) (c : Ctx) (q : Seqn) : State :=
  let find (a : Word) : State := s.readObjs c.part ((s.objFor c a).map (·.idx))
  let jump : State := if (c.exit q.ti.toNat).toNat % 8 = 0 then find c.etb else s
  match q.nxt.toNat with
  | 1 | 3 => if c.governs q.pr then jump else s
  | 2 => if c.governs q.pr then s else jump
  | 4 =>
    let r := (SMap.getD c.calls (c.depth - 1) (0, 0)).1
    if c.governs q.pr && c.depth != 0 && r.toNat % 8 = 0 then find r else s
  | 5 => if (c.loopc (q.ti.toNat % 4)).toNat ≤ 1 then s else jump
  | _ => s

/-! Retirement. -/

/-- The engine class of an instruction (R265). -/
def ecOf (i : Instr) : Nat := encodeNat i / 2 ^ 61 % 8
/-- Doubleword 0 of the instruction, for TVAL. -/
def dw0 (i : Instr) : Nat := (dwOf (encodeNat i) 0).toNat
def dw1 (i : Instr) : Nat := (dwOf (encodeNat i) 1).toNat

/-- The effect stands and nothing holds the context. -/
def Ctx.moved (c : Ctx) : Ctx := { c with stall := none, passed := none }

/-- R64: the instruction at `pc` has retired; TPC is the address selected. -/
def State.debugAfter (s : State) (key : Nat) (pc : Word) (ec : Nat) : State :=
  let c := s.ctx key
  if c.th || !((s.task c.task).stepping || (s.part c.part).brk.any (·.2 = pc)) then s
  else s.trapEnter key (exc 0x0D pc.toNat) ec false c.pc

/-- A wait that an instruction keeps while what it looks at is held up (R357, R143, R362). -/
def Stall.stays : Stall → Bool
  | .mon _ _ | .barw _ _ | .alloc | .pump => true
  | _ => false
/-- A blocked instruction: the context waits at it. -/
def State.block (s : State) (key : Nat) (w : Stall) : State :=
  s.modCtx key fun c =>
    if c.stall = some w || (w = .engine && c.stall.any Stall.stays) then c else { c with stall := some w, stallAt := s.bclk }

/-- R107: the wait of the sync doubleword; `none` while it lasts. -/
def State.syncWait (s : State) (key : Nat) (y : Option Sync) : Option State :=
  match y with
  | none => some s
  | some y =>
    if y.wst = 0 || (s.ctx key).passed.isSome then some s
    else
      let v := s.sem (coreOf key) y.wsi.toNat
      if v < y.wst.toNat then none
      else some ((s.setSem (coreOf key) y.wsi.toNat (v - y.wst.toNat)).modCtx key fun c =>
        { c with passed := some (y.wsi.toNat, y.wst.toNat) })

/-- A translation fault of the instruction at the context's pc (R117, R118). -/
def State.pageFault (s : State) (key : Nat) (e : Exc) : State :=
  if (s.ctx key).direct then s.parkCtx key e else s.abortRegion key e

/-- The state after an instruction stopped short. `s0` is the state before its wait, `s1` the one after. -/
def State.stopped (s0 s1 : State) (key ec : Nat) (pc : Word) : Stop → State
  | .trap e b =>
    let s := (b.getD (if (s0.ctx key).passed.isSome then s0 else s1)).giveBack key
    s.trapEnter key e ec false pc
  | .page e b => (b.getD s1).pageFault key e
  | .commit e b => (b.getD s1).parkCtx key e
  | .wait w b => (b.getD s1).block key w

/-- What follows an instruction's effect: the signal of its sync doubleword when it is due, its sequencing, and the debug
stop (R64, R108, R258 to R263), which one that ends its task does not meet (log entry 30). An instruction without sequencing fields has set the pc itself. -/
def State.finish (s : State) (i : Instr) (key : Nat) (pc : Word) (sig : Bool) : State :=
  let ec := ecOf i
  let s3 := match syncOf i with
    | some y => if sig && y.sgn != 0 then s.semAdd (coreOf key) y.sgi.toNat y.sgn.toNat else s
    | none => s
  let c := (s3.ctx key).moved
  match seqnOf i with
  | none => (s3.setCtx key c).debugAfter key pc ec
  | some q =>
    let s4 := s3.looked c q
    match s3.sequence c q (pc + word (8 * wordsOf i)) with
    | .go c' => (s4.setCtx key c').debugAfter key pc ec
    | .stop => s4.setCtx key { c with ending := true }
    | .fault c' e => (s4.setCtx key c').trapEnter key e ec false pc

/-- R102, R122, R255, R256: an instruction of the running context. `pre` makes the checks of steps 2 and 3 of R122; then the
sync doubleword waits; then `body` has the effect and says whether the signal is due at retirement. -/
def retire (i : Instr) (pre : M Unit) (body : M Bool) (s : State) : Host.Outcome State Fault Refusal :=
  let key := s.cur
  let pc := (s.ctx key).pc
  match pre s with
  | .error x => .next (s.stopped s key (ecOf i) pc x)
  | .ok ((), s0) =>
    match s0.syncWait key (syncOf i) with
    | none => .next (s0.block key (.sem ((syncOf i).elim 0 (·.wsi.toNat)) ((syncOf i).elim 0 (·.wst.toNat))))
    | some s1 =>
      match body s1 with
      | .error x => .next (s0.stopped s1 key (ecOf i) pc x)
      | .ok (sig, s2) => .next (s2.finish i key pc sig)

/-- An instruction that may give up its slot: `body` answers whether the context has left it. -/
def leaving (i : Instr) (body : M Bool) (s : State) : Host.Outcome State Fault Refusal :=
  let key := s.cur
  let pc := (s.ctx key).pc
  match body s with
  | .error x => .next (s.stopped s key (ecOf i) pc x)
  | .ok (true, s2) => .next s2
  | .ok (false, s2) => .next (s2.finish i key pc true)

/-- An instruction without checks of privilege and features, and without a signal of its own. -/
def plain (i : Instr) (body : M Unit) (s : State) : Host.Outcome State Fault Refusal :=
  retire i (pure ()) (do body; pure true) s

end Sys2Proof.Machine
end

