-- ==== Sys2Proof/Machine/Flags.lean ====
section
/-! DEFINITION. Number formats, rounding and the five floating-point flags (R190 to R196, R211, R369, R370, R379 to R381), and
the traps that the flags raise (R128). A float is unpacked to an exact dyadic; every result is rounded once. -/

namespace Sys2Proof.Machine
open Sys2Proof

/-- Flags in the order of FPS (R333): bit 0 invalid, 1 div0, 2 overflow, 3 underflow, 4 inexact. -/
abbrev Fl := BitVec 5
def Fl.invalid : Fl := 1
def Fl.div0 : Fl := 2
def Fl.overflow : Fl := 4
def Fl.underflow : Fl := 8
def Fl.inexact : Fl := 16

/-- A floating-point format (R190); `inf` says that it has infinities. -/
structure Fmt where
  e : Nat
  m : Nat
  bias : Nat
  inf : Bool
  deriving DecidableEq, Repr

def Fmt.f32 : Fmt := ⟨8, 23, 127, true⟩
def Fmt.f16 : Fmt := ⟨5, 10, 15, true⟩
def Fmt.bf16 : Fmt := ⟨8, 7, 127, true⟩
def Fmt.e5m2 : Fmt := ⟨5, 2, 15, true⟩
def Fmt.e4m3 : Fmt := ⟨4, 3, 7, false⟩

def Fmt.signBit (f : Fmt) : Nat := 2 ^ (f.e + f.m)
/-- The code of +∞, where the format has one. -/
def Fmt.infCode (f : Fmt) : Nat := (2 ^ f.e - 1) * 2 ^ f.m
/-- The code of the largest finite value. -/
def Fmt.maxCode (f : Fmt) : Nat := if f.inf then f.infCode - 1 else f.infCode + 2 ^ f.m - 2
/-- The canonical NaN. -/
def Fmt.nan (f : Fmt) : Nat := if f.inf then f.infCode + 2 ^ (f.m - 1) else f.infCode + 2 ^ f.m - 1
def Fmt.signed (f : Fmt) (neg : Bool) (code : Nat) : Nat := if neg then f.signBit + code else code

/-- An exact value: (−1)^neg × m × 2^e, an infinity, or a NaN, signalling or quiet. -/
inductive Fp where
  | nan (sig : Bool)
  | inf (neg : Bool)
  | fin (neg : Bool) (m : Nat) (e : Int)
  deriving DecidableEq, Repr

/-- The value of a code (R190). -/
def Fmt.unpack (f : Fmt) (x : Nat) : Fp :=
  let neg := x / f.signBit % 2 = 1
  let ex := x / 2 ^ f.m % 2 ^ f.e
  let fr := x % 2 ^ f.m
  if ex = 2 ^ f.e - 1 && f.inf then if fr = 0 then .inf neg else .nan (fr < 2 ^ (f.m - 1))
  else if ex = 2 ^ f.e - 1 && fr = 2 ^ f.m - 1 then .nan false
  else if ex = 0 then .fin neg fr (1 - f.bias - f.m)
  else .fin neg (2 ^ f.m + fr) (ex - f.bias - f.m)

/-- A quotient rounded to an integer: `n` with `rem` of `unit` left over, and something below that when `sticky` (R194). -/
def roundUp (rm : Nat) (neg : Bool) (n rem unit : Nat) (sticky : Bool) : Bool :=
  match rm with
  | 0 => unit < 2 * rem || (unit = 2 * rem && (sticky || n % 2 = 1))
  | 1 => false
  | 2 => neg && (rem != 0 || sticky)
  | 3 => !neg && (rem != 0 || sticky)
  | _ => unit ≤ 2 * rem

/-- m × 2^e as a multiple of 2^q: the rounded multiple, and whether it is exact. -/
def quantize (rm : Nat) (neg : Bool) (m : Nat) (e q : Int) (sticky : Bool) : Nat × Bool :=
  if q ≤ e then (m * 2 ^ (e - q).toNat, !sticky)
  else
    let unit := 2 ^ (q - e).toNat
    let n := m / unit
    let rem := m % unit
    (if roundUp rm neg n rem unit sticky then n + 1 else n, rem = 0 && !sticky)

/-- What a finite overflow delivers (R195, R196). -/
def Fmt.overflowCode (f : Fmt) (rm : Nat) (sat neg : Bool) : Nat :=
  if sat then f.signed neg f.maxCode
  else if !f.inf then f.nan
  else if rm = 1 || (rm = 2 && !neg) || (rm = 3 && neg) then f.signed neg f.maxCode
  else f.signed neg f.infCode

/-- A nonzero magnitude rounded once to a format (R192, R195, R196). `sticky`: the exact value lies a little above m × 2^e. -/
def Fmt.round (f : Fmt) (rm : Nat) (sat neg : Bool) (m : Nat) (e : Int) (sticky : Bool) : Nat × Fl :=
  if m = 0 then (f.signed neg 0, 0)
  else
    let top : Int := Nat.log2 m + e
    let emin : Int := 1 - f.bias
    let q0 := top - f.m
    let qmin := emin - f.m
    let q := max q0 qmin
    let (n, ok) := quantize rm neg m e q sticky
    let code := (q - qmin).toNat * 2 ^ f.m + n
    if f.maxCode < code then (f.overflowCode rm sat neg, Fl.overflow ||| Fl.inexact)
    else
      let tiny := top < emin && !(top + 1 = emin && (quantize rm neg m e q0 sticky).1 = 2 ^ (f.m + 1))
      (f.signed neg code, if ok then 0 else if tiny then Fl.underflow ||| Fl.inexact else Fl.inexact)

/-- The code of an exact value in a format: a conversion of R196 from a float. -/
def Fmt.pack (f : Fmt) (rm : Nat) (sat : Bool) : Fp → Nat × Fl
  | .nan sig => (f.nan, if sig then Fl.invalid else 0)
  | .inf neg =>
    if f.inf then (f.signed neg (if sat then f.maxCode else f.infCode), 0)
    else if sat then (f.signed neg f.maxCode, 0)
    else (f.nan, Fl.invalid)
  | .fin neg m e => f.round rm sat neg m e false

/-! Exact arithmetic. A NaN of an operand makes a quiet NaN, and a signalling one sets FP_INVALID (R193). -/

def Fp.isNan : Fp → Bool
  | .nan _ => true
  | _ => false
def Fp.isSig : Fp → Bool
  | .nan s => s
  | _ => false
def Fp.sigFl (a b : Fp) : Fl := if a.isSig || b.isSig then Fl.invalid else 0
def Fp.neg : Fp → Fp
  | .nan s => .nan s
  | .inf n => .inf !n
  | .fin n m e => .fin (!n) m e
/-- A finite value as an integer multiple of 2^q, q ≤ e. -/
def scaled (neg : Bool) (m : Nat) (e q : Int) : Int := (if neg then -1 else 1) * (m : Int) * 2 ^ (e - q).toNat
/-- The dyadic of an integer. -/
def Fp.ofInt (i : Int) (e : Int) (zeroNeg : Bool := false) : Fp := .fin (if i = 0 then zeroNeg else i < 0) i.natAbs e

def Fp.mul (a b : Fp) : Fp × Fl :=
  match a, b with
  | .fin n m e, .fin n' m' e' => (.fin (n != n') (m * m') (e + e'), 0)
  | .inf n, .inf n' => (.inf (n != n'), 0)
  | .inf n, .fin n' m _ => if m = 0 then (.nan false, Fl.invalid) else (.inf (n != n'), 0)
  | .fin n m _, .inf n' => if m = 0 then (.nan false, Fl.invalid) else (.inf (n != n'), 0)
  | a, b => (.nan false, a.sigFl b)

/-- The exact sum; an exact zero from unlike signs is −0 only when rounding down (IEEE 754 addition). -/
def Fp.add (rm : Nat) (a b : Fp) : Fp × Fl :=
  match a, b with
  | .fin n m e, .fin n' m' e' =>
    let q := min e e'
    (Fp.ofInt (scaled n m e q + scaled n' m' e' q) q (if n = n' then n else rm = 2), 0)
  | .inf n, .inf n' => if n = n' then (.inf n, 0) else (.nan false, Fl.invalid)
  | .inf n, .fin _ _ _ => (.inf n, 0)
  | .fin _ _ _, .inf n => (.inf n, 0)
  | a, b => (.nan false, a.sigFl b)

/-- a + b, a × b and a × b + d rounded once. -/
def Fmt.add (f : Fmt) (rm a b : Nat) : Nat × Fl :=
  let (x, g) := Fp.add rm (f.unpack a) (f.unpack b)
  let (r, h) := f.pack rm false x
  (r, g ||| h)
def Fmt.mul (f : Fmt) (rm a b : Nat) : Nat × Fl :=
  let (x, g) := Fp.mul (f.unpack a) (f.unpack b)
  let (r, h) := f.pack rm false x
  (r, g ||| h)
def Fmt.fma (f : Fmt) (rm a b d : Nat) : Nat × Fl :=
  let (x, g) := Fp.mul (f.unpack a) (f.unpack b)
  let (y, g') := Fp.add rm x (f.unpack d)
  let (r, h) := f.pack rm false y
  (r, g ||| g' ||| h)

/-! Comparison. -/

/-- −1, 0 or 1 as a lies below, at or above b; −0 equals +0. Both are numbers. -/
def Fp.cmp (a b : Fp) : Int :=
  match a, b with
  | .inf n, .inf n' => if n = n' then 0 else if n then -1 else 1
  | .inf n, _ => if n then -1 else 1
  | _, .inf n => if n then 1 else -1
  | .fin n m e, .fin n' m' e' =>
    let q := min e e'
    (scaled n m e q - scaled n' m' e' q).sign
  | _, _ => 0
def Fp.sgn : Fp → Bool
  | .inf n => n
  | .fin n _ _ => n
  | .nan _ => false

/-- R380. -/
def Fmt.minMax (f : Fmt) (least : Bool) (a b : Nat) : Nat × Fl :=
  let x := f.unpack a
  let y := f.unpack b
  let fl := x.sigFl y
  if x.isNan && y.isNan then (f.nan, fl)
  else if x.isNan then (b, fl)
  else if y.isNan then (a, fl)
  else
    let c := x.cmp y
    let aLess := c < 0 || (c = 0 && x.sgn && !y.sgn)
    (if aLess = least then a else b, fl)

/-! Reciprocals, roots and the transcendental functions (R381). -/

/-- floor √x of a number below 4^n. -/
def isqrt (x : Nat) : Nat → Nat → Nat
  | 0, r => r
  | n + 1, r => let r' := r + 2 ^ n; isqrt x n (if r' * r' ≤ x then r' else r)

def Fmt.rcp (f : Fmt) (rm a : Nat) : Nat × Fl :=
  match f.unpack a with
  | .nan s => (f.nan, if s then Fl.invalid else 0)
  | .inf n => (f.signed n 0, 0)
  | .fin n m e =>
    if m = 0 then (f.signed n f.infCode, Fl.div0)
    else
      let k := Nat.log2 m + 64
      f.round rm false n (2 ^ k / m) (-e - k) (2 ^ k % m != 0)

def Fmt.rsq (f : Fmt) (rm a : Nat) : Nat × Fl :=
  match f.unpack a with
  | .nan s => (f.nan, if s then Fl.invalid else 0)
  | .inf n => if n then (f.nan, Fl.invalid) else (0, 0)
  | .fin n m e =>
    if m = 0 then (f.signed true f.infCode, Fl.div0) |> fun x => if n then x else (f.infCode, Fl.div0)
    else if n then (f.nan, Fl.invalid)
    else
      let odd := e % 2 != 0
      let m' := if odd then 2 * m else m
      let e' := (if odd then e - 1 else e) / 2
      let r := isqrt (2 ^ 256 / m') 129 0
      f.round rm false false r (-e' - 128) (r * r * m' != 2 ^ 256)

/-- Bits of the fixed-point numbers of the transcendental functions (log entry 16). -/
def fixBits : Nat := 640

/-- Σ over i < n of x^i × 2^fixBits / i!, from term `t`, with signs alternating when `alt` and steps of two when `by2`. -/
def expSum (x : Nat) : Nat → Nat → Nat → Nat
  | 0, _, _ => 0
  | n + 1, i, t => t + expSum x n (i + 1) (t * x / 2 ^ fixBits / (i + 1))
/-- e^x for a fixed-point x below 1. -/
def fixExp (x : Nat) : Nat := expSum x 160 0 (2 ^ fixBits)

/-- 2 × artanh z = Σ 2 z^(2i+1) / (2i+1) for a fixed-point z. -/
def artanhSum (z2 : Nat) : Nat → Nat → Nat → Nat
  | 0, _, _ => 0
  | n + 1, i, t => 2 * t / (2 * i + 1) + artanhSum z2 n (i + 1) (t * z2 / 2 ^ fixBits)
/-- ln (a / b) for 1 ≤ a / b ≤ 2. -/
def fixLn (a b : Nat) : Nat :=
  let z := (a - b) * 2 ^ fixBits / (a + b)
  artanhSum (z * z / 2 ^ fixBits) 210 0 z
def fixLn2 : Nat := fixLn 2 1

/-- arctan (1 / n) = Σ (−1)^i / ((2i+1) n^(2i+1)). -/
def atanSum (n2 : Nat) : Nat → Nat → Int → Int
  | 0, _, _ => 0
  | k + 1, i, t => t / (2 * (i : Int) + 1) + atanSum n2 k (i + 1) (-t / (n2 : Int))
def fixAtan (n : Nat) : Int := atanSum (n * n) 300 0 (2 ^ fixBits / (n : Int))
/-- π, by 16 arctan(1/5) − 4 arctan(1/239). -/
def fixPi : Nat := (16 * fixAtan 5 - 4 * fixAtan 239).toNat

/-- Σ of a power series with alternating terms t, t x²/((i+1)(i+2)), … -/
def altSum (x2 : Nat) : Nat → Nat → Int → Int
  | 0, _, _ => 0
  | k + 1, i, t => t + altSum x2 k (i + 2) (-(t * (x2 : Int) / 2 ^ fixBits / (((i + 1) * (i + 2) : Nat) : Int)))
def fixCos (x : Nat) : Int := altSum (x * x / 2 ^ fixBits) 90 0 (2 ^ fixBits)
def fixSin (x : Nat) : Int := altSum (x * x / 2 ^ fixBits) 90 1 x

/-- 2^a. -/
def Fmt.ex2 (f : Fmt) (rm a : Nat) : Nat × Fl :=
  match f.unpack a with
  | .nan s => (f.nan, if s then Fl.invalid else 0)
  | .inf n => if n then (0, 0) else (f.infCode, 0)
  | .fin n m e =>
    if m = 0 then f.round rm false false 1 0 false
    else if 10 < (Nat.log2 m : Int) + e then f.round rm false false 3 (if n then -1026 else 1024) true
    else
      let x := scaled n m e (-(fixBits : Int))
      let k := x / 2 ^ fixBits
      let fr := (x % 2 ^ fixBits).toNat
      if fr = 0 then f.round rm false false 1 k false
      else f.round rm false false (fixExp (fr * fixLn2 / 2 ^ fixBits)) (k - (fixBits : Int)) true

/-- log2 a. -/
def Fmt.lg2 (f : Fmt) (rm a : Nat) : Nat × Fl :=
  match f.unpack a with
  | .nan s => (f.nan, if s then Fl.invalid else 0)
  | .inf n => if n then (f.nan, Fl.invalid) else (f.infCode, 0)
  | .fin n m e =>
    if m = 0 then (f.signed true f.infCode, Fl.div0)
    else if n then (f.nan, Fl.invalid)
    else
      let l := Nat.log2 m
      let k : Int := (l : Int) + e
      if m = 2 ^ l then f.round rm false (k < 0) k.natAbs 0 false
      else
        let r := k * 2 ^ fixBits + ((fixLn m (2 ^ l) * 2 ^ fixBits / fixLn2 : Nat) : Int)
        f.round rm false (r < 0) r.natAbs (-(fixBits : Int)) true

/-- A part of `vcis`: quarter turns from 0, and the fixed-point fraction of a quarter turn. -/
def Fmt.quarter (f : Fmt) (rm : Nat) (sine : Bool) (q fr : Nat) : Nat × Fl :=
  let s := if sine then q else q + 1
  -- sin of (s + fr) quarter turns
  let neg := s % 4 = 2 || s % 4 = 3
  let useCos := s % 2 = 1
  if fr = 0 then if useCos then f.round rm false neg 1 0 false else (0, 0)
  else
    let x := fr * fixPi / 2 ^ fixBits / 2
    let v := if useCos then fixCos x else fixSin x
    f.round rm false neg v.natAbs (-(fixBits : Int)) true

/-- cos 2πa and sin 2πa. -/
def Fmt.cis (f : Fmt) (rm a : Nat) : (Nat × Fl) × (Nat × Fl) :=
  match f.unpack a with
  | .nan s => ((f.nan, if s then Fl.invalid else 0), (f.nan, if s then Fl.invalid else 0))
  | .inf _ => ((f.nan, Fl.invalid), (f.nan, Fl.invalid))
  | .fin n m e =>
    if m = 0 then (f.round rm false false 1 0 false, (f.signed n 0, 0))
    else if 0 ≤ e then (f.round rm false false 1 0 false, (0, 0))
    else
      let x := (scaled n m e (-(fixBits : Int)) % 2 ^ fixBits).toNat * 4
      (f.quarter rm false (x / 2 ^ fixBits) (x % 2 ^ fixBits), f.quarter rm true (x / 2 ^ fixBits) (x % 2 ^ fixBits))

/-! Element types (R369, R370). A value is the element's low bits. -/

def tyWidth (t : Nat) : Nat :=
  match t with
  | 0 | 1 | 2 => 32
  | 3 | 4 | 5 | 6 => 16
  | _ => 8
def tyFmt (t : Nat) : Option Fmt :=
  match t with
  | 2 => some .f32
  | 5 => some .f16
  | 6 => some .bf16
  | 9 => some .e4m3
  | 10 => some .e5m2
  | _ => none
def tySigned (t : Nat) : Bool := t = 0 || t = 3 || t = 7
def tyBytes (t : Nat) : Nat := tyWidth t / 8
/-- The integer that an element of an integer type holds. -/
def tyInt (t x : Nat) : Int :=
  let w := tyWidth t
  let v := x % 2 ^ w
  if tySigned t && 2 ^ (w - 1) ≤ v then (v : Int) - 2 ^ w else v
def tyWrap (t : Nat) (i : Int) : Nat := (i % 2 ^ tyWidth t).toNat
def tyMin (t : Nat) : Int := if tySigned t then -(2 ^ (tyWidth t - 1)) else 0
def tyMax (t : Nat) : Int := if tySigned t then 2 ^ (tyWidth t - 1) - 1 else 2 ^ tyWidth t - 1
/-- A result in a scalar register: sign-extended for i types, zero-extended otherwise. -/
def tyScalar (t x : Nat) : Word := if tySigned t then BitVec.ofInt 64 (tyInt t x) else word (x % 2 ^ tyWidth t)

/-- The two-operand functions of R379, and `vfma` with its addend. -/
inductive Fn2 where
  | add | sub | mul | fma | min | max | shl | shr
  deriving DecidableEq, Repr

/-- R379, R380. -/
def fn2 (t rm : Nat) (op : Fn2) (a b d : Nat) : Nat × Fl :=
  match tyFmt t with
  | some f =>
    match op with
    | .add => f.add rm a b
    | .sub => f.add rm a (if b / f.signBit % 2 = 1 then b - f.signBit else b + f.signBit)
    | .mul => f.mul rm a b
    | .fma => f.fma rm a b d
    | .min => f.minMax true a b
    | .max => f.minMax false a b
    | .shl | .shr => (a, 0)
  | none =>
    let x := tyInt t a
    let y := tyInt t b
    let w := tyWidth t
    (match op with
     | .add => tyWrap t (x + y)
     | .sub => tyWrap t (x - y)
     | .mul => tyWrap t (x * y)
     | .fma => tyWrap t (x * y + tyInt t d)
     | .min => tyWrap t (Min.min x y)
     | .max => tyWrap t (Max.max x y)
     | .shl => tyWrap t (x * 2 ^ (y % w).toNat)
     | .shr => tyWrap t (x / 2 ^ (y % w).toNat), 0)

/-- The one-operand functions of R379 and R381; `vcis` gives its cosine. -/
inductive Fn1 where
  | abs | neg | rcp | rsq | ex2 | lg2
  deriving DecidableEq, Repr

def fn1 (t rm : Nat) (op : Fn1) (a : Nat) : Nat × Fl :=
  match tyFmt t with
  | some f =>
    match op with
    | .abs => (a % f.signBit, 0)
    | .neg => (if a / f.signBit % 2 = 1 then a % f.signBit else a % f.signBit + f.signBit, 0)
    | .rcp => f.rcp rm a
    | .rsq => f.rsq rm a
    | .ex2 => f.ex2 rm a
    | .lg2 => f.lg2 rm a
  | none =>
    match op with
    | .abs => (tyWrap t ((tyInt t a).natAbs : Int), 0)
    | .neg => (tyWrap t (-(tyInt t a)), 0)
    | _ => (a, 0)

/-- A conversion's outcome: a value with flags, or a narrowing that R196 traps on. -/
inductive Cvt where
  | val (x : Nat) (fl : Fl)
  | range
  deriving DecidableEq, Repr

/-- The rounded integer of a finite value, and whether it is exact. -/
def roundInt (rm : Nat) (neg : Bool) (m : Nat) (e : Int) : Int × Bool :=
  let (n, ok) := quantize rm neg m e 0 false
  (if neg then -(n : Int) else n, ok)

/-- R196. -/
def convert (t dt rm : Nat) (sat : Bool) (a : Nat) : Cvt :=
  match tyFmt t, tyFmt dt with
  | some f, some g => let (x, fl) := g.pack rm sat (f.unpack a); .val x fl
  | some f, none =>
    let low := tyWrap dt (tyMin dt)
    match f.unpack a with
    | .nan _ => .val (if sat then 0 else low) Fl.invalid
    | .inf n => .val (if sat then tyWrap dt (if n then tyMin dt else tyMax dt) else low) Fl.invalid
    | .fin n m e =>
      let (i, ok) := roundInt rm n m e
      if i < tyMin dt then .val (if sat then tyWrap dt (tyMin dt) else low) Fl.invalid
      else if tyMax dt < i then .val (if sat then tyWrap dt (tyMax dt) else low) Fl.invalid
      else .val (tyWrap dt i) (if ok then 0 else Fl.inexact)
  | none, some g => let (x, fl) := g.pack rm sat (Fp.ofInt (tyInt t a) 0); .val x fl
  | none, none =>
    let i := tyInt t a
    if tyMin dt ≤ i && i ≤ tyMax dt then .val (tyWrap dt i) 0
    else if sat then .val (tyWrap dt (if i < tyMin dt then tyMin dt else tyMax dt)) 0
    else .range

/-- R391: the exact widening, which keeps the sign of a NaN and whether it is signalling. -/
def widen (t dt a : Nat) : Nat :=
  match tyFmt t, tyFmt dt with
  | some f, some g =>
    match f.unpack a with
    | .nan sig => g.signed (a / f.signBit % 2 = 1) (if sig then g.infCode + 1 else g.nan)
    | x => (g.pack 0 false x).1
  | _, _ => tyWrap dt (tyInt t a)

/-- R211: the bf16 triple of an f32. -/
def split3 (x : Nat) : Nat × Nat × Nat :=
  let f := Fmt.f32
  let b := Fmt.bf16
  match f.unpack x with
  | .fin n m e =>
    let h0 := (b.round 0 false n m e false).1
    let h := if h0 % 2 ^ 15 = b.infCode then (b.round 1 false n m e false).1 else h0
    let rest (v : Fp) (y : Nat) : Fp :=
      match v, b.unpack y with
      | .fin n m e, .fin n' m' e' => Fp.ofInt (scaled n m e (min e e') - scaled n' m' e' (min e e')) (min e e') (x / 2 ^ 31 % 2 = 1)
      | v, _ => v
    let r1 := rest (.fin n m e) h
    let md := (b.pack 0 false r1).1
    (h, md, (b.pack 0 false (rest r1 md)).1)
  | v => ((b.pack 0 false v).1, 0, 0)

/-! Comparison of elements (R383, R386). -/

/-- The condition CC, and its flags. -/
def tyCmp (t cc a b : Nat) : Bool × Fl :=
  match tyFmt t with
  | some f =>
    let x := f.unpack a
    let y := f.unpack b
    if x.isNan || y.isNan then
      (cc = 1 || cc = 6, if x.isSig || y.isSig || (2 ≤ cc && cc ≤ 5) then Fl.invalid else 0)
    else
      let c := x.cmp y
      ((match cc with
        | 0 => c == 0
        | 1 => c != 0
        | 2 => c < 0
        | 3 => c ≤ 0
        | 4 => 0 < c
        | 5 => 0 ≤ c
        | _ => false), 0)
  | none =>
    let x := tyInt t a
    let y := tyInt t b
    ((match cc with
      | 0 => x == y
      | 1 => x != y
      | 2 => x < y
      | 3 => x ≤ y
      | 4 => y < x
      | 5 => y ≤ x
      | _ => false), 0)

/-! Traps and FPS (R128, R332, R333, R372). -/

/-- The mode that a rounding field selects (R194). -/
def rmOf (field : Nat) (fpc : Word) : Nat := if field = 7 then bits fpc.toNat 2 0 else field

/-- The enabled flag of lowest order among those raised, as its bit number. -/
def firstTrap (fpc : Word) (fl : Fl) : Option Nat := (List.range 5).find? fun i => fl.getLsbD i && fpc.getLsbD (8 + i)

/-- The trap of a set of flagged lanes: TVAL is the mask of the lanes that raised the cause. -/
def fpTrap (fpc : Word) (l : List (Nat × Fl)) : Option Exc :=
  match firstTrap fpc (l.foldl (fun x y => x ||| y.2) 0) with
  | none => none
  | some i => some (exc (0x10 + i) (l.foldl (fun m y => if y.2.getLsbD i then m ||| 2 ^ (y.1 % 64) else m) 0))

/-- FPS with flags added. -/
def Ctx.addFlags (c : Ctx) (fl : Fl) : Ctx := { c with fps := c.fps ||| fl.setWidth 64 }

/-- R128: the flags of an instruction: a trap with no effect, or an addition to FPS. -/
def fpDone (l : List (Nat × Fl)) : M Unit := do
  let c ← getC
  orRaise (fpTrap c.fpc l)
  modC fun c => c.addFlags (l.foldl (fun x y => x ||| y.2) 0)

end Sys2Proof.Machine
end

