-- ==== Sys2Proof/Machine/Operands.lean ====
section
/-! DEFINITION. Operand forms: immediates and patch slots (R251 to R253), the operands of the two-operand integer
instructions (R318). -/

namespace Sys2Proof.Machine
open Sys2Proof

/-- R252, R253: a slot of the patch table, through the patch cache. -/
def slotRead (slot : Nat) : M Word := fun s =>
  let c := s.ctx s.cur
  match SMap.get? c.patch slot with
  | some v => .ok (v, s)
  | none =>
    if c.ptb = 0 || c.ptb.toNat % 8 != 0 then .error (.trap (exc 0x0F slot) none)
    else match gvLoad (c.ptb + word (8 * slot)) 8 s with
      | .ok (bs, s1) =>
        let v := word (leNat bs)
        .ok (v, s1.modCtx s1.cur fun c => { c with patch := SMap.put c.patch slot v })
      | .error (.wait w b) => .error (.wait w b)
      | .error _ => .error (.trap (exc 0x0F slot) none)

/-- R251, R252: an immediate, sign-extended from imm16. -/
def immS (p : Bool) (imm : BitVec 16) : M Word := if p then slotRead (imm.toNat % 64) else pure (imm.signExtend 64)
/-- An immediate that its entry zero-extends. -/
def immZ (p : Bool) (imm : BitVec 16) : M Word := if p then slotRead (imm.toNat % 64) else pure (imm.zeroExtend 64)

/-- A field of a number replaced. -/
def insertField (x pos len v : Nat) : Nat := x - x / 2 ^ pos % 2 ^ len * 2 ^ pos + v % 2 ^ len * 2 ^ pos

/-! R318: operands and results of the integer instructions. -/

/-- The second operand. -/
def secondOp (i p : Bool) (imm : BitVec 16) (b : BitVec 5) : M Word := if i then immS p imm else rdS b

/-- The width n of W. -/
def widthOf (w : Bool) : Nat := if w then 32 else 64
/-- The low n bits as an unsigned number. -/
def low (n : Nat) (x : Word) : Nat := x.toNat % 2 ^ n
/-- An n-bit number read as signed. -/
def asInt (n x : Nat) : Int := if 2 ^ (n - 1) ≤ x then (x : Int) - 2 ^ n else x
/-- An n-bit number read as U says. -/
def asU (n : Nat) (u : Bool) (x : Nat) : Int := if u then x else asInt n x
/-- An integer result as the 64 bits written to sD. -/
def extend (w u : Bool) (r : Int) : Word :=
  if w then (if u then (BitVec.ofInt 32 r).zeroExtend 64 else (BitVec.ofInt 32 r).signExtend 64) else BitVec.ofInt 64 r

/-- A two-operand integer instruction: `f n u x y` is its result from the n-bit operands. -/
def aluM (o : Alu) (f : Nat → Bool → Nat → Nat → Int) : M Unit := do
  let x ← rdS o.a
  let y ← secondOp o.i o.p o.imm o.b
  wrS o.d (extend o.w o.u (f (widthOf o.w) o.u (low (widthOf o.w) x) (low (widthOf o.w) y)))

/-- R320: the truncated quotient. -/
def quotient (n : Nat) (u : Bool) (x y : Nat) : Int := Int.tdiv (asU n u x) (asU n u y)
/-- The remainder with the sign of x. -/
def remainder (n : Nat) (u : Bool) (x y : Nat) : Int := asU n u x - asU n u y * quotient n u x y

/-- `div` and `rem`: 0x15 when y = 0. -/
def divM (o : Alu) (f : Nat → Bool → Nat → Nat → Int) : M Unit := do
  let x ← rdS o.a
  let y ← secondOp o.i o.p o.imm o.b
  check (low (widthOf o.w) y != 0) 0x15
  wrS o.d (extend o.w o.u (f (widthOf o.w) o.u (low (widthOf o.w) x) (low (widthOf o.w) y)))

end Sys2Proof.Machine
end

