-- ==== Sys2Proof/Machine/Tasks.lean ====
section
/-! DEFINITION. Tasks: creation and its checks (R70 to R78, R91), allocation of outputs and placing (R86 to R94), resume (R97,
R113, R313) and the end of a task (R79, R95). -/

namespace Sys2Proof.Machine
open Sys2Proof

/-! Creation. -/

/-- R70: a free record of a die that a partition may take. -/
def State.record? (s : State) (p die : Nat) : Option Nat × State :=
  if s.recordFree p die then s.pick (s.freeRecords die) else (none, s)

/-- The input declarations in use: (HREG, HANDLE) (R74). -/
def descIns (b : List Byte) : List (Nat × BitVec 32) :=
  (List.range (slice b 0x0E 1)).map fun i => (slice b (0x44 + 8 * i) 1 % 16, BitVec.ofNat 32 (slice b (0x40 + 8 * i) 4))
/-- The output declarations in use: (HREG, LVL, PG, RDS) (R75). -/
def descOuts (b : List Byte) : List (Nat × Nat × Nat × Nat) :=
  (List.range (slice b 0x0F 1)).map fun i =>
    let n := slice b (0x80 + 8 * i) 8
    (bits n 23 20, bits n 19 18, bits n 17 12, bits n 11 0)
/-- The footprint regions in use (R76). -/
def descFps (b : List Byte) : List Region :=
  (List.range (slice b 0x10 1)).map fun i =>
    let n := slice b (0xA0 + 16 * i) 16
    ⟨bits n 63 0, bits n 103 64 * 256, bit n 127⟩

/-- R77 order 2; a footprint BASE with a bit of [7:0] set fails here too (log entry 43). -/
def descBad (b : List Byte) : Bool :=
  let nin := slice b 0x0E 1
  let nout := slice b 0x0F 1
  let nfp := slice b 0x10 1
  let group := slice b 0x12 2
  8 ≤ slice b 0x0C 1 || slice b 0x11 1 != 0 || 2 ^ 16 ≤ slice b 0x14 4 || slice b 0x2A 6 != 0 || 4095 < slice b 0x28 2 ||
  8 < nin || 4 < nout || 4 < nfp || slice b 0x08 4 % 8 != 0 || (256 ≤ group && group != 0xFFFF) ||
  (List.range 8).any (fun i => let n := slice b (0x40 + 8 * i) 8; if i < nin then n / 2 ^ 36 != 0 else n != 0) ||
  (List.range 4).any (fun i =>
    let n := slice b (0x80 + 8 * i) 8
    if i < nout then n / 2 ^ 24 != 0 || bits n 19 18 = 3 || bits n 17 12 = 0 || 32 < bits n 17 12 || bits n 11 0 = 0 else n != 0) ||
  (List.range 4).any (fun i =>
    let n := slice b (0xA0 + 16 * i) 16
    if i < nfp then bits n 126 104 != 0 || bits n 103 64 = 0 || n % 256 != 0 else n != 0) ||
  !((descIns b).map (·.1) ++ (descOuts b).map (·.1)).Nodup

/-- The largest cap of a partition in any core pool of a die, and the lowest core that has it. -/
def State.largestCap (s : State) (p die : Nat) : Nat × Nat :=
  ((List.range 144).map (die * 144 + ·)).foldl (fun (m : Nat × Nat) c => if m.1 < (s.quota c p).c then ((s.quota c p).c, c) else m) (0, die * 144)
/-- R77 order 5 for one output. -/
def State.outBad (s : State) (p die : Nat) (o : Nat × Nat × Nat × Nat) : Option Exc :=
  let lvl := o.2.1
  let pg := o.2.2.1
  if lvl = 2 then
    if (s.quota (576 + die) p).c < pg then some (exc 0x35 (pg * 2 ^ 32 + 2 ^ 15 + die)) else none
  else
    let m := s.largestCap p die
    if m.1 < pg then some (exc 0x35 (pg * 2 ^ 32 + m.2)) else none

/-! The group table (R91). -/

/-- R91: the table read and checked; the members of its valid entries. -/
def State.groupTable (s : State) (p : Nat) : Except Exc (SMap (List Nat)) :=
  match s.gvRead p (s.part p).gtbase 32768 with
  | .error t => .error t.exc
  | .ok (_, b) =>
    let es := (List.range 256).filterMap fun i => let n := slice b (128 * i) 128; if bit n 576 then some (i, n) else none
    let cores (n : Nat) := (List.range 576).filter (bit n)
    if es.any (fun x => x.2 / 2 ^ 577 != 0 || (cores x.2).any fun c => !s.owns p (clusterOf c)) ||
        (List.range 576).any (fun c => 4 < (es.filter fun x => bit x.2 c).length) then .error (exc 0x5E)
    else .ok (es.map fun x => (x.1, cores x.2))
/-- The members of a group, as the partition's latest LAUNCH found its table. -/
def State.groupCores (s : State) (p group : Nat) : Option (List Nat) := SMap.get? (s.part p).groups group

/-- What a creation comes to; it waits for a record (R70), as one for which its domain has no room does (R82, R440). -/
inductive Made where
  | ok (s : State) (task : Nat) (work : List Work)
  | fail (e : Exc)
  | wait (w : Stall)
  deriving DecidableEq, Repr

/-- What a creation takes from its spawner, or from the LAUNCH packet. `late` says that STAMP is to be DTIME at acceptance (R54);
`dw` is doubleword 0 of the spawning instruction, for TVAL. -/
structure Spawner where
  part : Nat
  die : Nat
  core : Nat
  ptb : Word
  stamp : Word
  launch : Option Nat
  gang : Bool
  root : Bool
  prio : Nat
  group : Nat
  late : Bool := false
  dw : Nat := 0
  deriving DecidableEq, Repr

/-- R77 order 7, R54, R91: of a gang spawn, that its group is in use and holds the spawning core; of a root, that its group names
members. -/
def State.groupFault (s : State) (w : Spawner) (group : Nat) : Option Exc :=
  if w.root then
    if w.group = 0xFFFF || ((s.groupCores w.part w.group).getD []) != [] then none else some (exc 0x5E)
  else if !w.gang || ((s.groupCores w.part group).getD []).contains w.core then none
  else some (exc 0x4B group)
/-- R77, in order, of a descriptor that is aligned and has been read. -/
def State.descFault (s : State) (w : Spawner) (desc : Word) (b : List Byte) : Option Exc :=
  let succ := slice b 0x20 8
  if succ % 8 != 0 then some (exc 0x22 succ)
  else if descBad b then some (exc 0x01 desc.toNat)
  else if slice b 0x0D 1 != w.part || (!w.root && !w.gang && slice b 0x12 2 != 0xFFFF) then some (exc 0x02 w.dw)
  else match s.findObj w.part fun o => o.text.toNat = slice b 0x00 8 with
    | none => some (exc 0x58 (slice b 0x00 8))
    | some _ =>
      match (descOuts b).findSome? (s.outBad w.part w.die) with
      | some e => some e
      | none =>
        match (descIns b).find? fun x => (s.tileOf x.2).isNone with
        | some x => some (exc 0x32 0 (tinfoTile x.2))
        | none => s.groupFault w (slice b 0x12 2)

/-- R218: A set by the search of the object table for CODE, to which the checks of R77 before it lead. -/
def State.descLook (s : State) (w : Spawner) (desc : Word) (b : List Byte) : State :=
  if (s.descFault w desc b).any fun e => e.cause = 0x22 || e.cause = 0x01 || e.cause = 0x02 then s
  else s.readObjs w.part ((s.findObj w.part fun o => o.text.toNat = slice b 0x00 8).map (·.idx))

/-- The holds of a task record on its inputs (R138), or the cause of one that is refused. -/
def State.holdInputs (s : State) (t : Nat) (ins : List (Nat × BitVec 32)) : Except Exc State :=
  ins.foldlM (fun s x => s.holdOr (.task t) x.2) s

/-- The first free record of each die named, `none` when one die has none. -/
def State.records (s : State) (p : Nat) : List Nat → Option (List Nat × State)
  | [] => some ([], s)
  | d :: r =>
    match s.record? p d with
    | (none, _) => none
    | (some t, s1) =>
      match (s1.setTask t { Task.empty with st := .waiting, part := p, die := d, gen := (s.task t).gen }).records p r with
      | none => none
      | some (l, s2) => some (t :: l, s2)

/-- R70 to R78, R82, R83, R91, R92: a task, or the instances of a gang, made from the descriptor's bytes. -/
def State.create (s : State) (w : Spawner) (desc : Word) (b : List Byte) : Made :=
  match s.descFault w desc b with
  | some e => .fail e
  | none =>
    match s.findObj w.part fun o => o.text.toNat = slice b 0x00 8 with
    | none => .fail (exc 0x58 (slice b 0x00 8))
    | some obj =>
      let group := if w.root then w.group else slice b 0x12 2
      let cores := if w.gang then (s.groupCores w.part group).getD [] else []
      let dies := if w.gang then cores.map dieOf else [w.die]
      let dom := w.launch
      let fps := descFps b
      if dom.isSome && fps != [] && 4096 ≤ (s.members.filter fun m => some m.dom = dom).length then .wait .record
      else match s.records w.part dies with
        | none => .wait .record
        | some (ts, s1) =>
          let ins := descIns b
          let (s2, memb, edges) := match dom with | some d => s1.memberEnter d fps | none => (s1, none, 0)
          let gid := s2.nextId
          let live := slice b 0x14 2 + ((ins.filter fun x => match s.tileOf x.2 with
            | some tk => (s.tile tk).st = .alloc
            | none => false).length) + edges
          let lead := ts.headD 0
          let base : Task := { Task.empty with
            st := .waiting, part := w.part, die := dies.headD w.die, desc := desc, code := obj.text, obj := obj.idx,
            entry := slice b 0x08 4, prio := if w.root then w.prio else slice b 0x0C 1, ins := ins, outs := descOuts b, fps := fps,
            args := (List.range 4).map fun i => word (slice b (0xE0 + 8 * i) 8), succ := word (slice b 0x20 8),
            nsucc := slice b 0x28 2, compl := word (slice b 0x30 8),
            stamp := if slice b 0x38 8 != 0 then word (slice b 0x38 8) else w.stamp, late := w.late && slice b 0x38 8 = 0,
            ptab := if slice b 0x18 8 != 0 && !w.root then word (slice b 0x18 8) else w.ptb,
            group := if w.gang then group else 0xFFFF, launch := w.launch, memb := memb }
          let s3 := ((List.range ts.length).zip ts).foldl (fun s (x : Nat × Nat) =>
            (s.newTask x.2 { base with
              die := dies.getD x.1 w.die, live := if x.1 = 0 then live else 0,
              gang := if w.gang then some (gid, x.1, ts.length) else none }).addRef w.part obj.idx true) { s2 with nextId := gid + 1 }
          let s4 := if w.gang then { s3 with gangs := SMap.put s3.gangs gid ⟨w.part, group, cores, ts, 0, []⟩ } else s3
          let s5 := match w.launch with
            | some l => match SMap.get? s4.launches l with
              | some x => { s4 with launches := SMap.put s4.launches l { x with left := x.left + ts.length } }
              | none => s4
            | none => s4
          match ts.foldlM (fun s t => State.holdInputs s t ins) s5 with
          | .error e => .fail e
          | .ok s6 => .ok s6 lead [.ready lead]

/-! Outputs, cores and slots. -/

/-- R88: the outputs of a task on a core, all or nothing; a requeued task has them already (R117). They have the
pages that remain in this bclk (R142). -/
def State.allocOutputs (s : State) (t core : Nat) : Option State :=
  let x := s.task t
  if x.outH != [] then some s
  else x.outs.foldlM (fun s o =>
    let lvl := o.2.1
    let pg := o.2.2.1
    let pool := if lvl = 2 then 576 + dieOf core else core
    if !s.grantableAfter (s.granting pool) pool x.part pg then none
    else
      let (s', h) := s.allocTile pool lvl x.part pg o.2.2.2 x.stamp (.task t) (taskOwner t) (.task t)
      some (s'.modTask t fun y => { y with outH := y.outH ++ [h] })) s

/-- The deque of a core, newest first. -/
def State.deque (s : State) (core : Nat) : List Ent := SMap.getD s.deques core []
def State.setDeque (s : State) (core : Nat) (l : List Ent) : State := { s with deques := SMap.put s.deques core l }

/-- The home of the tiles that a task holds: the cluster of the first one in a core pool, or else the die of one in a die pool. -/
def State.heldHome (s : State) (t : Nat) : Home :=
  let pools := ((s.heldBy (.task t)).filterMap s.tileOf).map (· / 8192)
  match pools.find? (· < 576), pools.head? with
  | some c, _ => .cluster (clusterOf c)
  | none, some d => .die (d - 576)
  | none, none => .any
/-- Where a task goes on: at its home, at that of the tiles that it holds when it resumes from an image (log entry 30), and a
continuation anywhere on its die (R89). -/
def State.goesTo (s : State) (t : Nat) : Home :=
  let x := s.task t
  match x.resume, s.homeOf x with
  | .record _, _ => .any
  | .image _, .any => s.heldHome t
  | _, h => h
/-- A task that goes on from an image goes anywhere where its home has passed to another partition (R61). -/
def State.movedOn (s : State) (t : Nat) : Bool := match (s.task t).resume with | .image _ => true | _ => false
/-- The candidate cores of a task: those of its home, or the partition's on the die (R89); of an instance of a gang, its member
core (R92, log entry 42). -/
def State.homeCores (s : State) (die t : Nat) : List Nat :=
  let x := s.task t
  match s.memberCore x, s.goesTo t with
  | some c, _ => [c]
  | none, .cluster c => if s.owns x.part c then coresOf c else if s.movedOn t then s.coresOn x.part die else []
  | none, _ => s.coresOn x.part die

/-! Rule keepers (R188). -/

/-- The READY rule of lowest RANK of a keeper. -/
def State.keeperReady (s : State) (id : Nat) : Option (Nat × Rule) :=
  ((s.rulesOf (.keeper id)).filter fun x => x.2.st = .armed && s.ruleReady (.keeper id) x.1 x.2).foldl (fun m x => match m with
    | some y => if x.2.rank < y.2.rank then some x else m
    | none => some x) none
/-- The home of a keeper: the cluster of the input slice of its READY rule of lowest RANK, or the die of a slice in a die pool. -/
def State.keeperHome (s : State) (id : Nat) : Home :=
  match (s.keeperReady id).bind fun x => ((s.inputTiles (s.keeper id).part x.2).filterMap s.tileOf).head? with
  | some tk => if tk / 8192 < 576 then .cluster (clusterOf (tk / 8192)) else .die (tk / 8192 - 576)
  | none => .any
/-- The cores that a keeper may go to. -/
def State.keeperCores (s : State) (id : Nat) : List Nat :=
  let x := s.keeper id
  match s.keeperHome id with
  | .cluster c => if s.owns x.part c then coresOf c else []
  | h => s.coresOn x.part (h.dieOr x.die)
/-- A keeper outside the slots that is READY, and whose image can be read. -/
def State.keeperWants (s : State) (id : Nat) : Bool :=
  let x := s.keeper id
  x.at_.isNone && (s.keeperReady id).isSome &&
    (List.range 7).all fun i => s.pagePresent x.part (s.saveAddr x.part x.save + word (65536 * i))
/-- An entry of the Pithead or of a deque that is to stay there: that of a keeper, while the keeper is READY. -/
def State.entStays (s : State) : Ent → Bool
  | .keeper id => s.keeperWants id
  | _ => true
/-- A READY keeper enters the Pithead of the die of its slice at its priority, like a continuation. -/
def State.keeperEnter (s : State) (id : Nat) : State :=
  if !s.keeperWants id || s.pithead.any (·.ent = .keeper id) || s.deques.any (·.2.contains (.keeper id)) then s
  else s.enqueue ((s.keeperHome id).dieOr (s.keeper id).die) (s.keeper id).part (s.keeper id).prio (.keeper id)
/-- In every bclk the keepers that have become READY enter, and the entries of those that no longer are go. -/
def State.keepersIn (s : State) : State :=
  if s.keepers = [] then s
  else (SMap.keys s.keepers).foldl State.keeperEnter { s with
    pithead := s.pithead.filter fun e => s.entStays e.ent, deques := s.deques.map fun d => (d.1, d.2.filter s.entStays) }
/-- The partition and the candidate cores of an entry that a deque can take. -/
def State.entPart (s : State) : Ent → Nat
  | .keeper id => (s.keeper id).part
  | e => (s.task ((s.entTasks e).headD 0)).part
def State.entCores (s : State) (die : Nat) : Ent → List Nat
  | .keeper id => s.keeperCores id
  | .task t => s.homeCores die t
  | .gang _ => []
/-- R89: the core with the fewest deque entries among those with a free place, the lowest first. -/
def State.pickCore (s : State) (die : Nat) (e : Ent) : Option Nat :=
  ((s.entCores die e).filter fun c => (s.deque c).length < 4 && !s.leaving (s.entPart e) (clusterOf c)).foldl (fun m c => match m with
    | none => some c
    | some d => if (s.deque c).length < (s.deque d).length then some c else m) none

/-- LAUNCH (R330). -/
def State.launchReg (s : State) (x : Task) : Word :=
  match x.launch with
  | none => 0
  | some l => match SMap.get? s.launches l with
    | some y => word (y.die * 2 ^ 32 + l % 2 ^ 32)
    | none => 0

/-- The handles of R74 and R75 in their registers. -/
def Task.handles (x : Task) : SMap (BitVec 32) :=
  (x.ins ++ (x.outs.map (·.1)).zip x.outH).foldl (fun m y => SMap.put m y.1 y.2) []

/-- R94, R127, R302: the context of a task at its entry; LTB and TVEC are those of the object at CODE. -/
def State.entryCtx (s : State) (t : Nat) : Ctx :=
  let x := s.task t
  let pc := x.code + word x.entry
  let obj := s.obj x.part x.obj
  let (i, n) := match x.gang with | some (_, i, n) => (i, n) | none => (0, 1)
  { Ctx.empty with
    slot := .res, task := t, taskR := taskWord t, part := x.part, prio := x.prio, pc := pc, etb := pc - 32, ph := x.handler,
    s := [(1, x.args.getD 0 0), (2, x.args.getD 1 0), (3, x.args.getD 2 0), (4, x.args.getD 3 0), (5, word i), (6, word n)],
    h := x.handles, ptb := x.ptab, ltb := (obj.map (·.ltb)).getD 0, tvec := (obj.map (·.tvec)).getD 0, stamp := x.stamp, launch := s.launchReg x,
    since := s.bclk, wd := s.bclk, wdFired := x.warned, started := s.bclk }

/-- R313: an object that a reference names is not LIVE: its TEXT. -/
def State.deadObj (s : State) (p i : Nat) : Option Word :=
  if (s.obj p i).isSome then none else some (word ((s.peek p (s.objAddr p i + 8) 8).getD 0))
/-- The objects that a task's start needs: that of its CODE, that of its record, also of one which a resume has read already, and
those of its image. -/
def State.startObjs (s : State) (t : Nat) : List Nat :=
  let x := s.task t
  [x.obj] ++ x.recObj.toList ++ (match x.resume with
    | .image sk => ((SMap.get? s.saves sk).map (s.trailerObjs sk)).getD []
    | .record _ => x.restartObj.toList
    | .fresh => [])
/-- R313: they are LIVE; otherwise the task is cancelled with 0x58. -/
def State.startFault (s : State) (t : Nat) : Option Word := (s.startObjs t).findSome? (s.deadObj (s.task t).part)
/-- R218: A set by the looks at the entries of some objects. -/
def State.readEach (s : State) (p : Nat) (l : List Nat) : State := l.foldl (fun s i => s.markRead p (s.objAddr p i) 128) s

/-- A partition fault event, then the cancellation of a task with that cause. -/
def State.cancelWith (s : State) (t core : Nat) (e : Exc) : State :=
  let x := s.task t
  State.work (s.partEvent x.part (dieOf core) e.cause.toNat 0 core e.tval e.tinfo, [.cancel t e.cause.toNat true])

/-- R313: an object that a keeper's image names and that is not LIVE any more. -/
def State.keeperDead (s : State) (id : Nat) : Option Word :=
  let x := s.keeper id
  (((SMap.get? s.saves (saveKey x.part x.save)).map (s.trailerObjs (saveKey x.part x.save))).getD []).findSome? (s.deadObj x.part)
/-- A keeper that cannot be loaded: its rules are revoked, and the partition is told. -/
def State.keeperFails (s : State) (id core cause : Nat) (i0 : Word) : State :=
  let x := s.keeper id
  let s1 := State.work (forEach (SMap.keys (s.rulesOf (.keeper id))) s fun s k => s.endRule (.keeper id) k)
  s1.partEvent x.part (dieOf core) cause 0 core i0 0
/-- A keeper is placed in a free slot, where its image is loaded; with an object gone, its rules are revoked. -/
def State.placeKeeper (s : State) (key id : Nat) : State :=
  let x := s.keeper id
  if s.held.any fun h => match h with | .ruleEnd o _ => o = .keeper id | _ => false then s
  else match s.keeperDead id with
  | some a => s.keeperFails id (coreOf key) 0x58 a
  | none =>
    (s.setCtx key { Ctx.empty with
      slot := .load, keeper := some id, part := x.part, prio := x.prio, since := s.bclk, wd := s.bclk,
      image := some (saveKey x.part x.save) }).setKeeper id { x with at_ := some key, lastFire := s.bclk }
/-- R72: a task is placed in a free slot. A fresh one runs from its entry; a record or an image is first loaded. -/
def State.place (s : State) (key t : Nat) : State :=
  match s.startFault t with
  | some a => s.cancelWith t (coreOf key) (exc 0x58 a.toNat)
  | none =>
    let x := s.task t
    let s1 := (s.readEach x.part (s.startObjs t)).modTask t fun y => { y with st := .running, page := none }
    match x.resume with
    | .fresh => (s1.setCtx key (s1.entryCtx t)).promote (coreOf key)
    | _ => s1.setCtx key { Ctx.empty with slot := .load, task := t, part := x.part, prio := x.prio, since := s.bclk, wd := s.bclk }
/-- The entry starts from no image and no record. -/
def State.startsFresh (s : State) : Ent → Bool
  | .keeper _ => false
  | e => (s.entTasks e).all fun t => (s.task t).resume = .fresh
/-- An entry may be placed on a core now: a slot is free, for a load no image moves there, and the object table is not under
migration (R226). -/
def State.placeable (s : State) (core : Nat) (e : Ent) : Option Nat :=
  if s.leaving (s.entPart e) (clusterOf core) || s.objsMoving (s.entPart e) then none
  else if s.startsFresh e || s.imageFree core then s.freeSlot core else none
/-- An entry of a deque is placed. -/
def State.placeEnt (s : State) (key : Nat) : Ent → State
  | .task t => s.place key t
  | .keeper id => s.placeKeeper key id
  | .gang _ => s

/-! Dispatch (R86 to R92). -/

/-- The tasks of a gang and their cores. -/
def State.gangPairs (s : State) (g : Nat) : List (Nat × Nat) :=
  match SMap.get? s.gangs g with
  | some x => (x.tasks.zip x.cores).filter fun y => match (s.task y.1).gang with
    | some (g', _, _) => g' = g && (s.task y.1).live?
    | none => false
  | none => []
/-- Those of them that start with the gang's entry: the READY ones that have no entry of their own. -/
def State.gangReady (s : State) (g : Nat) : List (Nat × Nat) :=
  (s.gangPairs g).filter fun x => (s.task x.1).st = .ready && !s.pithead.any (·.ent = .task x.1)
/-- R92: the start of a gang. -/
def State.gangStart (s : State) (g : Nat) : Option State :=
  let l := s.gangReady g
  if l = [] || !l.all (fun x => (s.placeable x.2 (.task x.1)).isSome) then none
  else match l.foldlM (fun s (x : Nat × Nat) => s.allocOutputs x.1 x.2) s with
    | none => none
    | some s1 =>
      some (l.foldl (fun s x => match s.placeable x.2 (.task x.1) with
        | some k => s.place k x.1
        | none => s) { s1 with pithead := s1.pithead.filter (·.ent != Ent.gang g) })

/-- R313: a task that an entry would start and that names an object which is not LIVE, with that object's TEXT. -/
def State.entFault (s : State) (e : Ent) : Option (Nat × Word) :=
  let starts : List Nat := match e with | .gang g => (s.gangReady g).map (·.1) | .task t => [t] | .keeper _ => []
  starts.findSome? fun t => (s.startFault t).map fun a => (t, a)
/-- Such a task is cancelled instead of starting. -/
def State.cancelDead (s : State) (die t : Nat) (a : Word) : State :=
  State.work ((s.readEach (s.task t).part (s.startObjs t)).partEventAny (s.task t).part die 0x58 0 a, [.cancel t 0x58 true])
/-- An entry leaves the Pithead for the deque of a core. -/
def State.toDeque (s : State) (core : Nat) (e : Ent) : State :=
  (({ s with pithead := s.pithead.filter (·.ent != e) } : State).setDeque core (e :: s.deque core)).takeIn
/-- A task of the entry is to be cancelled, once a firing has ended (R184). -/
def State.entPends (s : State) (e : Ent) : Bool := (s.entTasks e).any fun t => (s.task t).pend.isSome
/-- R88, R89, R313: one entry tried. A gang, and an instance of one that goes back alone, goes straight to its slots (R92). -/
def State.tryEntry (s : State) (die : Nat) (e : PEntry) : Option State :=
  if s.objsMoving e.part || s.entPends e.ent then none
  else match s.entFault e.ent, e.ent with
  | some (t, a), _ => some (s.cancelDead die t a)
  | none, .gang g => s.gangStart g
  | none, .keeper id => match s.keeperDead id with
    | some a => some (s.keeperFails id (die * 144) 0x58 a)
    | none => (s.pickCore die e.ent).map fun c => s.toDeque c e.ent
  | none, .task t =>
    match s.memberCore (s.task t) with
    | some c => match s.placeable c e.ent, s.allocOutputs t c with
      | some key, some s1 => some ((({ s1 with pithead := s1.pithead.filter (·.ent != e.ent) } : State).place key t).takeIn)
      | _, _ => none
    | none =>
      match s.pickCore die e.ent with
      | none => none
      | some c => (s.allocOutputs t c).map fun s1 => (s1.modTask t fun x => { x with st := .queued }).toDeque c e.ent
/-- R89: the dispatch of one partition on a die. -/
def State.tryDispatch (s : State) (p die : Nat) : Option State :=
  ((List.range 8).reverse.flatMap fun lvl => ((s.inPithead die p).filter (·.level = lvl)).take 4).findSome? (s.tryEntry die)

/-- The oldest entry of the highest level of a partition's Pithead on a die that is not empty (R90, R92). -/
def State.topEntry (s : State) (die p : Nat) : Option PEntry :=
  let l := s.inPithead die p
  l.find? (·.level = l.foldl (fun m e => max m e.level) 0)
/-- R92: a gang that is the oldest entry of its partition's highest level keeps its cores from starting deque entries. -/
def State.reservedCore (s : State) (core : Nat) : Bool :=
  (List.range 4).any fun die => (List.range 8).any fun p =>
    match Option.map PEntry.ent (s.topEntry die p) with
    | some (.gang g) => (s.gangReady g).any (·.2 = core)
    | _ => false

/-- The priority of an entry of a deque. -/
def State.entPrio (s : State) : Ent → Nat
  | .keeper id => (s.keeper id).prio
  | e => (s.task ((s.entTasks e).headD 0)).prio
/-- R340, second case: the work that waits and that the slot of a yielding context takes: the oldest such entry of its core's deque,
unless a gang keeps the core (R92), or the oldest of the highest level of the Pithead. -/
def State.workFor (s : State) (key : Nat) : Option Ent :=
  let c := s.ctx key
  let core := coreOf key
  match (if s.reservedCore core then [] else (s.deque core).reverse).find? fun e => c.prio ≤ s.entPrio e with
  | some e => some e
  | none => ((List.range 8).reverse.flatMap fun lvl => (s.inPithead (dieOf core) c.part).filter (·.level = lvl)).findSome? fun e =>
    if c.prio ≤ e.level && (s.entCores e.die e.ent).contains core && (match e.ent with
      | .task t => (s.allocOutputs t core).isSome
      | _ => true) then some e.ent else none

/-- R120, R93: a context is pre-empted with every instance of its gang; `none` where R113 forbids it. -/
def State.preempt (s : State) (key : Nat) : Option State := s.stopTask (s.ctx key).task .preempted false

/-! Successors and the end of a task (R79, R95). -/

/-- R79: the oldest WAITING task of a partition created from a descriptor address. -/
def State.oldestFrom (s : State) (p : Nat) (desc : Word) : Option Nat :=
  ((s.tasks.filter fun x => x.2.st = .waiting && x.2.part = p && x.2.desc = desc && x.2.lead).foldl
    (fun (m : Option (Nat × Nat)) x => match m with
      | some (q, _) => if x.2.seq < q then some (x.2.seq, x.1) else m
      | none => some (x.2.seq, x.1)) none).map (·.2)

/-- R79. -/
def State.successors (s : State) (t core : Nat) : State :=
  let x := s.task t
  (List.range x.nsucc).foldl (fun s i =>
    let a := x.succ + word (8 * i)
    match s.gvRead x.part a 8 with
    | .ok (s', b) =>
      match s'.oldestFrom x.part (word (leNat b)) with
      | some u => State.work (s', [.dec u])
      | none => s'
    | .error e => s.partEvent x.part (dieOf core) e.exc.cause.toNat 0 core a x.compl) s

/-- R95 step 3 (R155): outputs that a task leaves uncommitted: an event each, then an uncommitted free. -/
def State.uncommitted (s : State) (t core : Nat) : State × List Work :=
  let mine := (s.heldBy (.task t)).filter fun h => match s.tileOf h with
    | some tk => (s.tile tk).owner = .task t && (s.tile tk).st = .alloc
    | none => false
  forEach mine s fun s h =>
    let pg := match s.tileOf h with | some tk => (s.tile tk).pg | none => 0
    (s.partEvent (s.task t).part (dieOf core) 0x33 0 core (word pg) (word (tinfoTile h))).freeUncommitted h

/-- R95 step 2: the implicit reads of the declared inputs; one that finds no read left, in a tile that its last read has
freed too, sends 0x30. -/
def State.implicitReads (s : State) (t core : Nat) : State :=
  let spent (s : State) (h : BitVec 32) : State := s.partEvent (s.task t).part (dieOf core) 0x30 0 core 0 (word (tinfoTile h))
  (s.task t).ins.foldl (fun s x => match s.tileOf x.2 with
    | none => spent s x.2
    | some tk => if (s.tile tk).rem = 0 then spent s x.2 else s.consumeNow tk 1) s

/-- R95, steps 2 and 3, of a task whose region has committed; they are not made twice. -/
def State.endReads (s : State) (key : Nat) : State :=
  let t := (s.ctx key).task
  let core := coreOf key
  State.work (((s.implicitReads t core).modTask t fun x => { x with ins := [] }).uncommitted t core)
/-- An input of a task is a tile on its way, at which the implicit reads stall (R149). -/
def State.inputMoving (s : State) (t : Nat) : Bool :=
  (s.task t).ins.any fun x => match s.tileOf x.2 with | some tk => (s.tile tk).moving | none => false
/-- R95, steps 4 to 7, of a task whose rules have passed to a keeper; its holds pass to those rules, or are released (R138). -/
def State.finishTask (s : State) (key : Nat) : State :=
  let t := (s.ctx key).task
  let x := s.task t
  let core := coreOf key
  let s2 := s.passToKeepers t
  let s3 := (s2.heldBy (.task t)).foldl (fun s h => s.dropHold (.task t) h false) s2
  let all := (s3.instances t).filter fun i => i != t && (s3.task i).live?
  let last := all = []
  let s4 := if last then State.work (s3.memberEnd x.memb) else s3
  let s5 := if last then s4.successors t core else s4
  let s6 := (s5.freeCtx key).freeTask t .ended
  let s7 := match x.gang with
    | some (g, _, _) => if last then { s6 with gangs := SMap.del s6.gangs g } else s6
    | none => s6
  let s8 := if last then State.work (s7, [.resolve x.part x.compl false 0]) else s7
  State.work (s8.launchLess x.launch none)

end Sys2Proof.Machine
end

