-- ==== Sys2Proof/Machine/Control.lean ====
section
/-! DEFINITION. Computed transfers (R326, R327) and the SY engine: special registers, traps and return, records, yield, the
feature check and cache maintenance (R330 to R343). -/

namespace Sys2Proof.Machine
open Sys2Proof

/-! Computed transfers. -/

/-- The LIVE object whose text holds a target, or 0x06 and 0x58 (R304, R326). -/
def targetObj (t : Word) : M Obj := do
  let c ← getC
  let s ← getS
  check (t.toNat % 8 = 0) 0x06 t.toNat
  match s.objFor c t with
  | some o => do
    modS fun s => s.readObjs c.part (some o.idx)
    pure o
  | none => raise 0x58 t.toNat
/-- A frame pushed and the callee entered: ETB, LTB and the pc (R260, R304). -/
def enter (ret t : Word) (o : Obj) : M Unit :=
  modC fun c => { c.push ret with etb := t - 32, exits := [], ltb := o.ltb, pc := t }

def execJmpr (o : A1) (s : State) : Host.Outcome State Fault Refusal :=
  plain (.jmpr o) (do
    let t ← rdS o.a
    let x ← targetObj t
    modC fun c => { c with pc := t, ltb := x.ltb }) s

def execCallr (o : A1) (s : State) : Host.Outcome State Fault Refusal :=
  plain (.callr o) (do
    let t ← rdS o.a
    let x ← targetObj t
    let c ← getC
    check (c.depth < 16) 0x08 t.toNat
    enter (c.pc + 8) t x) s

def execCallx (o : CallxO) (s : State) : Host.Outcome State Fault Refusal :=
  plain (.callx o) (do
    let c ← getC
    check (c.depth < 16) 0x08
    check (c.ltb != 0) 0x5D
    let i ← immZ o.p o.imm
    let e := c.ltb + c.reg o.a + i
    check (e.toNat % 8 = 0) 0x22 e.toNat
    let t := word (leNat (← gvLoad e 8))
    check (t != 0 && t.toNat % 8 = 0) 0x5D e.toNat
    let x ← targetObj t
    wrS 31 e
    enter (c.pc + 8) t x) s

/-! Special registers (R330 to R334). -/

/-- The value of a special register; `none` where the number names none. -/
def State.special (s : State) (c : Ctx) (key n : Nat) : Option Word :=
  match n with
  | 0x00 => some s.dtime
  | 0x01 => some s.fver
  | 0x02 => some (word key)
  | 0x03 => some (word (coreOf key))
  | 0x04 => some (word c.part)
  | 0x05 => some c.fpc
  | 0x06 => some c.fps
  | 0x07 => some c.stamp
  | 0x08 => some c.tcause
  | 0x09 => some c.tpc
  | 0x0A => some c.tval
  | 0x0B => some c.tinfo
  | 0x0C => some c.tvec
  | 0x10 => some c.ptb
  | 0x11 => some c.ltb
  | 0x12 => some c.taskR
  | 0x13 => some c.launch
  | 0x20 => some ((c.loopc 0).zeroExtend 64)
  | 0x21 => some ((c.loopc 1).zeroExtend 64)
  | 0x22 => some ((c.loopc 2).zeroExtend 64)
  | 0x23 => some ((c.loopc 3).zeroExtend 64)
  | _ => none

/-- A special register written; its checks have passed. Reserved bits keep their zeros. -/
def Ctx.putSpecial (c : Ctx) (n : Nat) (v : Word) : Ctx :=
  match n with
  | 0x05 => { c with fpc := v &&& 0x1F07 }
  | 0x06 => { c with fps := v &&& 0x1F }
  | 0x07 => { c with stamp := v }
  | 0x08 => { c with tcause := v &&& 0xFFF }
  | 0x09 => { c with tpc := v }
  | 0x0A => { c with tval := v }
  | 0x0B => { c with tinfo := v }
  | 0x0C => { c with tvec := v }
  | 0x10 => { c with ptb := v, patch := [] }
  | 0x20 => c.setLoopc 0 (v.setWidth 32)
  | 0x21 => c.setLoopc 1 (v.setWidth 32)
  | 0x22 => c.setLoopc 2 (v.setWidth 32)
  | 0x23 => c.setLoopc 3 (v.setWidth 32)
  | _ => c

/-- R330: a write of the register is permitted in the context's mode. -/
def Ctx.mayPut (c : Ctx) (n : Nat) : Bool :=
  match n with
  | 0x00 | 0x01 | 0x02 | 0x03 | 0x04 | 0x11 | 0x12 | 0x13 => false
  | 0x08 | 0x09 | 0x0A | 0x0B => c.th || c.ph
  | 0x10 => c.ph
  | _ => true
/-- The number names a special register. -/
def isSpecial (n : Nat) : Bool := n ≤ 0x0C || (0x10 ≤ n && n ≤ 0x13) || (0x20 ≤ n && n ≤ 0x23)

def execMfs (q : Seqn) (o : MfsO) (s : State) : Host.Outcome State Fault Refusal :=
  plain (.mfs q o) (do
    let s ← getS
    let c ← getC
    match s.special c s.cur o.srn.toNat with
    | none => raise 0x01 (dw0 (.mfs q o))
    | some v =>
      if o.srn = 0x06 && c.mx != [] then waitOn .engine else wrS o.d v) s

def execMts (q : Seqn) (o : MtsO) (s : State) : Host.Outcome State Fault Refusal :=
  retire (.mts q o) (do let c ← getC; check (c.mayPut o.srn.toNat) 0x02 (dw0 (.mts q o))) (do
    let n := o.srn.toNat
    let v ← rdS o.a
    check (isSpecial n) 0x01 (dw0 (.mts q o))
    check (n != 0x05 || v.toNat % 8 < 5) 0x17 (v.toNat % 8)
    check (n != 0x0C || v.toNat % 8 = 0) 0x06 v.toNat
    check (n != 0x10 || v.toNat % 8 = 0) 0x22 v.toNat
    modC fun c => c.putSpecial n v
    pure true) s

/-! Traps (R335, R336). -/

/-- R335: the context as the sequencing of a `trap` leaves it, untested; a return without a frame has no stated address, and
goes to a free one (log entry 17). -/
def State.landing (s : State) (c : Ctx) (q : Seqn) (after : Word) : Ctx × State :=
  let ti := q.ti.toNat
  let t := c.exit ti
  match q.nxt.toNat with
  | 1 => (if c.governs q.pr then { c with pc := t } else { c with pc := after }, s)
  | 2 => (if c.governs q.pr then { c with pc := after } else { c with pc := t }, s)
  | 3 =>
    if !c.governs q.pr then ({ c with pc := after }, s)
    else ({ (if c.depth < 16 then c.push after else c) with etb := t - 32, exits := [], pc := t }, s)
  | 4 =>
    if !c.governs q.pr then ({ c with pc := after }, s)
    else if c.depth = 0 then
      let (v, s') := s.fresh
      ({ c with pc := word v }, s')
    else
      let f := SMap.getD c.calls (c.depth - 1) (0, 0)
      ({ c with depth := c.depth - 1, etb := f.2, exits := [], pc := f.1 }, s)
  | 5 =>
    let n := c.loopc (ti % 4)
    if n = 0 then ({ c with pc := after }, s)
    else ({ (c.setLoopc (ti % 4) (n - 1)) with pc := if n = 1 then after else t }, s)
  | _ => ({ c with pc := after }, s)

def execTrap (q : Seqn) (o : TrapO) (s : State) : Host.Outcome State Fault Refusal :=
  let key := s.cur
  let pc := (s.ctx key).pc
  match immZ o.p o.imm s with
  | .error x => .next (s.stopped s key 6 pc x)
  | .ok (v, s1) =>
    let (c, s2) := s1.landing (s1.ctx key) q (pc + 8)
    .next ((s2.setCtx key c).trapEnter key (exc 0x0C v.toNat) 6 false c.pc)

def execEret (s : State) : Host.Outcome State Fault Refusal :=
  let key := s.cur
  let pc := (s.ctx key).pc
  if !(s.ctx key).th then .next (s.trapEnter key (exc 0x02 (dw0 .eret)) 6 false pc)
  else match s.trapReturn key with
    | (s1, none) => .next (s1.modCtx key Ctx.moved)
    | (s1, some e) => .next (s1.trapEnter key e 6 false pc)

/-! Records (R337 to R339). -/

/-- The context as the sequencing of an instruction that writes a record leaves it; a transfer that R263 refuses raises its
cause before the effect. -/
def selected (q : Seqn) : M Ctx := do
  let c ← getC
  let s ← getS
  modS fun s => s.looked c q
  match s.sequence c q (c.pc + 8) with
  | .go c' => pure c'
  | .stop => pure { c with pc := c.pc + 8 }
  | .fault _ e => raiseE e

/-- LIVE of `suspend`, `cmt` and `futw`. -/
def liveMask (hi : BitVec 4) (lo : BitVec 27) : Nat := hi.toNat * 2 ^ 28 + lo.toNat * 2

/-- R337: the checks of a record's address. -/
def recordChecks (a : Word) (live : Nat) : M Unit := do
  let c ← getC
  check (c.depth = 0 && !c.th) 0x0A c.depth
  check (a.toNat % 256 = 0) 0x22 a.toNat
  check (popcount 32 live ≤ 16) 0x0B live

/-- An access after a region's commit; a missing page parks the context (R227). -/
def directly {α : Type} (m : M α) : M α := fun s =>
  match m s with
  | .error (.page e b) => .error (.commit e b)
  | r => r
/-- A direct store of a record's bytes (R337). -/
def recordStore (a : Word) (bs : List Byte) : M Unit := do
  let (k, _, _) ← directly (gvPage a .wr)
  modS fun s => s.store k bs

/-- R309: the reference of the record that a task now keeps. -/
def State.recordRef (s : State) (t : Nat) (pc : Word) : State :=
  let x := s.task t
  let new := (s.objAt x.part pc).map (·.idx)
  let s0 := s.readObjs x.part new
  let s1 := match x.recObj with | some o => s0.addRef x.part o false | none => s0
  (match new with | some o => s1.addRef x.part o true | none => s1).modTask t fun y => { y with recObj := new, restartObj := none }

/-- R337: the region commits, and the record is written at `a` for the context that sequencing selects. -/
def writeRecord (q : Seqn) (a : Word) (live wake : Nat) (fut : Word) : M Unit := do
  let c ← getC
  if c.mx != [] then waitOn .engine
  let n ← selected q
  commitM
  pinned (do
    let s ← getS
    recordStore a (n.record (s.task n.task) n.pc live wake fut.toNat 0 s.dtime)
    modS fun s => s.recordRef n.task n.pc)

/-- R338: the context gives up its slot; its record is what resumes. `st` is the task's new state. -/
def leaveSlot (a : Word) (st : TaskSt) : M Unit := fun s =>
  let key := s.cur
  match s.handover key with
  | none => .error (.wait .record none)
  | some s1 =>
    let c := s1.ctx key
    .ok ((), (s1.freeCtx key).modTask c.task fun x =>
      { x with st := st, resume := .record a, h := c.h, die := dieOf (coreOf key), warned := false })

def execSuspend (q : Seqn) (o : RecO) (s : State) : Host.Outcome State Fault Refusal :=
  leaving (.suspend q o) (do
    let a ← rdS o.a
    let live := liveMask o.liveHi o.liveLo
    if a != 0 then recordChecks a live
    check (a != 0) 0x22
    let c ← getC
    writeRecord q a live 0 0
    leaveSlot a .ready
    modS fun s => let x := s.task c.task; s.enqueue x.die x.part x.prio (.task c.task)
    pure true) s

def execCmt (q : Seqn) (o : RecO) (s : State) : Host.Outcome State Fault Refusal :=
  plain (.cmt q o) (do
    let a ← rdS o.a
    let live := liveMask o.liveHi o.liveLo
    if a = 0 then
      commitM
      modC fun c => { c with direct := true }
    else
      recordChecks a live
      writeRecord q a live 3 0
      let c ← getC
      modS fun s => s.modTask c.task fun x => { x with restart := some a, restartH := c.h }
      modC fun c => { c with direct := false }
    modS fun s => s.modCtx s.cur fun c => { c with wd := s.bclk, wdFired := false }) s

/-- R340, after the instruction has retired. The slot of a pre-empted context takes the work that waits; `none` while its image
cannot move on the core or a rule of it fires (R109, R179). Without a free slot in the save area no context is pre-empted
(R113). -/
def State.yieldAfter (s : State) (key : Nat) : Option State :=
  let c := s.ctx key
  if c.slot != .run || c.ending then some s
  else match s.switchTo (coreOf key) with
    | some k => some (s.runNow k)
    | none => match s.workFor key with
      | none => some s
      | some e =>
        if !s.movable (((s.instances c.task).filterMap s.slotOfTask)) then none
        else some (((s.preempt key).map fun s1 => s1.modCtx key fun c => { c with heir := some e }).getD s)

def execYield (q : Seqn) (s : State) : Host.Outcome State Fault Refusal :=
  match plain (.yield q) (pure ()) s with
  | .next s1 => .next ((s1.yieldAfter s.cur).getD (s.block s.cur .engine))
  | r => r

/-! Feature check and cache maintenance (R341 to R343). -/

def execFchk (q : Seqn) (o : D1) (s : State) : Host.Outcome State Fault Refusal :=
  plain (.fchk q o) (do
    let s ← getS
    let c ← getC
    let x := s.objFor c c.pc
    modS fun s => s.readObjs c.part (x.map (·.idx))
    modC fun c' => c'.setPrd o.d.toNat (x.any fun x => x.lfver == s.fver)) s

/-- `cwb` changes no value that any read returns. -/
def execCwb (q : Seqn) (o : CwbO) (s : State) : Host.Outcome State Fault Refusal := plain (.cwb q o) (pure ()) s

/-- R248, R343, R311: the instruction caches drop the doublewords of a partition's range; of 0 bytes, of its whole space. -/
def State.dropText (s : State) (p : Nat) (a : Word) (n : Nat) : State :=
  { s with icache := s.icache.filter fun x => x.1 / 2 ^ 64 != p || (n != 0 && n ≤ (word x.1 - a).toNat && 8 ≤ (a - word x.1).toNat) }
/-- `cinv`: every walk is made afresh (log entry 9), so that the forms for translations have nothing to drop. -/
def execCinv (q : Seqn) (o : CinvO) (s : State) : Host.Outcome State Fault Refusal :=
  retire (.cinv q o) (do let c ← getC; check c.ph 0x02 (dw0 (.cinv q o))) (do
    check (o.kind != 3) 0x01 (dw0 (.cinv q o))
    let a ← rdS o.a
    let n ← rdS o.b
    commitM
    if o.kind != 0 then modS fun s => s.dropText (s.ctx s.cur).part a n.toNat
    pure true) s

end Sys2Proof.Machine
end

