-- ==== Sys2Proof/Machine/Memory.lean ====
section
/-! DEFINITION. The MM engine: loads and stores, atomics, waits, semaphores, barriers and futures (R344 to R367), and element
addresses of tensors (R221, R222). -/

namespace Sys2Proof.Machine
open Sys2Proof

/-! Operands (R345 to R347). -/

/-- Where an access lies: in GV, at a key of local or die memory, or in a tile from a byte offset. -/
inductive Loc where
  | gv (a : Word)
  | key (k : Nat)
  | tile (tk off : Nat)
  deriving DecidableEq, Repr

/-- SP 1, 2: a space of fixed scope (R232, R234). -/
def isLocal (sp : Nat) : Bool := sp = 1 || sp = 2

/-- R347 order 1, after the 0x01 cases, for an address in a space: reserved codes, then a space not permitted. -/
def spaceChecks (sp : Nat) (x : Word) (atomic : Bool) (permitted : List Nat) : M Unit := do
  check (sp < 6) 0x1E sp
  check (permitted.contains sp) (if atomic then 0x2C else 0x23) x.toNat (if atomic then 0 else sp)

/-- R347 orders 2 to 5 for an address; `n` bytes from it, elements of `size`. -/
def spaceLoc (sp : Nat) (x : Word) (n size : Nat) : M Loc := do
  let s ← getS
  if sp = 4 then
    check (gvForm x) 0x29 x.toNat
    check (x.toNat % size = 0) 0x22 x.toNat
    pure (.gv x)
  else
    let k ← ofExcept (s.localKey (coreOf s.cur) sp x.toNat n)
    check (x.toNat % size = 0) 0x22 x.toNat
    pure (.key k)

/-- R347 orders 5 and 6 for a tile operand. -/
def tileLoc (h : BitVec 32) (off : Word) (n size : Nat) (need : Need) : M Loc := do
  check (off.toNat % size = 0) 0x22 off.toNat
  let tk ← tileFor h off.toNat n need
  pure (.tile tk off.toNat)

/-- The scoreboard's ranges of a location. -/
def State.locRng (s : State) (n : Nat) (w : Bool) : Loc → List Rng
  | .gv _ => []
  | .key k => [⟨k, n, w⟩]
  | .tile tk _ => s.tileRng tk w

/-- Bytes read at a location; `tval` names it where it is poisoned. -/
def loadAt (n tval : Nat) : Loc → M (List Byte)
  | .gv a => gvLoad a n
  | .key k => do
    let s ← getS
    ordered (s.locRng n false (.key k))
    readKey k n tval
  | .tile tk off => do
    let s ← getS
    ordered (s.locRng n false (.tile tk off))
    tileLoad tk off n
/-- Bytes written at a location; a GV store takes its class (R349). -/
def storeAt (bs : List Byte) (cls : Nat) : Loc → M Unit
  | .gv a => gvStore a bs cls
  | .key k => do
    let s ← getS
    ordered (s.locRng bs.length true (.key k))
    writeKey k bs
  | .tile tk off => do
    let s ← getS
    ordered (s.locRng bs.length true (.tile tk off))
    modS fun s => s.tileWrite tk off bs

/-- The access size of W. -/
def sizeOf_ (w : BitVec 2) : Nat := 2 ^ w.toNat
/-- The displacement in bytes. -/
def dispBytes (d : BitVec 10) (w : BitVec 2) : Word := d.signExtend 64 * word (sizeOf_ w)
/-- A loaded number, sign- or zero-extended from `n` bytes. -/
def extendLoad (sx : Bool) (n v : Nat) : Word := if sx then BitVec.ofInt 64 (asInt (8 * n) v) else word v

/-! Loads and stores (R348, R349). -/

def execLd (q : Seqn) (o : LdO) (s : State) : Host.Outcome State Fault Refusal :=
  plain (.ld q o) (do
    let n := sizeOf_ o.w
    let sp := o.sp.toNat
    check (o.sc.toNat < 6 && o.ord.toNat < 2 && !((o.h || isLocal sp) && (o.cls != 0 || o.sc != 0)) && !(o.h && sp != 0) &&
      !(o.c && !o.h)) 0x01 (dw0 (.ld q o))
    let b ← rdS o.b
    let off := b + dispBytes o.disp o.w
    let v ←
      if o.h then do
        let h ← rdH o.a
        let l ← tileLoc h off n n (if o.c then .use else .rd)
        if o.c then mayConsume [h] off.toNat
        let v ← loadAt n off.toNat l
        if o.c then consume h 1 off.toNat
        pure v
      else do
        let a ← rdS o.a
        spaceChecks sp (a + off) false [1, 2, 3, 4]
        loadAt n (a + off).toNat (← spaceLoc sp (a + off) n n)
    wrS o.d (extendLoad o.sx n (leNat v))) s

def execSt (q : Seqn) (o : StO) (s : State) : Host.Outcome State Fault Refusal :=
  plain (.st q o) (do
    let n := sizeOf_ o.w
    let sp := o.sp.toNat
    check (o.sc.toNat < 6 && (o.ord = 0 || o.ord = 2) && !((o.h || isLocal sp) && (o.cls != 0 || o.sc != 0)) &&
      !(o.h && sp != 0)) 0x01 (dw0 (.st q o))
    let b ← rdS o.b
    let off := b + dispBytes o.disp o.w
    let v ← rdS o.d
    let l ←
      if o.h then do tileLoc (← rdH o.a) off n n .wr
      else do
        let a ← rdS o.a
        spaceChecks sp (a + off) false [1, 2, 3, 4]
        spaceLoc sp (a + off) n n
    let put := storeAt (leBytes n v.toNat) o.cls.toNat l
    if o.ord = 2 then irrevocably put else put) s

/-! Tensors (R221, R222). -/

/-- R220: what an access to an entry raises. -/
def Tensor.fault (t : Tensor) (tid : Nat) : Option Exc :=
  if !t.v then some (exc 0x26 tid) else if t.bad then some (exc 0x01 t.addr.toNat) else none
/-- A tensor's entry as a snapshot that an engine or a pump reads (R218, R220). -/
def State.tensorFor (s : State) (p tid : Nat) : Except Tr (State × Tensor) :=
  match s.gvRead p (s.tensorAddr p tid) 128 true with
  | .error e => .error e
  | .ok (s1, b) =>
    let t := tensorOf (s.tensorAddr p tid) b
    match t.fault tid with
    | some e => .error (.fault e)
    | none => .ok (s1, t)
/-- The entry as an instruction of the running context reads it: as a load. -/
def tensorM (tid : Nat) : M Tensor := do
  let s ← getS
  let c ← getC
  let a := s.tensorAddr c.part tid
  let t := tensorOf a (← gvLoad a 128)
  orRaise (t.fault tid)
  pure t

/-- What the running context reads of the entry of a tensor that it has bound: as a load, with its own stores (R231). -/
def entryM (tid : Nat) : M Tensor := do
  let s ← getS
  let c ← getC
  let a := s.tensorAddr c.part tid
  pure (tensorOf a (← gvLoad a 128))
/-- R218: A set by an agent's look at a tensor's entry. -/
def State.readTensor (s : State) (p tid : Nat) : State := s.markRead p (s.tensorAddr p tid) 128

/-- The axes, closed ones rising and then the open one. -/
def Tensor.axes (t : Tensor) : List Nat :=
  let all := List.range t.rank
  if t.isOpen then all.filter (· != t.oax) ++ [t.oax] else all
/-- The limit of a coordinate. -/
def Tensor.limit (t : Tensor) (i : Nat) : Nat :=
  if t.isOpen && i = t.oax then (if t.ttab = 0 then 0 else t.stored * t.sext) else t.ext.getD i 0
/-- The tile number of coordinates. -/
def Tensor.tileNo (t : Tensor) (c : List Nat) : Nat :=
  t.axes.reverse.foldl (fun n i =>
    let sz := 2 ^ t.tsh.getD i 0
    n * ((t.ext.getD i 0 + sz - 1) / sz) + c.getD i 0 / sz) 0
/-- The element index within its tile. -/
def Tensor.elemNo (t : Tensor) (c : List Nat) : Nat :=
  (List.range t.rank).reverse.foldl (fun n i => let sz := 2 ^ t.tsh.getD i 0; n * sz + c.getD i 0 % sz) 0
/-- TVAL of 0x25. -/
def coordVal (tid axis : Nat) : Nat := tid + axis * 2 ^ 16

/-- R221: a coordinate beyond its limit, or a tile beyond NTT. Without `limits` a storer reaches slices not yet stored. -/
def Tensor.coordFault (t : Tensor) (tid : Nat) (c : List Nat) (limits : Bool) : Option Exc :=
  match (List.range t.rank).find? fun i => limits && t.limit i ≤ c.getD i 0 with
  | some i => some (exc 0x25 (coordVal tid i) (c.getD i 0))
  | none => if t.ntt ≤ t.tileNo c then some (exc 0x25 (coordVal tid 7) (t.tileNo c)) else none
/-- The GV address of the tile-table entry of an element. -/
def Tensor.entryAt (t : Tensor) (c : List Nat) : Word := t.ttab + word (8 * t.tileNo c)
/-- The address of an element from its tile-table entry: its byte and the first bit in it. -/
def Tensor.elemIn (t : Tensor) (tid : Nat) (c : List Nat) (limits : Bool) (e : Nat) : Except Exc (Word × Nat) :=
  if limits && !bit e 0 then .error (exc 0x25 (coordVal tid 7) (t.tileNo c))
  else
    let o := t.elemNo c * etypeBits t.etype
    .ok ((BitVec.ofNat 52 (bits e 51 16 * 65536)).signExtend 64 + word (o / 8), o % 8)
/-- R221 for an engine or a pump. -/
def State.elemAddr (s : State) (p tid : Nat) (t : Tensor) (c : List Nat) (limits : Bool := true) : Except Tr (State × Word × Nat) :=
  match t.coordFault tid c limits with
  | some e => .error (.fault e)
  | none => match s.gvRead p (t.entryAt c) 8 true with
    | .error e => .error e
    | .ok (s1, b) =>
      if s.gvPoisoned p (t.entryAt c) 8 then .error (.fault (exc 0x5B (t.entryAt c).toNat))
      else match t.elemIn tid c limits (leNat b) with
        | .ok x => .ok (s1, x)
        | .error e => .error (.fault e)
/-- R221 for an instruction of the running context. -/
def elemM (tid : Nat) (t : Tensor) (c : List Nat) : M (Word × Nat) := do
  orRaise (t.coordFault tid c true)
  ofExcept (t.elemIn tid c true (leNat (← gvLoad (t.entryAt c) 8)))

/-- A translation's answer for the running context (R227). -/
def ofTr {α : Type} : Except Tr α → M α
  | .ok a => pure a
  | .error (.fault e) => if e.cause = 0x20 || e.cause = 0x24 then fun _ => .error (.page e none) else raiseE e
  | .error _ => waitOn .engine

/-- R350 steps 1 to 3: the entry, the element's address and its first bit. -/
def taAccess (i : Instr) (o : LdtO) (ord : BitVec 2) : M (Tensor × Word × Nat) := do
  check (o.sc.toNat < 6 && (o.ord = 0 || o.ord = ord)) 0x01 (dw0 i)
  let a ← rdS o.a
  check (a.toNat < 65536) 0x26 a.toNat
  let t ← tensorM a.toNat
  let c ← getC
  check (o.b.toNat + t.rank ≤ 32) 0x05 (dw0 i) 2
  let cs := (List.range t.rank).map fun j => (c.reg (o.b + BitVec.ofNat 5 j)).toNat
  let (g, b) ← elemM a.toNat t cs
  pure (t, g, b)

def execLdt (q : Seqn) (o : LdtO) (s : State) : Host.Outcome State Fault Refusal :=
  plain (.ldt q o) (do
    let (t, g, b) ← taAccess (.ldt q o) o 1
    let w := etypeBits t.etype
    let v := leNat (← gvLoad g ((w + 7) / 8)) / 2 ^ b % 2 ^ w
    let sx := t.etype = 0 || t.etype = 1 || t.etype = 3 || t.etype = 13
    wrS o.d (if sx then BitVec.ofInt 64 (asInt w v) else word v)) s

def execStt (q : Seqn) (o : LdtO) (s : State) : Host.Outcome State Fault Refusal :=
  plain (.stt q o) (do
    let (t, g, b) ← taAccess (.stt q o) o 2
    let w := etypeBits t.etype
    let v ← rdS o.d
    let put : M Unit :=
      if 8 ≤ w then gvStore g (leBytes (w / 8) v.toNat) o.cls.toNat
      else gvStoreBits g (BitVec.ofNat 8 (v.toNat % 2 ^ w * 2 ^ b)) (BitVec.ofNat 8 ((2 ^ w - 1) * 2 ^ b)) o.cls.toNat
    if o.ord = 2 then irrevocably put else put) s

/-! Atomics and reductions (R351 to R353). -/

/-- R351: the new value, and the flags of `fadd`. -/
def amoOp (opc n x y : Nat) : Nat × Fl :=
  let m := 2 ^ (8 * n)
  let y := y % m
  match opc with
  | 0 => (y, 0)
  | 1 => ((x + y) % m, 0)
  | 2 => (x &&& y, 0)
  | 3 => (x ||| y, 0)
  | 4 => (x ^^^ y, 0)
  | 5 => (if asInt (8 * n) x ≤ asInt (8 * n) y then x else y, 0)
  | 6 => (if asInt (8 * n) x ≤ asInt (8 * n) y then y else x, 0)
  | 7 => (min x y, 0)
  | 8 => (max x y, 0)
  | _ => Fmt.f32.add 0 x y

/-- The key of an atomic's location, and whether its page is host memory. A GV location is translated as a direct atomic. -/
def atomicKey : Loc → M (Nat × Bool)
  | .gv a => do
    let (k, _, h) ← gvPage a .wr
    pure (k, h)
  | .key k => pure (k, false)
  | .tile tk off => do
    let s ← getS
    pure (s.tileByte tk off, false)

/-- The checks of `amo`, `cas` and `red` up to R347 order 5, on the address sA + sB. -/
def atomicLoc (i : Instr) (p : Word) (cls : BitVec 4) (sc : BitVec 3) (sp : BitVec 3) (w : BitVec 2) (ok : Bool)
    (permitted : List Nat) (fadd : Bool) : M Loc := do
  check (sc.toNat < 6 && ok && !(isLocal sp.toNat && (cls != 0 || sc != 0))) 0x01 (dw0 i)
  spaceChecks sp.toNat p true permitted
  check (2 ≤ w.toNat && (!fadd || w = 2)) 0x1B w.toNat
  spaceLoc sp.toNat p (sizeOf_ w) (sizeOf_ w)

def execAmo (q : Seqn) (o : AmoO) (s : State) : Host.Outcome State Fault Refusal :=
  plain (.amo q o) (do
    let a ← rdS o.a
    let y ← rdS o.b
    let p := a + y
    let n := sizeOf_ o.w
    let l ← atomicLoc (.amo q o) p o.cls o.sc o.sp o.w (o.opc.toNat < 10) [1, 2, 3, 4] (o.opc = 9)
    irrevocably (do
      let (k, _) ← atomicKey l
      let s ← getS
      ordered (s.locRng n true l)
      let x := leNat (← readKey k n p.toNat)
      let r := amoOp o.opc.toNat n x y.toNat
      if o.opc = 9 then fpDone [(0, r.2)]
      writeKey k (leBytes n r.1)
      wrS o.d (word x))) s

def execCas (q : Seqn) (o : AmoO) (s : State) : Host.Outcome State Fault Refusal :=
  plain (.cas q o) (do
    let a ← rdS o.a
    let y ← rdS o.b
    let p := a + y
    let e ← rdS o.d
    let n := sizeOf_ o.w
    let l ← atomicLoc (.cas q o) p o.cls o.sc o.sp o.w (o.opc.toNat < 12 || o.opc = 15) [1, 2, 3, 4] false
    irrevocably (do
      let (k, _) ← atomicKey l
      let s ← getS
      ordered (s.locRng n true l)
      let x := leNat (← readKey k n p.toNat)
      let eq := x = e.toNat % 2 ^ (8 * n)
      if eq then writeKey k (leBytes n y.toNat)
      wrS o.d (word x)
      if o.opc != 15 then modC fun c => c.setPrd o.opc.toNat eq)) s

def execRed (q : Seqn) (o : RedO) (s : State) : Host.Outcome State Fault Refusal :=
  plain (.red q o) (do
    let a ← rdS o.a
    let y ← rdS o.b
    let p := a + y
    let n := sizeOf_ o.w
    let l ← atomicLoc (.red q o) p o.cls o.sc o.sp o.w ((o.ord = 0 || o.ord = 2) && 1 ≤ o.opc.toNat && o.opc.toNat < 10) [3, 4]
      (o.opc = 9)
    irrevocably (do
      let s ← getS
      let c ← getC
      match l with
      | .gv g => check (!s.onHost c.part g) 0x2C p.toNat
      | _ => pure ()
      let (k, _) ← atomicKey l
      let x := leNat (← readKey k n p.toNat)
      writeKey k (leBytes n (amoOp o.opc.toNat n x y.toNat).1))) s

/-! Fences, prefetch and waits on an address (R354 to R357). -/

/-- A fence orders; in a sequential memory it changes nothing (log entry 7). -/
def execFence (q : Seqn) (o : FenceO) (s : State) : Host.Outcome State Fault Refusal :=
  plain (.fence q o) (check (o.sc.toNat < 6) 0x01 (dw0 (.fence q o))) s

/-- A prefetch changes no value. -/
def execPref (q : Seqn) (o : PrefO) (s : State) : Host.Outcome State Fault Refusal := plain (.pref q o) (pure ()) s

/-- The limit of `tlg=`: the bclk at which it ends. -/
def State.limit (s : State) (tlg : Nat) : Option Nat := if tlg = 0 then none else some (s.bclk + 2 ^ tlg)
/-- A limit expires in this bclk, or has passed. -/
def State.passedLimit (s : State) : Option Nat → Bool
  | some b => b ≤ s.bclk
  | none => false
/-- A limit has passed before this bclk: what comes true now comes too late (R356, R362). -/
def State.tooLate (s : State) : Option Nat → Bool
  | some b => b < s.bclk
  | none => false
/-- The limit of a wait that has begun. -/
def Stall.till : Stall → Option Nat
  | .mon _ t | .barw _ t => t
  | _ => none
/-- The line of 256 bytes that a key lies in (00 scope). -/
def lineOf (k : Nat) : Nat := k / 256
/-- The monitors of a core in use (R357). -/
def State.monitorsOf (s : State) (core : Nat) : List (Nat × Nat) := s.watch.filter fun x => coreOf x.1 = core

def execWaita (q : Seqn) (o : WaitaO) (s : State) : Host.Outcome State Fault Refusal :=
  plain (.waita q o) (do
    let y ← rdS o.b
    let a := (← rdS o.a) + y
    let n := sizeOf_ o.w
    check (o.sc.toNat < 6 && o.cnd != 3 && !(isLocal o.sp.toNat && (o.cls != 0 || o.sc != 0))) 0x01 (dw0 (.waita q o))
    spaceChecks o.sp.toNat a true [1, 2, 3, 4]
    let l ← spaceLoc o.sp.toNat a n n
    let v := leNat (← loadAt n a.toNat l)
    let y := y.toNat % 2 ^ (8 * n)
    let met := match o.cnd.toNat with
      | 0 => v != y
      | 1 => v == y
      | _ => y ≤ v
    let k ← match l with
      | .gv a => do pure (← gvPage a .rd).1
      | .key k => pure k
      | .tile tk off => do pure ((← getS).tileByte tk off)
    let c ← getC
    let s ← getS
    let free : M Unit := modS fun s => { s with watch := s.watch.filter (·.1 != s.cur) }
    if met && !s.tooLate (c.stall.bind Stall.till) then
      free
      wrS o.d 0
    else match c.stall with
      | some (.mon l t) =>
        if s.passedLimit t then
          free
          wrS o.d 1
        else waitOn (.mon l t)
      | _ =>
        if 16 ≤ (s.monitorsOf (coreOf s.cur)).length then wrS o.d 2
        else fun s => .error (.wait (.mon (lineOf k) (s.limit o.tlg.toNat))
          (some { s with watch := s.watch ++ [(s.cur, lineOf k)] }))) s

/-! Semaphores (R358 to R360). -/

def execSems (q : Seqn) (o : SemsO) (s : State) : Host.Outcome State Fault Refusal :=
  plain (.sems q o) (do
    check (o.sc.toNat < 6) 0x01 (dw0 (.sems q o))
    let a ← rdS o.a
    let b ← rdS o.b
    let c ← getC
    let s ← getS
    check (a.toNat < 576 && s.owns c.part (clusterOf a.toNat)) 0x4D a.toNat
    check (b.toNat ≤ 65535) 0x4A (a.toNat * 2 ^ 16 + o.semi.toNat)
    irrevocably (modS fun s => s.semAdd a.toNat o.semi.toNat b.toNat)) s

def execSemw (q : Seqn) (o : SemwO) (s : State) : Host.Outcome State Fault Refusal :=
  plain (.semw q o) (do
    let s ← getS
    let v := s.sem (coreOf s.cur) o.semi.toNat
    if v < o.thr.toNat then waitOn (.sem o.semi.toNat o.thr.toNat)
    else modS fun s => s.setSem (coreOf s.cur) o.semi.toNat (v - o.thr.toNat)) s

def execSemr (q : Seqn) (o : SemrO) (s : State) : Host.Outcome State Fault Refusal :=
  plain (.semr q o) (do
    let s ← getS
    wrS o.d (word (s.sem (coreOf s.cur) o.semi.toNat))) s

/-! Barriers (R361, R362). -/

/-- The gang of the running context, its number and the instance; 0x4B outside a gang. -/
def gangM : M (Nat × Gang × Nat) := do
  let s ← getS
  let c ← getC
  match (s.task c.task).gang with
  | none => raise 0x4B (s.task c.task).group
  | some (g, i, _) =>
    match SMap.get? s.gangs g with
    | none => raise 0x4B (s.task c.task).group
    | some x => pure (g, x, i)
/-- Arrivals counted, and the phase completed when every instance has passed it. -/
def Gang.arrive (x : Gang) (i : Nat) : Gang :=
  let arr := SMap.put x.arrived i (SMap.getD x.arrived i 0 + 1)
  let n := (List.range x.cores.length).foldl (fun m j => min m (SMap.getD arr j 0)) (SMap.getD arr i 0)
  { x with arrived := arr, phases := max x.phases n }

def execBar (q : Seqn) (o : D1) (s : State) : Host.Outcome State Fault Refusal :=
  plain (.bar q o) (do
    let (g, x, i) ← gangM
    let a := SMap.getD x.arrived i 0
    if x.phases < a then waitOn (.bar (a - 1))
    else
      modS fun s => { s with gangs := SMap.put s.gangs g (x.arrive i) }
      wrS o.d (word a)) s

def execBarw (q : Seqn) (o : BarwO) (s : State) : Host.Outcome State Fault Refusal :=
  plain (.barw q o) (do
    let (_, x, i) ← gangM
    let p := (← rdS o.a).toNat
    let c ← getC
    let s ← getS
    if SMap.getD x.arrived i 0 ≤ p then wrS o.d 2
    else if p < x.phases && !s.tooLate (c.stall.bind Stall.till) then wrS o.d 0
    else match c.stall with
      | some (.barw p' t) => if s.passedLimit t then wrS o.d 1 else waitOn (.barw p' t)
      | _ => waitOn (.barw p (s.limit o.tlg.toNat))) s

/-! Futures (R363 to R366). -/

/-- The word of a future, found as a direct atomic finds it: 0x2C for a page of host memory comes before the causes of its
translation (R363). -/
def futPage (a : Word) : M Nat := do
  let c ← getC
  let s ← getS
  check (!s.onHost c.part a) 0x2C a.toNat
  pure (← gvPage a .wr).1

def execFuti (q : Seqn) (o : FutiO) (s : State) : Host.Outcome State Fault Refusal :=
  plain (.futi q o) (do
    let a ← rdS o.a
    check (a.toNat % 8 = 0) 0x22 a.toNat
    let _ ← futPage a
    gvStore a (leBytes 8 0) o.cls.toNat) s

/-- R365: a future resolved or failed by an instruction. -/
def settleFuture (a : Word) (failed : Bool) (v : Nat) : M Unit := do
  let k ← futPage a
  let _ ← readKey k 8 a.toNat
  let c ← getC
  let s ← getS
  match s.futSet c.part a failed v with
  | .error e => raiseE e
  | .ok x => modW fun _ => x

def execFuts (q : Seqn) (o : FutsO) (s : State) : Host.Outcome State Fault Refusal :=
  plain (.futs q o) (do
    check (o.sc.toNat < 6) 0x01 (dw0 (.futs q o))
    let a ← rdS o.a
    let b ← rdS o.b
    check (a.toNat % 8 = 0) 0x22 a.toNat
    irrevocably (settleFuture a false b.toNat)) s

def execFutf (q : Seqn) (o : FutsO) (s : State) : Host.Outcome State Fault Refusal :=
  plain (.futf q o) (do
    check (o.sc.toNat < 6) 0x01 (dw0 (.futf q o))
    let a ← rdS o.a
    let b ← rdS o.b
    check (a.toNat % 8 = 0) 0x22 a.toNat
    irrevocably (settleFuture a true b.toNat)) s

/-- The context with the predicate that `futw` writes. -/
def futPred (q : Seqn) (c : Ctx) (v : Bool) : Ctx := if q.pr.toNat < 12 then c.setPrd q.pr.toNat v else c

/-- R366: the context that sequencing selects once p[PR] holds `v`. -/
def selectedAs (q : Seqn) (v : Bool) : M Ctx := do
  let c ← getC
  let s ← getS
  let c1 := futPred q c v
  modS fun s => s.looked c1 q
  match s.sequence c1 q (c1.pc + 8) with
  | .go c' => pure c'
  | .stop => pure { c1 with pc := c1.pc + 8 }
  | .fault _ e => raiseE e

def execFutw (q : Seqn) (o : FutwO) (s : State) : Host.Outcome State Fault Refusal :=
  leaving (.futw q o) (do
    let f ← rdS o.a
    let a ← rdS o.b
    let live := liveMask o.liveHi o.liveLo
    check (q.pr.toNat ≤ 12) 0x01 (dw0 (.futw q o))
    check (a != 0) 0x22
    recordChecks a live
    let c ← getC
    if c.mx != [] then waitOn .engine
    let n0 ← selectedAs q false
    let n1 ← selectedAs q true
    commitM
    pinned (do
      check (f.toNat % 8 = 0) 0x22 f.toNat
      let k ← directly (futPage f)
      let w := leNat (← readKey k 8 f.toNat)
      check (w % 4 != 3) 0x4C f.toNat
      let s ← getS
      if w % 4 = 0 then
        check (bits w 15 2 != 16383) 0x4C f.toNat
        recordStore a (n0.record (s.task c.task) n0.pc live 0 f.toNat 0 s.dtime)
        modS fun s => s.recordRef c.task n0.pc
        modS fun s => { s with
          mem := Mem.writeN s.mem k 8 (w + 4), futs := SMap.put s.futs k (SMap.getD s.futs k [] ++ [.record c.task a]) }
        modC fun c => futPred q c false
        leaveSlot a .suspended
        pure true
      else
        recordStore a (n1.record (s.task c.task) n1.pc live (w % 4) f.toNat (word (w / 2 ^ 16)) s.dtime)
        modS fun s => s.recordRef c.task n1.pc
        modS fun s => s.modTask c.task fun x => { x with restart := some a, restartH := c.h }
        modS fun s => s.modCtx s.cur fun c => { futPred q c true with direct := false, wd := s.bclk, wdFired := false }
        pure false)) s

end Sys2Proof.Machine
end

