-- ==== Sys2Proof/Machine/Vector.lean ====
section
/-! DEFINITION. The VX engine apart from `lnop` (R369 to R386). -/

namespace Sys2Proof.Machine
open Sys2Proof

/-- R371: the active lanes. -/
def Ctx.active (c : Ctx) (me : Bool) (vm : BitVec 5) : List Nat :=
  (List.range 64).filter fun e => !me || (c.lane vm.toNat e).getLsbD 0
/-- R369: the element in a lane. -/
def elem (t : Nat) (x : BitVec 32) : Nat := x.toNat % 2 ^ tyWidth t
/-- Element `e` of a vector register. -/
def Ctx.el (c : Ctx) (t : Nat) (n : BitVec 5) (e : Nat) : Nat := elem t (c.lane n.toNat e)
/-- The second operand of lane `e`: an element of vB, or the scalar sB (BS). -/
def Ctx.second (c : Ctx) (bs : Bool) (b : BitVec 5) (e : Nat) : BitVec 32 :=
  if bs then (c.reg b).setWidth 32 else c.lane b.toNat e
/-- Lanes of a register written. -/
def putLanes (n : Nat) (l : List (Nat × Nat)) : M Unit :=
  modC fun c => l.foldl (fun c x => c.setLane n x.1 (BitVec.ofNat 32 x.2)) c

/-- R370, R374. -/
def typed (t : BitVec 4) (permitted : List Nat) : M Unit := check (permitted.contains t.toNat) 0x18 t.toNat
def allTypes : List Nat := List.range 11
def arithTypes : List Nat := List.range 9
def intTypes : List Nat := [0, 1, 3, 4, 7, 8]
/-- R374: a reserved rounding code; R194: the mode, which is reserved too where FPC holds a code above 4. -/
def rounding (rm : BitVec 3) : M Nat := do
  check (rm != 5 && rm != 6) 0x17 rm.toNat
  let c ← getC
  check (rmOf rm.toNat c.fpc < 5) 0x17 (rmOf rm.toNat c.fpc)
  pure (rmOf rm.toNat c.fpc)
/-- R370: code 9 or 10 with FP8 masked. -/
def fp8 (l : List (BitVec 4)) : M Unit := if l.any fun t => t = 9 || t = 10 then need 1 else pure ()
/-- A vector instruction. -/
def vector (i : Instr) (ts : List (BitVec 4)) (body : M Unit) (s : State) : Host.Outcome State Fault Refusal :=
  retire i (fp8 ts) (do body; pure true) s

/-! Loads, stores, gathers and lane slices (R375 to R378). -/

/-- The 0x01 cases of R346 for a vector access. -/
def vectorFields (i : Instr) (cls : BitVec 4) (sc sp : BitVec 3) (h c : Bool) : M Unit :=
  check (sc.toNat < 6 && !((h || isLocal sp.toNat) && (cls != 0 || sc != 0)) && !(h && sp != 0) && !(c && !h)) 0x01 (dw0 i)

/-- R375: where the 64 elements begin. -/
def vectorBase (i : Instr) (a b : BitVec 5) (t cls : BitVec 4) (sc sp : BitVec 3) (h c : Bool) (need : Need) : M Loc := do
  vectorFields i cls sc sp h c
  let size := tyBytes t.toNat
  let off ← rdS b
  if h then
    let hd ← rdH a
    typed t allTypes
    tileLoc hd off (64 * size) size need
  else
    let x := (← rdS a) + off
    spaceChecks sp.toNat x false [1, 2, 3, 4]
    typed t allTypes
    spaceLoc sp.toNat x (64 * size) size
/-- A location further on. -/
def Loc.plus (n : Nat) : Loc → Loc
  | .gv a => .gv (a + word n)
  | .key k => .key (k + n)
  | .tile tk o => .tile tk (o + n)
/-- The address, or the offset in a tile, at which a vector access begins. -/
def Ctx.vectorX (c : Ctx) (h : Bool) (a b : BitVec 5) : Word := (if h then 0 else c.reg a) + c.reg b

/-- R378: every page that the elements lie on is translated before any of them performs. -/
def pagesReady (u : Use) (ls : List Loc) : M Unit :=
  ls.forM fun l => match l with
    | .gv a => do
      let _ ← gvPage a u
      pure ()
    | _ => pure ()

def execVld (q : Seqn) (o : VldO) (s : State) : Host.Outcome State Fault Refusal :=
  vector (.vld q o) [o.t] (do
    let l ← vectorBase (.vld q o) o.a o.b o.t o.cls o.sc o.sp o.h o.c (if o.c then .use else .rd)
    let size := tyBytes o.t.toNat
    let c ← getC
    let s ← getS
    ordered (s.locRng (64 * size) false l)
    let x := c.vectorX o.h o.a o.b
    if o.c then mayConsume [c.hreg o.a] x.toNat
    pagesReady .rd ((c.active o.me o.vm).map fun e => l.plus (e * size))
    let vs ← (c.active o.me o.vm).mapM fun e => do
      pure (e, leNat (← loadAt size (x + word (e * size)).toNat (l.plus (e * size))))
    if o.c then consume (c.hreg o.a) 1 x.toNat
    putLanes o.d.toNat vs) s

/-- R378, R119: before any element of a store performs, every page is translated, then the sectors are counted. The address
of the store is `x`; each element has its own without one. -/
def storesReady (size cls : Nat) (x : Option Word) (ls : List Loc) : M Unit := do
  let as := ls.filterMap fun l => match l with | .gv a => some a | _ => none
  pagesReady .wr ls
  let c ← getC
  if !c.direct then
    let _ ← as.foldlM (fun (c : Ctx) (a : Word) => match bufSectors c a.toNat size cls with
      | some secs => pure { c with secs := secs }
      | none => raise 0x2D (x.getD a).toNat 0) c
    pure ()

def execVst (q : Seqn) (o : VstO) (s : State) : Host.Outcome State Fault Refusal :=
  vector (.vst q o) [o.t] (do
    let l ← vectorBase (.vst q o) o.a o.b o.t o.cls o.sc o.sp o.h false .wr
    let size := tyBytes o.t.toNat
    let c ← getC
    let s ← getS
    ordered (s.locRng (64 * size) true l)
    storesReady size o.cls.toNat (match l with | .gv a => some a | _ => none) ((c.active o.me o.vm).map fun e => l.plus (e * size))
    (c.active o.me o.vm).forM fun e => storeAt (leBytes size (c.lane o.d.toNat e).toNat) o.cls.toNat (l.plus (e * size))) s

/-- R376: the offset of lane `e`. -/
def gatherOff (c : Ctx) (b : BitVec 5) (scl : Bool) (size e : Nat) : Word :=
  word ((c.lane b.toNat e).toNat * (if scl then size else 1))
/-- The address of lane `e`, or its offset in a tile. -/
def Ctx.gatherX (c : Ctx) (h : Bool) (a b : BitVec 5) (scl : Bool) (size e : Nat) : Word :=
  (if h then 0 else c.reg a) + gatherOff c b scl size e
/-- R376: the location of each active lane, checked in ascending order. -/
def gatherLocs (i : Instr) (a b : BitVec 5) (t cls : BitVec 4) (sc sp : BitVec 3) (h c : Bool) (me : Bool) (vm : BitVec 5)
    (scl : Bool) (need : Need) : M (List (Nat × Loc)) := do
  vectorFields i cls sc sp h c
  let size := tyBytes t.toNat
  let cx ← getC
  let l := cx.active me vm
  match h, l with
  | false, e :: _ => spaceChecks sp.toNat (cx.gatherX h a b scl size e) false [1, 2, 3, 4]
  | _, _ => pure ()
  typed t allTypes
  l.mapM fun e => do
    let x := cx.gatherX h a b scl size e
    let l ← if h then tileLoc (cx.hreg a) x size size need else spaceLoc sp.toNat x size size
    pure (e, l)
/-- R103: a gather or scatter counts as the whole space of LS or CX above x, or as the whole tile. -/
def State.gatherRng (s : State) (h : Bool) (a : BitVec 5) (sp : Nat) (w : Bool) : List Rng :=
  let c := s.ctx s.cur
  let core := coreOf s.cur
  let x := (c.reg a).toNat
  if h then ((s.tileOf (c.hreg a)).map fun tk => s.tileRng tk w).getD []
  else if sp = 1 then [⟨lsKey core x, 2 ^ 20 - x, w⟩]
  else if sp = 2 then [⟨lsKey (clusterOf core * 12) x, 12 * 2 ^ 20 - x, w⟩]
  else []

def execVgat (q : Seqn) (o : VgatO) (s : State) : Host.Outcome State Fault Refusal :=
  vector (.vgat q o) [o.t] (do
    let ls ← gatherLocs (.vgat q o) o.a o.b o.t o.cls o.sc o.sp o.h o.c o.me o.vm o.scl (if o.c then .use else .rd)
    let size := tyBytes o.t.toNat
    let c ← getC
    let s ← getS
    ordered (s.gatherRng o.h o.a o.sp.toNat false)
    let h := c.hreg o.a
    let off := (ls.head?.map fun x => (c.gatherX o.h o.a o.b o.scl size x.1).toNat).getD 0
    if o.c then
      let _ ← tileFor h 0 0 .use
      mayConsume [h] off
    pagesReady .rd (ls.map (·.2))
    let vs ← ls.mapM fun x => do pure (x.1, leNat (← loadAt size (c.gatherX o.h o.a o.b o.scl size x.1).toNat x.2))
    if o.c then consume h 1 off
    putLanes o.d.toNat vs) s

def execVsct (q : Seqn) (o : VsctO) (s : State) : Host.Outcome State Fault Refusal :=
  vector (.vsct q o) [o.t] (do
    let ls ← gatherLocs (.vsct q o) o.a o.b o.t o.cls o.sc o.sp o.h false o.me o.vm o.scl .wr
    let size := tyBytes o.t.toNat
    let c ← getC
    let s ← getS
    ordered (s.gatherRng o.h o.a o.sp.toNat true)
    storesReady size o.cls.toNat none (ls.map (·.2))
    ls.forM fun x => storeAt (leBytes size (c.lane o.d.toNat x.1).toNat) o.cls.toNat x.2) s

/-- R377: the key of each active lane's element, checked in ascending order. -/
def laneKeys (o : VldlO) : M (List (Nat × Nat)) := do
  typed o.t allTypes
  let c ← getC
  let s ← getS
  let size := tyBytes o.t.toNat
  (c.active o.me o.vm).mapM fun e => do
    let off := (c.reg o.a + (if o.ix then (c.lane o.b.toNat e).zeroExtend 64 else 0)).toNat
    check (off % size = 0) 0x22 off
    check (off + size ≤ 2048) 0x27 off
    pure (e, lxKey s.cur e off)

def execVldl (q : Seqn) (o : VldlO) (s : State) : Host.Outcome State Fault Refusal :=
  vector (.vldl q o) [o.t] (do
    let ks ← laneKeys o
    let size := tyBytes o.t.toNat
    let vs ← ks.mapM fun x => do pure (x.1, leNat (← readKey x.2 size (x.2 % 2048)))
    putLanes o.d.toNat vs) s

def execVstl (q : Seqn) (o : VldlO) (s : State) : Host.Outcome State Fault Refusal :=
  vector (.vstl q o) [o.t] (do
    let ks ← laneKeys o
    let size := tyBytes o.t.toNat
    let c ← getC
    ks.forM fun x => writeKey x.2 (leBytes size (c.lane o.d.toNat x.1).toNat)
    modC fun c => { c with lxu := c.lxu || ks.length != 0 }) s

/-! Element-wise arithmetic (R379 to R382). -/

/-- A two-operand instruction: the result of each active lane with its flags, or the first trap (R372). -/
def varM (o : VarO) (op : Fn2) (permitted : List Nat) : M Unit := do
  typed o.t permitted
  let rm ← rounding o.rm
  let c ← getC
  let t := o.t.toNat
  let rs := (c.active o.me o.vm).map fun e =>
    (e, fn2 t rm op (c.el t o.a e) (elem t (c.second o.bs o.b e)) (c.el t o.d e))
  fpDone (rs.map fun x => (x.1, x.2.2))
  putLanes o.d.toNat (rs.map fun x => (x.1, x.2.1))

def execVadd (q : Seqn) (o : VarO) (s : State) : Host.Outcome State Fault Refusal :=
  vector (.vadd q o) [o.t] (varM o .add arithTypes) s
def execVsub (q : Seqn) (o : VarO) (s : State) : Host.Outcome State Fault Refusal :=
  vector (.vsub q o) [o.t] (varM o .sub arithTypes) s
def execVmul (q : Seqn) (o : VarO) (s : State) : Host.Outcome State Fault Refusal :=
  vector (.vmul q o) [o.t] (varM o .mul arithTypes) s
def execVfma (q : Seqn) (o : VarO) (s : State) : Host.Outcome State Fault Refusal :=
  vector (.vfma q o) [o.t] (varM o .fma arithTypes) s
def execVmin (q : Seqn) (o : VarO) (s : State) : Host.Outcome State Fault Refusal :=
  vector (.vmin q o) [o.t] (varM o .min arithTypes) s
def execVmax (q : Seqn) (o : VarO) (s : State) : Host.Outcome State Fault Refusal :=
  vector (.vmax q o) [o.t] (varM o .max arithTypes) s
def execVshl (q : Seqn) (o : VarO) (s : State) : Host.Outcome State Fault Refusal :=
  vector (.vshl q o) [o.t] (varM o .shl intTypes) s
def execVshr (q : Seqn) (o : VarO) (s : State) : Host.Outcome State Fault Refusal :=
  vector (.vshr q o) [o.t] (varM o .shr intTypes) s

/-- A whole-lane logic instruction. -/
def vlogM (o : VlogO) (f : BitVec 32 → BitVec 32 → BitVec 32) : M Unit := do
  let c ← getC
  putLanes o.d.toNat ((c.active o.me o.vm).map fun e => (e, (f (c.lane o.a.toNat e) (c.second o.bs o.b e)).toNat))

def execVand (q : Seqn) (o : VlogO) (s : State) : Host.Outcome State Fault Refusal :=
  vector (.vand q o) [] (vlogM o (· &&& ·)) s
def execVor (q : Seqn) (o : VlogO) (s : State) : Host.Outcome State Fault Refusal :=
  vector (.vor q o) [] (vlogM o (· ||| ·)) s
def execVxor (q : Seqn) (o : VlogO) (s : State) : Host.Outcome State Fault Refusal :=
  vector (.vxor q o) [] (vlogM o (· ^^^ ·)) s

/-- A one-operand instruction. -/
def vunM (o : VunO) (op : Fn1) (permitted : List Nat) : M Unit := do
  typed o.t permitted
  let rm ← rounding o.rm
  let c ← getC
  let t := o.t.toNat
  let rs := (c.active o.me o.vm).map fun e => (e, fn1 t rm op (c.el t o.a e))
  fpDone (rs.map fun x => (x.1, x.2.2))
  putLanes o.d.toNat (rs.map fun x => (x.1, x.2.1))

/-- The types of `vabs` and `vneg`, and of the reciprocals and transcendental functions. -/
def signTypes : List Nat := [0, 2, 3, 5, 6, 7]
def wideFloats : List Nat := [2, 5, 6]

def execVabs (q : Seqn) (o : VunO) (s : State) : Host.Outcome State Fault Refusal :=
  vector (.vabs q o) [o.t] (vunM o .abs signTypes) s
def execVneg (q : Seqn) (o : VunO) (s : State) : Host.Outcome State Fault Refusal :=
  vector (.vneg q o) [o.t] (vunM o .neg signTypes) s
def execVrcp (q : Seqn) (o : VunO) (s : State) : Host.Outcome State Fault Refusal :=
  vector (.vrcp q o) [o.t] (vunM o .rcp wideFloats) s
def execVrsq (q : Seqn) (o : VunO) (s : State) : Host.Outcome State Fault Refusal :=
  vector (.vrsq q o) [o.t] (vunM o .rsq wideFloats) s
def execVex2 (q : Seqn) (o : VunO) (s : State) : Host.Outcome State Fault Refusal :=
  vector (.vex2 q o) [o.t] (vunM o .ex2 wideFloats) s
def execVlg2 (q : Seqn) (o : VunO) (s : State) : Host.Outcome State Fault Refusal :=
  vector (.vlg2 q o) [o.t] (vunM o .lg2 wideFloats) s

def execVcis (q : Seqn) (o : VunO) (s : State) : Host.Outcome State Fault Refusal :=
  vector (.vcis q o) [o.t] (do
    typed o.t wideFloats
    let rm ← rounding o.rm
    check (o.d != 31) 0x05 (dw0 (.vcis q o))
    let c ← getC
    let t := o.t.toNat
    let f := (tyFmt t).getD .f32
    let rs := (c.active o.me o.vm).map fun e => (e, f.cis rm (c.el t o.a e))
    fpDone (rs.map fun x => (x.1, x.2.1.2 ||| x.2.2.2))
    putLanes o.d.toNat (rs.map fun x => (x.1, x.2.1.1))
    putLanes (o.d.toNat + 1) (rs.map fun x => (x.1, x.2.2.1))) s

/-- The lanes whose narrowing R196 traps on. -/
def rangeMask (l : List (Nat × Cvt)) : Nat := l.foldl (fun m x => if x.2 = .range then m ||| 2 ^ (x.1 % 64) else m) 0
/-- The value and the flags of a conversion that did not trap. -/
def Cvt.get : Cvt → Nat × Fl
  | .val x f => (x, f)
  | .range => (0, 0)

def execVcvt (q : Seqn) (o : VcvtO) (s : State) : Host.Outcome State Fault Refusal :=
  vector (.vcvt q o) [o.t, o.dt] (do
    typed o.t allTypes
    typed o.dt (15 :: allTypes)
    let rm ← rounding o.rm
    let c ← getC
    let t := o.t.toNat
    if o.dt = 15 then
      check (o.t = 2) 0x18 t
      check (!o.sat) 0x01 (dw0 (.vcvt q o))
      check (o.d.toNat ≤ 29) 0x05 (dw0 (.vcvt q o))
      let rs := (c.active o.me o.vm).map fun e => (e, split3 (c.el t o.a e))
      putLanes o.d.toNat (rs.map fun x => (x.1, x.2.1))
      putLanes (o.d.toNat + 1) (rs.map fun x => (x.1, x.2.2.1))
      putLanes (o.d.toNat + 2) (rs.map fun x => (x.1, x.2.2.2))
    else
      let rs := (c.active o.me o.vm).map fun e => (e, convert t o.dt.toNat rm o.sat (c.el t o.a e))
      check (rangeMask rs = 0) 0x16 (rangeMask rs)
      fpDone (rs.map fun x => (x.1, x.2.get.2))
      putLanes o.d.toNat (rs.map fun x => (x.1, x.2.get.1))) s

/-! Compares, selects and moves (R383, R384). -/

def execVcmp (q : Seqn) (o : VcmpO) (s : State) : Host.Outcome State Fault Refusal :=
  vector (.vcmp q o) [o.t] (do
    typed o.t arithTypes
    let t := o.t.toNat
    check (o.cc != 7 && !(o.cc = 6 && (tyFmt t).isNone)) 0x01 (dw0 (.vcmp q o))
    let c ← getC
    let rs := (c.active o.me o.vm).map fun e => (e, tyCmp t o.cc.toNat (c.el t o.a e) (elem t (c.second o.bs o.b e)))
    fpDone (rs.map fun x => (x.1, x.2.2))
    putLanes o.d.toNat (rs.map fun x => (x.1, if x.2.1 then 0xFFFFFFFF else 0))) s

def execVsel (q : Seqn) (o : VselO) (s : State) : Host.Outcome State Fault Refusal :=
  vector (.vsel q o) [] (do
    let c ← getC
    putLanes o.d.toNat ((List.range 64).map fun e =>
      (e, (if (c.lane o.vm.toNat e).getLsbD 0 then c.lane o.a.toNat e else c.second o.bs o.b e).toNat))) s

/-- R384: a lane index. -/
def laneIndex (j : Nat) : M Unit := check (j < 64) 0x1A j

def execVperm (q : Seqn) (o : VpermO) (s : State) : Host.Outcome State Fault Refusal :=
  vector (.vperm q o) [] (do
    let c ← getC
    let l := c.active o.me o.vm
    l.forM fun e => laneIndex (c.lane o.b.toNat e).toNat
    putLanes o.d.toNat (l.map fun e => (e, (c.lane o.a.toNat (c.lane o.b.toNat e).toNat).toNat))) s

def execVbc (q : Seqn) (o : VbcO) (s : State) : Host.Outcome State Fault Refusal :=
  vector (.vbc q o) [o.t] (do
    typed o.t allTypes
    let c ← getC
    putLanes o.d.toNat ((c.active o.me o.vm).map fun e => (e, (c.reg o.a).toNat % 2 ^ tyWidth o.t.toNat))) s

def execVidx (q : Seqn) (o : VcntO) (s : State) : Host.Outcome State Fault Refusal :=
  vector (.vidx q o) [o.t] (do
    typed o.t intTypes
    let c ← getC
    putLanes o.d.toNat ((c.active o.me o.vm).map fun e =>
      (e, ((c.reg o.a).toNat + e * (c.reg o.b).toNat) % 2 ^ tyWidth o.t.toNat))) s

def execVins (q : Seqn) (o : VinsO) (s : State) : Host.Outcome State Fault Refusal :=
  vector (.vins q o) [o.t] (do
    typed o.t allTypes
    let c ← getC
    laneIndex (c.reg o.b).toNat
    putLanes o.d.toNat [((c.reg o.b).toNat, (c.reg o.a).toNat % 2 ^ tyWidth o.t.toNat)]) s

def execVext (q : Seqn) (o : VinsO) (s : State) : Host.Outcome State Fault Refusal :=
  vector (.vext q o) [o.t] (do
    typed o.t allTypes
    let c ← getC
    laneIndex (c.reg o.b).toNat
    wrS o.d (tyScalar o.t.toNat (c.el o.t.toNat o.a (c.reg o.b).toNat))) s

/-! Reductions, scans and counts (R385, R386). -/

/-- The operation of OPR. -/
def redOp (t rm opr a b : Nat) : Nat × Fl :=
  match opr with
  | 0 => fn2 t rm .add a b 0
  | 1 => fn2 t rm .min a b 0
  | 2 => fn2 t rm .max a b 0
  | 3 => (a &&& b, 0)
  | 4 => (a ||| b, 0)
  | _ => (a ^^^ b, 0)
/-- Its identity. -/
def redId (t opr : Nat) : Nat :=
  match opr, tyFmt t with
  | 0, some f => f.signBit
  | 1, some f | 2, some f => f.nan
  | 1, none => tyWrap t (tyMax t)
  | 2, none => tyWrap t (tyMin t)
  | 3, _ => 2 ^ tyWidth t - 1
  | _, _ => 0

/-- One level of the tree: the elements that stay, and the flags by the higher-numbered operand. -/
def redLevel (t rm opr s : Nat) (x : List (Nat × Nat) × List (Nat × Fl)) : List (Nat × Nat) × List (Nat × Fl) :=
  let get (e : Nat) : Nat := ((x.1.find? (·.1 = e)).map (·.2)).getD 0
  let step := (x.1.filter fun y => y.1 % 2 ^ (s + 1) = 0).map fun y => (y.1, redOp t rm opr y.2 (get (y.1 + 2 ^ s)))
  (step.map fun y => (y.1, y.2.1), x.2 ++ step.map fun y => (y.1 + 2 ^ s, y.2.2))
/-- R385: the tree over 64 elements. -/
def redTree (t rm opr : Nat) (xs : List Nat) : Nat × List (Nat × Fl) :=
  let r := (List.range 6).foldl (fun x s => redLevel t rm opr s x) ((List.range 64).zip xs, [])
  ((r.1.headD (0, 0)).2, r.2)

def execVred (q : Seqn) (o : VredO) (s : State) : Host.Outcome State Fault Refusal :=
  vector (.vred q o) [o.t] (do
    typed o.t arithTypes
    let rm ← rounding o.rm
    check (o.opr.toNat < 6) 0x01 (dw0 (.vred q o))
    let c ← getC
    let t := o.t.toNat
    let act := c.active o.me o.vm
    let r := redTree t rm o.opr.toNat ((List.range 64).map fun e =>
      if act.contains e then c.el t o.a e else redId t o.opr.toNat)
    fpDone r.2
    wrS o.d (tyScalar t r.1)) s

/-- R385: the running values of a scan over the active lanes, with their flags. -/
def scanFrom (t rm opr : Nat) (c : Ctx) (a : BitVec 5) : Nat → List Nat → List (Nat × Nat × Fl)
  | _, [] => []
  | y, e :: r =>
    let v := redOp t rm opr y (c.el t a e)
    (e, v.1, v.2) :: scanFrom t rm opr c a v.1 r

def execVscan (q : Seqn) (o : VredO) (s : State) : Host.Outcome State Fault Refusal :=
  vector (.vscan q o) [o.t] (do
    typed o.t arithTypes
    let rm ← rounding o.rm
    check (o.opr.toNat < 6) 0x01 (dw0 (.vscan q o))
    let c ← getC
    let t := o.t.toNat
    let rs := scanFrom t rm o.opr.toNat c o.a (redId t o.opr.toNat) (c.active o.me o.vm)
    fpDone (rs.map fun x => (x.1, x.2.2))
    putLanes o.d.toNat (rs.map fun x => (x.1, x.2.1))) s

def execVcntge (q : Seqn) (o : VcntO) (s : State) : Host.Outcome State Fault Refusal :=
  vector (.vcntge q o) [o.t] (do
    typed o.t arithTypes
    let c ← getC
    let t := o.t.toNat
    let b := elem t ((c.reg o.b).setWidth 32)
    wrS o.d (word ((c.active o.me o.vm).filter fun e => (tyCmp t 5 (c.el t o.a e) b).1).length)) s

end Sys2Proof.Machine
end

