-- ==== Sys2Proof/Machine/Rules.lean ====
section
/-! DEFINITION. Engine operands in local memory and tiles, for an instruction of a context and for a firing of a rule; stream
states (R165); installation (R172 to R175) and readiness (R177). -/

namespace Sys2Proof.Machine
open Sys2Proof

/-! Operands of engines. -/

/-- A firing (R178): its rule, the tiles of its stream operands and of its carry tile (0: none), and its substitute (R183). -/
structure Fire where
  own : RuleOwner
  slot : Nat
  a : BitVec 32
  b : BitVec 32
  d : BitVec 32
  carry : BitVec 32
  sub : BitVec 32
  deriving DecidableEq, Repr

/-- The slot of a handle, while its pages are kept: also of a tile that is being freed (R155). -/
def State.tileKept (s : State) (h : BitVec 32) : Option Nat :=
  match s.slotOf h with
  | none => none
  | some (k, g) => if (s.tile k).gen = g && (s.tile k).pmap != [] then some k else none
/-- The key of byte `o` of a local view. -/
def State.viewKey (s : State) (v : View) (o : Nat) : Option Nat :=
  match v with
  | .mem k => some (k + o)
  | .tile h => (s.tileKept h).map fun tk => s.tileByte tk o
  | _ => none
/-- `n` bytes of a local view from `o` on; `none` where one is poisoned (R43). A tile that has gone reads as zeros. -/
def State.viewRead (s : State) (v : View) (o n : Nat) : Option (List Byte) :=
  let ks := (List.range n).map fun i => s.viewKey v (o + i)
  if ks.any fun k => match k with | some k => s.poison.contains k | none => false then none
  else some (ks.map fun k => match k with | some k => Mem.read s.mem k | none => 0)
/-- Bytes written to a local view; those of a tile that has gone are lost (R155). -/
def State.viewWrite (s : State) (v : View) (o : Nat) (bs : List Byte) : State :=
  ((List.range bs.length).zip bs).foldl (fun s x => match s.viewKey v (o + x.1) with
    | some k => s.store k [x.2]
    | none => s) s
/-- The scoreboard's ranges of `n` bytes of a local view. -/
def State.viewRng (s : State) (v : View) (o n : Nat) (w : Bool) : List Rng :=
  match v with
  | .mem k => [⟨k + o, n, w⟩]
  | .tile h => match s.tileKept h with | some tk => s.tileRng tk w | none => []
  | _ => []

/-- The view is a tile on its way to another pool (R149). -/
def State.viewMoving (s : State) (v : View) : Bool :=
  match v with
  | .tile h => ((s.tileKept h).map fun tk => (s.tile tk).moving).getD false
  | _ => false

/-- The first byte of space 1, 2 or 3 of a core as a view. -/
def spaceView (core sp : Nat) : View :=
  match sp with
  | 1 => .mem (lsKey core 0)
  | 2 => .mem (lsKey (clusterOf core * 12) 0)
  | _ => .mem (dxKey (dieOf core) 0)
/-- `n` bytes at an offset of LS, CX or DX pass their limits (R213). -/
def localRange (sp x n : Nat) : M Unit := do
  let s ← getS
  let _ ← ofExcept (s.localKey (coreOf s.cur) sp x n)
  pure ()

/-- R175: the tile's owner, or a member of its chain, fires. -/
def State.fireOwns (s : State) (f : Fire) (t : Tile) : Bool :=
  match t.owner with
  | .task u => f.own = .task u
  | .rule o j => f.own = o && (j = f.slot || (chainSlots (s.rulesOf o) 16 [f.slot]).contains j)
  | _ => false
/-- The checks of R148 for an engine operand: those of `tileFor` for a context; for a firing, without order 3 and 0x45. -/
def operandTile (f : Option Fire) (h : BitVec 32) (off n : Nat) (need : Need) : M Unit :=
  match f with
  | none => do
    let _ ← tileFor h off n need
    pure ()
  | some x => do
    let s ← getS
    let tk ← ofExcept (s.tileNamed (.rule x.own x.slot) h off)
    let t := s.tile tk
    check (off + n ≤ t.pg * 2048) 0x38 (max off (t.pg * 2048)) (tinfoTile h)
    if t.moving then waitOn .engine
    else orRaise (tileUse t h off (s.fireOwns x t || (h = x.sub && need != .wr)) need)
/-- R393 order 4: R148 orders 1 to 4 only, for the carry tile of an installing instruction. -/
def carryTile (h : BitVec 32) (off n : Nat) : M Unit := do
  let s ← getS
  let u ← userM
  let tk ← ofExcept (s.tileNamed u h off)
  check (off + n ≤ (s.tile tk).pg * 2048) 0x38 (max off ((s.tile tk).pg * 2048)) (tinfoTile h)

/-- R150: two operands that each consume one read of the same tile need two. -/
def secondRead (h h' : BitVec 32) : M Unit := do
  let s ← getS
  match s.tileOf h' with
  | some tk => check (!sameTile h h' || 2 ≤ (s.tile tk).rem) 0x30 0 (tinfoTile h')
  | none => pure ()

/-! Stream states (R165). -/

/-- A binding, a rule or a pump of the partition names the tensor. -/
def State.streamNamed (s : State) (p tid : Nat) : Bool :=
  let inF (f : SMap Binding) : Bool := f.any fun x => x.2.tid.toNat = tid
  s.ctxs.any (fun x => x.2.slot != .free && x.2.part = p && inF x.2.f) ||
  s.keepers.any (fun x => x.2.part = p && inF x.2.f) ||
  s.saves.any (fun x => x.2.part = p && x.2.task.isSome && inF (s.savedCtx x.1).f) ||
  (s.ruleOwners p).any (fun o => (s.rulesOf o).any fun x => x.2.reads tid || x.2.tidd.toNat = tid) ||
  s.subs.any (fun x => x.2.part = p && (x.2.src = tid || x.2.dst = tid))
/-- The state has ended, and nothing keeps it. -/
def State.streamGone (s : State) (p tid : Nat) : Bool :=
  match SMap.get? s.streams (p * 65536 + tid) with
  | none => true
  | some x => x.eosx.isSome && !x.slices.any (fun y => (s.tileOf y.2).isSome) && !s.streamNamed p tid
/-- The state of a tensor's stream, created where there is none: NEXT starts at STORED for a tensor in HBM. -/
def State.streamFor (s : State) (p tid : Nat) (t : Tensor) : State :=
  if !s.streamGone p tid then s
  else s.setStream p tid { Stream.empty with next := if t.ttab = 0 then 0 else t.stored, used := true }
/-- R164: the bytes of a slice of a stream. -/
def State.sliceBytesOf (s : State) (p tid : Nat) : Nat :=
  match s.tensor p tid with
  | some t => t.sliceBytes
  | none => 0

/-! Installation. -/

/-- What an installing instruction names: the slots f of its stream operands, and its carried operand (R175). -/
structure Install where
  a : Option (BitVec 5)
  b : Option (BitVec 5)
  d : Option (BitVec 5)
  ckind : BitVec 8
  carry : BitVec 32
  deriving DecidableEq, Repr

/-- A binding of the running context in the direction that an operand needs (R173 order 2). -/
def bound (n : BitVec 5) (out : Bool) : M Binding := do
  let c ← getC
  match SMap.get? c.f n.toNat with
  | some b => if b.out = out then pure b else raise 0x40 0 (tinfoStream n.toNat 0)
  | none => raise 0x40 0 (tinfoStream n.toNat 0)
def boundOpt (n : Option (BitVec 5)) (out : Bool) : M (Option Binding) :=
  match n with
  | none => pure none
  | some n => do pure (some (← bound n out))

/-- R173 order 6. -/
def State.carryFault (s : State) (t : Nat) (h : BitVec 32) : Option Exc :=
  match s.tileOf h with
  | none => some (exc 0x39 0 (tinfoTile h))
  | some tk =>
    let x := s.tile tk
    let mine := match x.owner with
      | .task u => u = t
      | .rule (.task u) _ => u = t
      | _ => false
    if x.st = .alloc && mine then none else some (exc 0x39 x.st.code (tinfoTile h))

/-- The lowest free rule slot. -/
def Ctx.freeRule (c : Ctx) : Nat := ((List.range 16).find? fun k => !(SMap.keys c.k).contains k).getD 0
/-- OUTF (R185). -/
def outField (b : Option Binding) : BitVec 32 :=
  match b with
  | none => 0
  | some b => BitVec.ofNat 32 (b.lvl.toNat * 2 ^ 30 + b.pg.toNat * 2 ^ 24 + b.rds.toNat)
/-- A tensor id, or 0xFFFF. -/
def tidOf (b : Option Binding) : BitVec 16 := match b with | some b => b.tid | none => 0xFFFF

/-- R174: the rule's holds on the committed slices from CUR on. -/
def State.holdSlices (s : State) (own : RuleOwner) (k p cur : Nat) (tids : List (BitVec 16)) : Except Exc State :=
  tids.foldlM (fun s t => (s.stream p t.toNat).slices.foldlM (fun s x =>
    if cur ≤ x.1 then s.holdOr (.rule own k) x.2 else .ok s) s) s
/-- R175: a rule carries a tile. -/
def State.carryOn (s : State) (own : RuleOwner) (core slot k : Nat) (h : BitVec 32) : Except Exc State :=
  match s.tileOf h with
  | none => .ok s
  | some tk =>
    let s1 := if (s.tile tk).carry then s else s.modTile tk fun t =>
      { t with carry := true, owner := .rule own k, ownerW := ruleOwnerWord core slot k }
    s1.holdOr (.rule own k) h

/-- The number of the stream slot f that an installed instruction names as operand A (0), B (1) or output (2). -/
def Rule.fslot (r : Rule) (n : Nat) : Nat :=
  let of (a b d : BitVec 5) : Nat := (if n = 0 then a else if n = 1 then b else d).toNat
  match decodeNat r.img with
  | .ok (.lnop _ _ o) => of o.a o.b o.d
  | .ok (.mma _ _ o) | .ok (.mmaq _ _ o) => of o.a o.b o.d
  | .ok (.scacc _ _ o) => of o.a o.b o.d
  | .ok (.cpy _ _ o) => of o.c.a o.c.b o.c.d
  | _ => 0

/-! Readiness (R177). -/

/-- The requests of an owner's rules that no longer meet R177 are withdrawn. -/
def State.withdraw (s : State) (o : RuleOwner) : State :=
  if s.reqs = [] then s
  else { s with reqs := s.reqs.filter fun q => match q.who with
    | .rule o' k => o' != o || match SMap.get? (s.rulesOf o) k with
      | some r => r.st = .armed && s.ruleReady o k r
      | none => false
    | _ => true }

/-- Rule `k` of the context in a slot, with its owner; the context must be in RUN or RES (R177 condition 1). -/
def State.ruleAt (s : State) (key k : Nat) : Option (RuleOwner × Rule) :=
  let c := s.ctx key
  if c.inSlot then (SMap.get? (s.rulesOf c.ruleOwner) k).map fun r => (c.ruleOwner, r) else none
/-- The tile that a firing writes, if it writes one: its result, or its carry tile. -/
def Rule.target (r : Rule) : BitVec 32 := if r.tidd != 0xFFFF then r.rslt else if r.ckind = 2 then r.carry else 0
/-- Conditions 1 to 3 of a rule in a slot. -/
def State.ruleDue (s : State) (key k : Nat) (o : RuleOwner) (r : Rule) : Bool :=
  r.st = .armed && (s.ctx key).stall != some .cancelled && !s.leaving (s.partOf o) (clusterOf (coreOf key)) && s.ruleReady o k r
/-- A rule that meets conditions 1 to 3 has its result tile, or needs none. -/
def Rule.supplied (r : Rule) : Bool := r.tidd = 0xFFFF || r.rslt != 0
/-- R177, R178: a rule that its engine can take: it meets conditions 1 to 4, and its tiles lie still (R149). -/
def State.fireReady (s : State) (key k : Nat) : Bool :=
  match s.ruleAt key k with
  | none => false
  | some (o, r) => s.ruleDue key k o r && r.supplied &&
    !(r.target :: r.sub :: s.inputTiles (s.partOf o) r).any fun h => s.viewMoving (.tile h)
/-- The unit of the MX engine that a rule fires in: the field, or the drain unit (R398). -/
def Rule.unit (r : Rule) : Option Bool :=
  match decodeNat r.img with
  | .ok (.mma _ _ _) | .ok (.mmaq _ _ _) => some true
  | .ok (.scacc _ _ _) => some false
  | _ => none

/-- R172 to R174. `rs` are the ranges of the operands that are no streams. -/
def install (i : Instr) (x : Install) (rs : List Rng) : M Unit := do
  check (x.a.isSome || x.b.isSome) 0x42 (dw0 i)
  let ba ← boundOpt x.a false
  let bb ← boundOpt x.b false
  let bd ← boundOpt x.d true
  let all := ba.toList ++ bb.toList ++ bd.toList
  let first := (x.a.or x.b).getD 0
  check (all.all fun b => b.sext = (all.map (·.sext)).headD 0) 0x47 0 (tinfoStream first.toNat 0)
  let c ← getC
  let s ← getS
  check (c.k.length < 16) 0x3D c.k.length
  let b0 := (ba.or bb).getD ⟨0, false, 0, 0, 0, 0, 0⟩
  let base := s.streamBase c.part b0.tid.toNat
  check (b0.fromBase || base ≤ b0.start.toNat) 0x25 b0.tid.toNat base
  if x.ckind = 2 then orRaise (s.carryFault c.task x.carry)
  ordered rs
  irrevocably (do
    let c ← getC
    let s ← getS
    let k := c.freeRule
    let own := RuleOwner.task c.task
    let cur := if b0.fromBase then base else b0.start.toNat
    let n := encodeNat i
    let r : Rule := {
      img0 := dwOf n 0, img1 := dwOf n 1, img2 := dwOf n 2, img3 := dwOf n 3, cur := cur, st := .armed, fcause := 0,
      rank := c.installs, tida := tidOf ba, tidb := tidOf bb, tidd := tidOf bd, outf := outField bd, carry := x.carry,
      ckind := x.ckind, rslt := 0, sub := 0, subOp := 0, obj := ((s.objAt c.part c.pc).map (·.idx)).getD 0xFFFF,
      home := s.cur, pins := [], ft := 0, out := none }
    modS fun s => s.readObjs c.part ((s.objAt c.part c.pc).map (·.idx))
    modC fun c => { c with k := SMap.put c.k k r, installs := c.installs + 1 }
    let s ← getS
    match (if x.ckind = 2 then s.carryOn own (coreOf s.cur) (s.cur % 4) k x.carry else .ok s).bind
        (fun s => s.holdSlices own k c.part cur ((ba.toList ++ bb.toList).map (·.tid))) with
    | .error e => raiseE e
    | .ok s1 =>
      let eos : Bool := match s1.ruleEos c.part r with | some e => e ≤ cur | none => false
      modW fun _ => (s1.withdraw own, if eos then [.ruleEnd own k] else []))

/-- R175: an ordinary instruction must not name a carried accumulator. -/
def accsFree (l : List Nat) : M Unit := do
  let c ← getC
  match l.find? fun a => c.k.any fun x => x.2.accs.contains a with
  | some a => raise 0x45 a
  | none => pure ()

end Sys2Proof.Machine
end

