-- ==== Sys2Proof/Machine/LoopNest.lean ====
section
/-! DEFINITION. The loop-nest instruction (R257, R388 to R397), executed by a context or by a firing of its rule. -/

namespace Sys2Proof.Machine
open Sys2Proof

/-! Fields (R257). -/

/-- The extents of the levels in use, level 0 first. -/
def lnExtents (o : LnopO) : List Nat :=
  ([o.e0, o.e1, o.e2, o.e3, o.e4].take (o.nlv.toNat + 1)).map (·.toNat + 1)
/-- The strides of an operand, level 0 first: 0 D, 1 A, 2 B. -/
def lnStrides (o : LnopO) (x : Nat) : List (BitVec 8) :=
  match x with
  | 0 => [o.sd0, o.sd1, o.sd2, o.sd3, o.sd4]
  | 1 => [o.sa0, o.sa1, o.sa2, o.sa3, o.sa4]
  | _ => [o.sb0, o.sb1, o.sb2, o.sb3, o.sb4]
def lnScale (o : LnopO) (x : Nat) : Int := 16 ^ (match x with | 0 => o.scd | 1 => o.sca | _ => o.scb).toNat
/-- R257: the levels are inconsistent. -/
def lnNestBad (o : LnopO) : Bool :=
  let n := o.nlv.toNat + 1
  5 < n || (([o.e0, o.e1, o.e2, o.e3, o.e4].drop n).any (· != 0)) || [0, 1, 2].any fun x => (((lnStrides o x)).drop n).any (· != 0)
/-- CMD, for TVAL. -/
def cmdOf (i : Instr) : Nat := dw1 i % 2 ^ 39

/-! Functions and types (R390 to R392). -/

/-- The functions that need B. -/
def lnBinary (fn : Nat) : Bool := (1 ≤ fn && fn ≤ 6) || fn = 16
/-- R391: the type that a type widens to. -/
def lnWide (t : Nat) : Nat :=
  match t with
  | 5 | 6 | 9 | 10 => 2
  | 3 | 7 => 0
  | 4 | 8 => 1
  | t => t
/-- R390 to R392 and the fields SAT and RM, in order. -/
def lnFunction (i : Instr) (o : LnopO) : M Unit := do
  let fn := o.fn.toNat
  let t := o.t.toNat
  let dt := o.dt.toNat
  check (fn < 17) 0x01 (dw0 i)
  check (lnBinary fn == (o.kb != 0)) 0x1E o.kb.toNat
  check (t ≤ 10 && (if fn = 16 || (9 ≤ fn && fn ≤ 12) then wideFloats.contains t else !(fn = 7 || fn = 8) || signTypes.contains t)) 0x18 t
  check (dt ≤ 10 && (fn != 16 || dt = t)) 0x18 dt
  check (fn = 13 || fn = 16 || (if 7 ≤ fn && fn ≤ 12 then dt = t else if fn = 0 then dt = t || dt = lnWide t
    else (dt = t && t ≤ 8) || (dt != t && dt = lnWide t))) 0x1B dt
  check (!o.sat || fn = 13) 0x01 (dw0 i)
  let _ ← rounding o.rm

/-- Re of a × b and im of a × b, each exact and rounded once (R392). -/
def cmul (f : Fmt) (w rm a b : Nat) : Nat × Fl :=
  let x (v i : Nat) : Fp := f.unpack (v / 2 ^ (w * i) % 2 ^ w)
  let part (p q : Fp × Fl) : Nat × Fl :=
    let (z, g) := Fp.add rm p.1 q.1
    let (r, h) := f.pack rm false z
    (r, p.2 ||| q.2 ||| g ||| h)
  let m := Fp.mul (x a 1) (x b 1)
  let re := part (Fp.mul (x a 0) (x b 0)) (m.1.neg, m.2)
  let im := part (Fp.mul (x a 0) (x b 1)) (Fp.mul (x a 1) (x b 0))
  (re.1 + im.1 * 2 ^ w, re.2 ||| im.2)

/-- R390: the result of one iteration. -/
def lnValue (o : LnopO) (rm a b d : Nat) : Cvt :=
  let t := o.t.toNat
  let dt := o.dt.toNat
  let two (op : Fn2) (x y z : Nat) : Cvt := let r := fn2 dt rm op x y z; .val r.1 r.2
  let one (op : Fn1) : Cvt := let r := fn1 t rm op a; .val r.1 r.2
  let wa := if dt = t then a else widen t dt a
  let wb := if dt = t then b else widen t dt b
  match o.fn.toNat with
  | 0 => if dt = t then .val a 0 else convert t dt rm false a
  | 1 => two .add wa wb 0
  | 2 => two .sub wa wb 0
  | 3 => two .mul wa wb 0
  | 4 => two .fma wa wb d
  | 5 => two .min wa wb 0
  | 6 => two .max wa wb 0
  | 7 => one .abs
  | 8 => one .neg
  | 9 => one .rcp
  | 10 => one .rsq
  | 11 => one .ex2
  | 12 => one .lg2
  | 13 => convert t dt rm o.sat a
  | 14 => two .add d wa 0
  | 15 => two .max d wa 0
  | _ => match tyFmt t with
    | some f => let r := cmul f (tyWidth t) rm a b; .val r.1 r.2
    | none => .val 0 0
/-- The function reads D (R390). -/
def lnReadsD (fn : Nat) : Bool := fn = 4 || fn = 14 || fn = 15

/-! Operands (R389, R393). -/

/-- An operand: where it lies, its base there, its element size and the byte strides of the levels; or a scalar. -/
structure LnOp where
  view : View
  base : Nat
  size : Nat
  str : List Int
  val : Nat
  deriving DecidableEq, Repr

/-- The lowest offset from the base, and the end of the hull. -/
def hull (ext : List Nat) (str : List Int) (size : Nat) : Int × Int :=
  ((ext.zip str).foldl (fun m x => m + min 0 (((x.1 : Int) - 1) * x.2)) 0,
   (ext.zip str).foldl (fun m x => m + max 0 (((x.1 : Int) - 1) * x.2)) (size : Int))

def lnKind (o : LnopO) (x : Nat) : Nat := (match x with | 0 => o.kd | 1 => o.ka | _ => o.kb).toNat
def lnReg (o : LnopO) (x : Nat) : BitVec 5 := match x with | 0 => o.d | 1 => o.a | _ => o.b
def lnSize (o : LnopO) (x : Nat) : Nat := tyBytes (if x = 0 then o.dt else o.t).toNat * (if o.fn = 16 then 2 else 1)
def lnByteStrides (o : LnopO) (x : Nat) : List Int :=
  ((lnStrides o x)).map fun s => s.toInt * (lnScale o x) * ((lnSize o x) : Int)
def lnHull (o : LnopO) (x : Nat) : Int × Int := Machine.hull (lnExtents o) ((lnByteStrides o x)) ((lnSize o x))
/-- An offset that may lie below zero, as an unsigned address. -/
def offNat (i : Int) : Nat := if i < 0 then (2 ^ 64 + i).toNat else i.toNat

/-- The handle of a tile operand: from its register, or from the firing. -/
def lnHandle (o : LnopO) (f : Option Fire) (c : Ctx) (x : Nat) : BitVec 32 :=
  match f, (lnKind o x), x with
  | some f, 5, 0 => f.d
  | some f, 5, 1 => f.a
  | some f, 5, _ => f.b
  | some f, 4, _ => f.carry
  | _, _, _ => c.hreg ((lnReg o x))

/-- R393 order 2 for one operand. -/
def lnAligned (o : LnopO) (x : Nat) : M Unit := do
  let c ← getC
  let a := (c.reg ((lnReg o x))).toNat
  check (!((lnKind o x) = 1 || (lnKind o x) = 2) || a % (lnSize o x) = 0) 0x22 a
/-- R393 order 3 for one operand. -/
def lnRange (o : LnopO) (x : Nat) : M Unit := do
  let c ← getC
  if (lnKind o x) = 1 || (lnKind o x) = 2 then
    let (lo, hi) := lnHull o x
    localRange ((lnKind o x)) (offNat ((c.reg ((lnReg o x))).toNat + lo)) (hi - lo).toNat
/-- R393 order 4 for one operand. -/
def lnTile (o : LnopO) (f : Option Fire) (installing : Bool) (x : Nat) : M Unit := do
  let c ← getC
  let k := (lnKind o x)
  let (lo, hi) := lnHull o x
  let h := lnHandle o f c x
  let n := (hi - lo).toNat
  if k = 4 && installing then carryTile h (offNat lo) n
  else if k = 3 || k = 4 || k = 7 || (k = 5 && f.isSome) then
    operandTile f h (offNat lo) n (if x = 0 then .wr else if k = 7 then .use else .rd)
/-- A scalar operand's value; that of a pair has re in the low half of the register and im in the half above it (R392). -/
def lnScalar (o : LnopO) (r : Word) (n : Nat) : Nat :=
  if o.fn = 16 then r.toNat % 2 ^ (4 * n) + r.toNat / 2 ^ 32 % 2 ^ (4 * n) * 2 ^ (4 * n) else r.toNat % 2 ^ (8 * n)
/-- The operands in use. -/
def lnUsed (o : LnopO) : List Nat := if o.kb = 0 then [0, 1] else [0, 1, 2]
/-- An operand whose checks have passed. -/
def lnOperand (o : LnopO) (f : Option Fire) (core : Nat) (c : Ctx) (x : Nat) : LnOp :=
  let k := (lnKind o x)
  let r := c.reg ((lnReg o x))
  { view := if k = 1 || k = 2 then spaceView core k else if k = 6 then .none else .tile (lnHandle o f c x)
    base := if k = 1 || k = 2 then r.toNat else 0
    size := (lnSize o x)
    str := (lnByteStrides o x)
    val := lnScalar o r (lnSize o x) }
/-- The hull of an operand in the scoreboard (R395). -/
def State.lnRng (s : State) (o : LnopO) (core : Nat) (c : Ctx) (x : Nat) : List Rng :=
  if (lnKind o x) = 5 || (lnKind o x) = 6 then []
  else
    let p := lnOperand o none core c x
    let (lo, hi) := lnHull o x
    s.viewRng p.view (offNat (p.base + lo)) (hi - lo).toNat (x = 0)

/-! The nest (R394). -/

/-- The indices of iteration `n`, level 0 first and fastest. -/
def indices : List Nat → Nat → List Nat
  | [], _ => []
  | e :: r, n => n % e :: indices r (n / e)
/-- The offset of an operand at an iteration. -/
def LnOp.at_ (p : LnOp) (ix : List Nat) : Nat :=
  offNat ((ix.zip p.str).foldl (fun m x => m + (x.1 : Int) * x.2) (p.base : Int))
/-- An operand's value at an iteration; `none` on poison. -/
def State.lnGet (s : State) (p : LnOp) (ix : List Nat) : Option Nat :=
  match p.view with
  | .none => some p.val
  | v => (s.viewRead v (p.at_ ix) p.size).map leNat

/-- What the nest has come to: the state with its writes, the flags of the iterations that set any, the lanes out of range. -/
structure LnRun where
  s : State
  fl : List (Nat × Fl)
  range : Nat
  deriving DecidableEq, Repr

/-- One iteration. -/
def lnStep (o : LnopO) (rm : Nat) (d a b : LnOp) (x : LnRun) (n : Nat) : Except Exc LnRun :=
  let ix := indices (lnExtents o) n
  match x.s.lnGet a ix, x.s.lnGet b ix, (if lnReadsD o.fn.toNat then x.s.lnGet d ix else some 0) with
  | some va, some vb, some vd =>
    match lnValue o rm va vb vd with
    | .val r fl => .ok { x with s := x.s.viewWrite d.view (d.at_ ix) (leBytes d.size r), fl := if fl = 0 then x.fl else (n % 64, fl) :: x.fl }
    | .range => .ok { x with range := x.range ||| 2 ^ (n % 64) }
  | none, _, _ => .error (exc 0x5B (a.at_ ix))
  | _, none, _ => .error (exc 0x5B (b.at_ ix))
  | _, _, none => .error (exc 0x5B (d.at_ ix))

/-- R394: the whole nest; nothing is performed where a trap is raised. -/
def lnRun (o : LnopO) (f : Option Fire) : M Unit := do
  let s ← getS
  let c ← getC
  let core ← coreM
  let op := lnOperand o f core c
  let b : LnOp := if o.kb = 0 then { view := .none, base := 0, size := 0, str := [], val := 0 } else op 2
  let x ← ofExcept ((List.range ((lnExtents o).foldl (· * ·) 1)).foldlM (lnStep o (rmOf o.rm.toNat c.fpc) (op 0) (op 1) b) ⟨s, [], 0⟩)
  check (x.range = 0) 0x16 x.range
  fpDone x.fl.reverse
  modS fun s' => { s' with mem := x.s.mem, poison := x.s.poison }

/-- The checks of R257 and R389 to R392. -/
def lnForm (i : Instr) (o : LnopO) : M Unit := do
  check (!(lnNestBad o)) 0x1D (cmdOf i)
  check ([1, 2, 3, 4, 5].contains o.kd.toNat) 0x1E o.kd.toNat
  check ([1, 2, 3, 5, 6, 7].contains o.ka.toNat) 0x1E o.ka.toNat
  check ([0, 1, 2, 3, 5, 6, 7].contains o.kb.toNat) 0x1E o.kb.toNat
  lnFunction i o
/-- The checks of R393. -/
def lnChecks (i : Instr) (o : LnopO) (f : Option Fire) (installing : Bool) : M Unit := do
  let (lo, hi) := lnHull o 0
  check (hi - lo ≤ 65536) 0x1D (cmdOf i)
  (lnUsed o).forM (lnAligned o)
  (lnUsed o).forM (lnRange o)
  (lnUsed o).forM (lnTile o f installing)
  let c ← getC
  if o.ka = 7 && o.kb = 7 then secondRead (c.hreg o.a) (c.hreg o.b)

/-- One execution of `lnop` that installs nothing. -/
def lnopM (i : Instr) (o : LnopO) (f : Option Fire) : M Unit := do
  lnForm i o
  lnChecks i o f false
  let s ← getS
  let c ← getC
  let core ← coreM
  if f.isNone then
    ordered ((lnUsed o).flatMap (s.lnRng o core c))
    mayConsume ((if o.ka = 7 then [c.hreg o.a] else []) ++ if o.kb = 7 then [c.hreg o.b] else [])
  lnRun o f
  if f.isNone then
    if o.ka = 7 then consume (c.hreg o.a) 1
    if o.kb = 7 then consume (c.hreg o.b) 1

/-- R396. -/
def lnInstall (i : Instr) (o : LnopO) : M Unit := do
  lnForm i o
  check ((o.kd = 4 || o.kd = 5) && o.ka != 7 && o.kb != 7) 0x42 (dw0 i)
  lnChecks i o none true
  let s ← getS
  let c ← getC
  let core ← coreM
  install i {
    a := if o.ka = 5 then some o.a else none, b := if o.kb = 5 then some o.b else none,
    d := if o.kd = 5 then some o.d else none, ckind := if o.kd = 4 then 2 else 0,
    carry := if o.kd = 4 then c.hreg o.d else 0 } ((lnUsed o).flatMap (s.lnRng o core c))

def execLnop (q : Seqn) (y : Sync) (o : LnopO) (s : State) : Host.Outcome State Fault Refusal :=
  let stream := o.kd = 5 || o.ka = 5 || o.kb = 5
  retire (.lnop q y o) (do
    if stream then need 6
    fp8 [o.t, o.dt]) (do
    if stream then lnInstall (.lnop q y o) o else lnopM (.lnop q y o) o none
    pure true) s

end Sys2Proof.Machine
end

