-- ==== Sys2Proof/Machine/Planes.lean ====
section
/-! DEFINITION. Dibit planes (R197 to R201, R401): elements of planar operands, and linear bytes laid out as planes. -/

namespace Sys2Proof.Machine
open Sys2Proof

/-- R201 TYPE: the floats are 8 to 11. -/
def plFloat (ty : Nat) : Bool := 8 ≤ ty && ty ≤ 11
def plFmt (ty : Nat) : Fmt :=
  match ty with
  | 8 => .e4m3
  | 9 => .e5m2
  | 10 => .bf16
  | _ => .f16
/-- The stored width in dibits (R197, R198). -/
def plStored (ty : Nat) : Nat :=
  match ty with
  | 0 | 4 => 1
  | 1 | 5 => 2
  | 2 | 6 => 3
  | 3 | 7 => 4
  | 8 | 9 => 2
  | 10 => 4
  | _ => 6
/-- R201 RW: the read width in dibits. -/
def plRead (rw : Nat) : Nat := if rw = 4 then 6 else rw + 1
/-- The element width in bits of a linear operand of R201 TYPE, or of 12 (f32). -/
def plBits (ty : Nat) : Nat :=
  match ty with
  | 0 | 4 => 2
  | 1 | 5 => 4
  | 2 | 6 => 6
  | 3 | 7 | 8 | 9 => 8
  | 10 | 11 => 16
  | _ => 32

def roundUpTo (n m : Nat) : Nat := (n + m - 1) / m * m
/-- PS (R401). -/
def plStride (h k : Nat) : Nat := roundUpTo ((h * k + 3) / 4) 64
/-- SE (R401). -/
def plSignExp (ty h k : Nat) : Nat :=
  if plFloat ty then roundUpTo (h * k * (if ty = 10 then 2 else 1)) (plStride h k) else 0
/-- The stored size, and the bytes of a read at `w` dibits. -/
def plBytes (ty h k w : Nat) : Nat := plSignExp ty h k + w * plStride h k
def plSize (ty h k : Nat) : Nat := plBytes ty h k (plStored ty)

/-- A planar operand: H rows of K elements of a type, read at `wr` dibits, from byte `base` of a view. -/
structure Planar where
  view : View
  base : Nat
  ty : Nat
  h : Nat
  k : Nat
  wr : Nat
  deriving DecidableEq, Repr

/-- The dibit of element `i` in plane `p` (R197). -/
def State.dibit (s : State) (x : Planar) (p i : Nat) : Option Nat :=
  (s.viewRead x.view (x.base + plSignExp x.ty x.h x.k + p * plStride x.h x.k + i / 4) 1).map fun b =>
    leNat b / 2 ^ (2 * (i % 4)) % 4
/-- The dibits of planes 0 to wr − 1, plane 0 most significant. -/
def State.digits (s : State) (x : Planar) (i : Nat) : Option Nat :=
  (List.range x.wr).foldlM (fun n p => (s.dibit x p i).map (n * 4 + ·)) 0
/-- R200: the integer read. -/
def State.plInt (s : State) (x : Planar) (i : Nat) : Option Int :=
  (s.digits x i).map fun n => if x.ty < 4 && 2 ^ (2 * x.wr - 1) ≤ n then (n : Int) - 2 ^ (2 * x.wr) else n
/-- R198, R200: the float read. -/
def State.plFp (s : State) (x : Planar) (i : Nat) : Option Fp := do
  let f := plFmt x.ty
  let w := if x.ty = 10 then 2 else 1
  let se := leNat (← s.viewRead x.view (x.base + i * w) w)
  let d ← s.digits x i
  let e := se % 2 ^ f.e
  let neg := se / 2 ^ (8 * w - 1) % 2 = 1
  -- the bits read, the low pad bit of a full read apart
  let pad := 2 * x.wr - min (2 * x.wr) (f.m + 1)
  let sig := d / 2 ^ pad
  let n := 2 * x.wr - pad
  let trail := sig % 2 ^ (n - 1)
  if e = 2 ^ f.e - 1 && f.inf then
    pure (if trail = 0 then .inf neg else .nan (trail < 2 ^ (n - 2)))
  else if e = 2 ^ f.e - 1 && trail = 2 ^ (n - 1) - 1 then pure (.nan false)
  else pure (.fin neg sig ((max e 1 : Nat) - (f.bias : Int) - ((n - 1 : Nat) : Int)))

/-! Layout of linear elements as planes (R197, R198) and back, for `adrn` and the drift conversions. -/

/-- A sign-exponent entry and the significand with its hidden bit, left-aligned in the stored dibits. -/
def plSplit (ty x : Nat) : Nat × Nat :=
  let f := plFmt ty
  let e := x / 2 ^ f.m % 2 ^ f.e
  let w := if ty = 10 then 16 else 8
  let sig := (if e = 0 then 0 else 2 ^ f.m) + x % 2 ^ f.m
  (x / f.signBit % 2 * 2 ^ (w - 1) + e, sig * 2 ^ (2 * plStored ty - (f.m + 1)))
/-- The code of an element from its sign-exponent entry and its significand. -/
def plJoin (ty se sig : Nat) : Nat :=
  let f := plFmt ty
  let w := if ty = 10 then 16 else 8
  se / 2 ^ (w - 1) % 2 * f.signBit + se % 2 ^ f.e * 2 ^ f.m + sig / 2 ^ (2 * plStored ty - (f.m + 1)) % 2 ^ f.m
/-- The planes of the numbers given, each of `ws` dibits. -/
def planesOf (ws stride : Nat) (xs : List Nat) : List Byte :=
  (List.range ws).flatMap fun p =>
    let ds := xs.map fun x => x / 4 ^ (ws - 1 - p) % 4
    leBytes stride (ds.foldr (fun d n => d + 4 * n) 0)
/-- Planar bytes of H × K elements. -/
def toPlanar (ty h k : Nat) (xs : List Nat) : List Byte :=
  if plFloat ty then
    let w := if ty = 10 then 2 else 1
    let se := (xs.map fun x => (plSplit ty x).1).flatMap (leBytes w)
    se ++ List.replicate (plSignExp ty h k - se.length) 0 ++
      planesOf (plStored ty) (plStride h k) (xs.map fun x => (plSplit ty x).2)
  else planesOf (plStored ty) (plStride h k) xs
/-- The numbers of `n` elements whose planes stand in bytes. -/
def fromPlanes (ws stride n : Nat) (b : List Byte) : List Nat :=
  (List.range n).map fun i => (List.range ws).foldl (fun x p =>
    x * 4 + (b.getD (p * stride + i / 4) 0).toNat / 2 ^ (2 * (i % 4)) % 4) 0
/-- The elements of planar bytes. -/
def fromPlanar (ty h k : Nat) (b : List Byte) : List Nat :=
  let n := h * k
  if plFloat ty then
    let w := if ty = 10 then 2 else 1
    let sigs := fromPlanes (plStored ty) (plStride h k) n (b.drop (plSignExp ty h k))
    ((List.range n).zip sigs).map fun x => plJoin ty (slice b (x.1 * w) w) x.2
  else fromPlanes (plStored ty) (plStride h k) n b
/-- Elements packed from bit 0. -/
def packBits (w : Nat) (xs : List Nat) : List Byte :=
  leBytes ((xs.length * w + 7) / 8) (xs.foldr (fun x n => x % 2 ^ w + 2 ^ w * n) 0)
/-- `n` elements packed from bit 0. -/
def unpackBits (w n : Nat) (b : List Byte) : List Nat :=
  let x := leNat b
  (List.range n).map fun i => x / 2 ^ (w * i) % 2 ^ w

end Sys2Proof.Machine
end

