-- ==== Sys2Proof/Machine/Matrix.lean ====
section
/-! DEFINITION. The field instructions (R202 to R212, R398 to R417): their checks, one chunk, and their completion. -/

namespace Sys2Proof.Machine
open Sys2Proof

/-! Geometry (R203). -/

/-- G (R203). -/
def geomG (w : Nat) : Nat := 256 / w
/-- c (R203). -/
def chunkSize (wa wb : Nat) : Nat := max 1 (geomG wa * geomG wb / 4096)

/-! Fields (R402). -/

def fK (o : FieldO) : Nat := o.km1.toNat + 1
def fM (o : FieldO) : Nat := o.mm1.toNat + 1
def fN (o : FieldO) : Nat := o.nm1.toNat + 1
def fNE (o : FieldO) : Nat := o.ne.toNat + 1
def fTy (p : BitVec 8) : Nat := p.toNat / 16
def fWr (p : BitVec 8) : Nat := plRead (p.toNat % 8)
/-- TVAL of 0x50. -/
def precVal (o : FieldO) : Nat := o.pa.toNat * 256 + o.pb.toNat

/-- R202, with the narrower demands of R208 and R411. -/
def precChecks (i : Instr) (op : FieldOp) (o : FieldO) : M Unit := do
  let ta := fTy o.pa
  let tb := fTy o.pb
  let ra := o.pa.toNat % 8
  let rb := o.pb.toNat % 8
  check (!bit o.pa.toNat 3 && !bit o.pb.toNat 3) 0x01 (dw0 i)
  if op = .mma3 then check (o.pa = 0xA3 && o.pb = 0xA3) 0x50 (precVal o)
  check (ta < 12 && tb < 12 && ra < 5 && rb < 5 && !(plFloat ta && (ra = 0 || ra = 2)) && !(plFloat tb && (rb = 0 || rb = 2)) &&
    (plFloat ta == plFloat tb)) 0x50 (precVal o)
  if ta = 8 || ta = 9 || tb = 8 || tb = 9 then need 1
  if ra = 0 || rb = 0 then need 2
  check (plRead ra ≤ plStored ta) 0x54 0
  check (plRead rb ≤ plStored tb) 0x54 1
  check (o.at_ == !plFloat ta) 0x19 o.d.toNat
  if op = .mmaq then check ((tb = 5 || tb = 7) && plRead rb = plStored tb) 0x50 (precVal o)

/-- R400: the kind of A or B. -/
def fieldKind (i : Instr) (op : FieldOp) (k : BitVec 3) : M Unit := do
  if k = 5 then check (op = .mma || op = .mmaq) 0x42 (dw0 i)
  else check ([1, 2, 3, 7].contains k.toNat) 0x1E k.toNat

/-- An operand that is being set up: its view and base, the handle of its tile, and its ranges. -/
structure MxOp where
  view : View
  base : Nat
  tile : Option (BitVec 32)
  rng : List Rng
  deriving DecidableEq, Repr

/-- Where a memory operand of the MX engine lies; `n` bytes from its base count for the scoreboard. -/
def mxPlace (f : Option Fire) (kind : Nat) (reg : BitVec 5) (slice_ : BitVec 32) (n : Nat) (wr : Bool) : M MxOp := do
  let s ← getS
  let c ← getC
  let core ← coreM
  if kind = 1 || kind = 2 then
    let x := (c.reg reg).toNat
    let v := spaceView core kind
    pure ⟨v, x, none, s.viewRng v x n wr⟩
  else
    let h := if kind = 5 && f.isSome then slice_ else c.hreg reg
    pure ⟨.tile h, 0, some h, s.viewRng (.tile h) 0 n wr⟩
/-- The base of an operand in LS or CX is a multiple of `align`; `raiseAt` names one that is not (R401, R419 to R421). -/
def mxAligned (x : MxOp) (align : Nat) (raiseAt : Nat → M Unit) : M Unit :=
  if x.tile.isNone && x.base % align != 0 then raiseAt x.base else pure ()
/-- `n` bytes of an operand at an offset from its base lie where R401 lets them. -/
def mxWithin (f : Option Fire) (kind : Nat) (x : MxOp) (off n : Nat) (wr : Bool) : M Unit :=
  match x.tile with
  | some h => operandTile f h off n (if wr then .wr else if kind = 7 then .use else .rd)
  | none => localRange kind (x.base + off) n
/-- A memory operand of the MX engine, its checks passed: `n` bytes from its base. -/
def mxOperand (f : Option Fire) (kind : Nat) (reg : BitVec 5) (slice_ : BitVec 32) (n align : Nat) (raiseAt : Nat → M Unit)
    (wr : Bool) : M MxOp := do
  let x ← mxPlace f kind reg slice_ n wr
  mxAligned x align raiseAt
  mxWithin f kind x 0 n wr
  pure x
/-- R401: 0x54 with TVAL 0 for A and 1 for B. -/
def planeAt (x : Nat) : Nat → M Unit := fun _ => raise 0x54 x

/-- The bytes of A or B that are read: three terms for `mma3` (R411), one block for `bsmm` and nothing yet where a table places
the blocks (R412, R414). -/
def fieldBytes (op : FieldOp) (p : BitVec 8) (h k : Nat) : Nat :=
  let n := plBytes (fTy p) h k (fWr p)
  if op = .mma3 then 2 * plSize (fTy p) h k + n else n

/-- The bytes at an LS offset, as numbers of `w` bytes (R409, R412, R414), once what older instructions in flight write there is
done (R104, R399). -/
def lsTable (f : Option Fire) (x n w : Nat) : M (List Nat) := do
  let core ← coreM
  localRange 1 x (n * w)
  if f.isNone then ordered [⟨lsKey core x, n * w, false⟩]
  let b ← readKey (lsKey core x) (n * w) x
  pure ((List.range n).map fun i => slice b (i * w) w)

/-- A block of the topology table passes R401, or its entry is invalid. -/
def blockCheck (f : Option Fire) (kind : Nat) (x : MxOp) (off n : Nat) (bad : Exc) : M Unit := fun s =>
  match mxWithin f kind x off n false s with
  | .error (.trap _ b) => .error (.trap bad b)
  | r => r

/-- R412: the topology table. -/
def topology (f : Option Fire) (o : FieldO) (a b : MxOp) : M (List Nat) := do
  let x := (← rdS o.xr).toNat
  check (x % 8 = 0) 0x22 x
  let t ← lsTable f x (2 * fNE o) 4
  (List.range (fNE o)).forM fun i => do
    let ao := t.getD (2 * i) 0
    let bo := t.getD (2 * i + 1) 0
    check (ao % 64 = 0 && bo % 64 = 0) 0x53 i
    blockCheck f o.ka.toNat a ao (fieldBytes .bsmm o.pa (fM o) (fK o)) (exc 0x53 i)
    blockCheck f o.kb.toNat b bo (fieldBytes .bsmm o.pb (fN o) (fK o)) (exc 0x53 i)
  pure t

/-- R414: the offset vector, and the B of each expert that is not empty. -/
def offsets (f : Option Fire) (o : FieldO) (b : MxOp) : M (List Nat) := do
  let x := (← rdS o.xr).toNat
  check (x % 2 = 0) 0x22 x
  let t ← lsTable f x (fNE o + 1) 2
  (List.range (fNE o + 1)).forM fun i =>
    check (!(i = 0 && t.getD 0 0 != 0) && !(0 < i && t.getD i 0 < t.getD (i - 1) 0) && t.getD i 0 ≤ fM o) 0x52 i
  (List.range (fNE o)).forM fun e =>
    if t.getD e 0 < t.getD (e + 1) 0 then do
      mxAligned b 64 (planeAt 1)
      mxWithin f o.kb.toNat b (e * plSize (fTy o.pb) (fN o) (fK o)) (fieldBytes .gmm o.pb (fN o) (fK o)) false
    else pure ()
  pure t

/-- R416: the bias table's address, the keys of its entries, translated as by a direct atomic, and the step. -/
def biasTable (i : Instr) (o : FieldO) : M (Word × List Nat × BitVec 32) := do
  if !o.be then pure (0, [], 0)
  else
    check (o.br != 31) 0x01 (dw1 i) 1
    let a ← rdS o.br
    let u ← rdS (o.br + 1)
    check (gvForm a) 0x29 a.toNat
    check (a.toNat % 4 = 0) 0x57 a.toNat
    let ks ← (List.range (fNE o)).mapM fun e => do
      let (k, _, host) ← directly (gvPage (a + word (4 * e)) .wr)
      check (!host) 0x2C a.toNat
      pure k
    pure (a, ks, u.setWidth 32)

/-- R208, R409: the groups and zero points of `mmaq`. -/
def zeroPoints (i : Instr) (f : Option Fire) (o : FieldO) : M (List Nat × List Rng) := do
  check (o.gs != 3) 0x55 (fK o)
  let gs := 32 * 2 ^ o.gs.toNat
  check (fK o % gs = 0) 0x55 (fK o)
  let g := fK o / gs
  check (o.d.toNat + g ≤ 16) 0x51 (cmdOf i)
  let x := (← rdS o.xr).toNat
  let core ← coreM
  let zs ← (List.range g).mapM fun j => do
    let l ← lsTable f (x + 64 * j) (fN o) 1
    pure (l ++ List.replicate (64 - l.length) 0)
  pure (zs.flatten, (List.range g).map fun j => ⟨lsKey core (x + 64 * j), fN o, false⟩)

/-- The checks of a field instruction, and its job (R407, R409, R411, R412, R414, R416). Of an installing instruction, the
stream operands stay unchecked; the blocks that a table places are checked with it, and what a tilec operand consumes after it,
also where no expert reads it (R150). -/
def fieldSetup (i : Instr) (op : FieldOp) (o : FieldO) (y : Sync) (f : Option Fire) : M MxJob := do
  precChecks i op o
  fieldKind i op o.ka
  fieldKind i op o.kb
  let c ← getC
  let none_ : MxOp := ⟨.none, 0, none, []⟩
  let one (x : Nat) (k : BitVec 3) (r : BitVec 5) (sl : BitVec 32) (n : Nat) (placed : Bool) : M MxOp :=
    if k = 5 && f.isNone then pure none_
    else if placed then mxPlace f k.toNat r sl 0 false
    else mxOperand f k.toNat r sl n 64 (planeAt x) false
  let a ← one 0 o.ka o.a (match f with | some f => f.a | none => 0) (fieldBytes op o.pa (fM o) (fK o)) (op = .bsmm)
  let b ← one 1 o.kb o.b (match f with | some f => f.b | none => 0) (fieldBytes op o.pb (fN o) (fK o)) (op = .bsmm || op = .gmm)
  if op = .bsmm then
    mxAligned a 64 (planeAt 0)
    mxAligned b 64 (planeAt 1)
  let (aux, zr) ← match op with
    | .mmaq => zeroPoints i f o
    | .bsmm => do pure (← topology f o a b, [])
    | .gmm => do pure (← offsets f o b, [])
    | _ => pure ([], [])
  if op = .gmm && o.kb = 7 then mxWithin f 7 b 0 0 false
  if o.ka = 7 && o.kb = 7 then secondRead (c.hreg o.a) (c.hreg o.b)
  let (biasAt, bias, step) ← biasTable i o
  let s ← getS
  let core ← coreM
  -- the ranges of blocks that a table places
  let blocks : List Rng := match op with
    | .bsmm => (List.range (fNE o)).flatMap fun j =>
        s.viewRng a.view (a.base + aux.getD (2 * j) 0) (fieldBytes op o.pa (fM o) (fK o)) false ++
        s.viewRng b.view (b.base + aux.getD (2 * j + 1) 0) (fieldBytes op o.pb (fN o) (fK o)) false
    | .gmm => (List.range (fNE o)).flatMap fun e =>
        if aux.getD e 0 < aux.getD (e + 1) 0 then
          s.viewRng b.view (b.base + e * plSize (fTy o.pb) (fN o) (fK o)) (fieldBytes op o.pb (fN o) (fK o)) false
        else []
    | _ => []
  let xr := (c.reg o.xr).toNat
  let tbl : List Rng := match op with
    | .bsmm => [⟨lsKey core xr, 8 * fNE o, false⟩]
    | .gmm => [⟨lsKey core xr, 2 * (fNE o + 1), false⟩]
    | _ => []
  if f.isNone && o.ka != 5 && o.kb != 5 then accsFree (fieldAccs i)
  pure {
    op := op, o := o, y := y, img0 := dwOf (encodeNat i) 0, img1 := dwOf (encodeNat i) 1, pc := c.pc,
    a := match a.view with | .mem k => .mem (k + a.base) | v => v
    b := match b.view with | .mem k => .mem (k + b.base) | v => v
    aux := aux, bias := bias, biasAt := biasAt, step := step, pins := a.tile.toList ++ b.tile.toList,
    rng := a.rng ++ b.rng ++ zr ++ blocks ++ tbl ++ (fieldAccs i).map (accRng · true), memb := none, done := 0 }

/-! One chunk (R205, R206, R209). -/

/-- The non-empty experts of `gmm` (R415). -/
def experts (j : MxJob) : List Nat := (List.range (fNE j.o)).filter fun e => j.aux.getD e 0 < j.aux.getD (e + 1) 0
/-- How many passes over the k-steps an instruction makes. -/
def passes (j : MxJob) : Nat :=
  match j.op with
  | .mma | .mmaq => 1
  | .mma3 => 6
  | .bsmm => fNE j.o
  | .gmm => (experts j).length
/-- The k-steps of an instruction (MXRES). -/
def total (j : MxJob) : Nat := passes j * fK j.o
/-- R212: the terms of A and B in a pass of `mma3`: 0 hi, 1 mid, 2 lo. -/
def terms3 (p : Nat) : Nat × Nat := [(0, 2), (2, 0), (1, 1), (0, 1), (1, 0), (0, 0)].getD p (0, 0)

/-- What a chunk does: the accumulator, the rows, the k-steps, the operands, and the zero points of the group. -/
structure Chunk where
  acc : Nat
  rows : List Nat
  ks : List Nat
  a : Planar
  b : Planar
  zero : List Nat
  deriving DecidableEq, Repr

/-- The next chunk of a job. -/
def chunkOf (j : MxJob) : Chunk :=
  let o := j.o
  let k := fK o
  let p := j.done / k
  let d := j.done % k
  let c := chunkSize (fWr o.pa) (fWr o.pb)
  let gs := 32 * 2 ^ o.gs.toNat
  let (ao, bo) := match j.op with
    | .mma3 => ((terms3 p).1 * plSize (fTy o.pa) (fM o) k, (terms3 p).2 * plSize (fTy o.pb) (fN o) k)
    | .bsmm => (j.aux.getD (2 * p) 0, j.aux.getD (2 * p + 1) 0)
    | .gmm => (0, (experts j).getD p 0 * plSize (fTy o.pb) (fN o) k)
    | _ => (0, 0)
  let rows := match j.op with
    | .gmm =>
      let e := (experts j).getD p 0
      (List.range (fM o)).filter fun m => j.aux.getD e 0 ≤ m && m < j.aux.getD (e + 1) 0
    | _ => List.range (fM o)
  { acc := o.d.toNat + (if j.op = .mmaq then d / gs else 0)
    rows := rows
    ks := (List.range (min c (k - d))).map (d + ·)
    a := ⟨j.a, ao, fTy o.pa, fM o, k, fWr o.pa⟩
    b := ⟨j.b, bo, fTy o.pb, fN o, k, fWr o.pb⟩
    zero := if j.op = .mmaq then (j.aux.drop (64 * (d / gs))).take 64 else [] }

/-- R206: the exact sum of a chunk's terms. Beside a NaN, infinities of both signs set no flag (log entry 36). -/
def chunkSum (ts : List (Fp × Fl)) : Fp × Fl :=
  let fl := ts.foldl (fun x t => x ||| t.2) (0 : Fl)
  match ts with
  | [] => (.fin false 0 0, fl)
  | t :: r =>
    if ts.any (·.1.isNan) then (.nan false, fl)
    else
      let y := r.foldl (fun x t => let z := Fp.add 0 x.1 t.1; (z.1, x.2 ||| z.2)) (t.1, (0 : Fl))
      (y.1, y.2 ||| fl)

/-- One element of the result: its new word, its flags, and an overflow of the integer sum; `none` on poison. -/
def State.chunkElem (s : State) (x : Chunk) (m n : Nat) (old : BitVec 32) : Option (BitVec 32 × Fl × Bool) :=
  if plFloat x.a.ty then do
    let ts ← x.ks.mapM fun k => do
      pure (Fp.mul (← s.plFp x.a (m * x.a.k + k)) (← s.plFp x.b (n * x.b.k + k)))
    let (v, g) := chunkSum ts
    let (w, g') := Fp.add 0 (Fmt.f32.unpack old.toNat) v
    let (r, g'') := Fmt.f32.pack 0 false w
    pure (BitVec.ofNat 32 r, g ||| g' ||| g'', false)
  else do
    let ts ← x.ks.mapM fun k => do
      let a ← s.plInt x.a (m * x.a.k + k)
      let b ← s.plInt x.b (n * x.b.k + k)
      pure (a * b - ((x.zero.getD n 0 : Nat) : Int) * a)
    let t := old.toInt + ts.foldl (· + ·) 0
    pure (BitVec.ofInt 32 t, 0, t < -(2 ^ 31) || 2 ^ 31 ≤ t)

/-- R205: a chunk added to a context's accumulator; `none` on poison, and then nothing is added. -/
def State.runChunk (s : State) (c : Ctx) (j : MxJob) : Option (Ctx × MxJob) := do
  let x := chunkOf j
  let cells := x.rows.flatMap fun m => (List.range (fN j.o)).map fun n => (m, n)
  let rs ← cells.mapM fun y => do pure (y, ← s.chunkElem x y.1 y.2 (c.accw x.acc y.1 y.2))
  let c1 := rs.foldl (fun c y => c.setAcc x.acc y.1.1 y.1.2 y.2.1) c
  let c2 := c1.addFlags (rs.foldl (fun f y => f ||| y.2.2.1) 0)
  let c3 := if rs.any (·.2.2.2) then { c2 with ovf := BitVec.ofNat 16 (putBit c2.ovf.toNat x.acc true) } else c2
  pure (c3, { j with done := j.done + x.ks.length })

/-- TVAL of a poisoned operand of a chunk (R129): the offset in its tile, its LS offset or its CX address; A before B. -/
def State.chunkPoison (s : State) (j : MxJob) : Nat :=
  let x := chunkOf j
  let hit (p : Planar) (kind : Nat) (rows : List Nat) : Option Nat :=
    let w := if p.ty = 10 then 2 else 1
    let offs := rows.flatMap fun r => x.ks.flatMap fun k =>
      let i := r * p.k + k
      (if plFloat p.ty then (List.range w).map (p.base + i * w + ·) else []) ++
      (List.range p.wr).map fun q => p.base + plSignExp p.ty p.h p.k + q * plStride p.h p.k + i / 4
    (offs.find? fun o => match s.viewKey p.view o with | some k => s.poison.contains k | none => false).map fun o =>
      match p.view with
      | .mem k => if kind = 2 then (k + o - 2 ^ 65) % (12 * 2 ^ 20) else (k + o) % 2 ^ 20
      | _ => o
  ((hit x.a j.o.ka.toNat x.rows).or (hit x.b j.o.kb.toNat (List.range (fN j.o)))).getD 0

/-- Every chunk of a job, for a firing. -/
def State.runChunks (s : State) : Nat → Ctx → MxJob → Option (Ctx × MxJob)
  | 0, c, j => some (c, j)
  | n + 1, c, j => if total j ≤ j.done then some (c, j) else (s.runChunk c j).bind fun x => State.runChunks s n x.1 x.2

/-- The key of the bias entry of an expert, on the frame that its page has now (R226). -/
def State.biasKey (s : State) (p : Nat) (j : MxJob) (e : Nat) : Nat :=
  match s.translate p (j.biasAt + word (4 * e)) .wr with
  | .ok k _ _ _ => k
  | _ => j.bias.getD e 0
/-- R416: the bias updates of a `gmm` that has written D, up to a poisoned entry (R43), whose address comes with them. -/
def State.biasUpdates (s : State) (p : Nat) (j : MxJob) : State × Option Word :=
  if !j.o.be then (s, none)
  else (experts j).foldl (fun (x : State × Option Word) e =>
    let k := x.1.biasKey p j e
    if x.2.isSome then x
    else if x.1.poisoned k 4 then (x.1, some (j.biasAt + word (4 * e)))
    else
      let n := j.aux.getD (e + 1) 0 - j.aux.getD e 0
      let v := (Fmt.f32.mul 0 (Fmt.f32.round 0 false false n 0 false).1 j.step.toNat).1
      (x.1.store k (leBytes 4 (Fmt.f32.add 0 (Mem.readN x.1.mem k 4) v).1), none)) (s, none)

/-- R424: a firing of a core is in the field, or in the drain unit. -/
def State.unitFires (s : State) (core : Nat) (field : Bool) : Bool :=
  (slotsOf core).any fun key => (s.ctx key).inSlot &&
    (s.rulesOf (s.ctx key).ruleOwner).any fun x => x.2.st = .firing && x.2.unit = some field
/-- R178: a rule of a core can enter the unit before the running context's next instruction there. -/
def State.unitWanted (s : State) (core : Nat) (field : Bool) : Bool :=
  (slotsOf core).any fun key =>
    (s.rulesOf (s.ctx key).ruleOwner).any fun x => x.2.unit = some field && s.fireReady key x.1
/-- R178, R398, R424: a younger MX instruction waits for the firings of its unit. -/
def unitFree (field : Bool) : M Unit := fun s =>
  if s.unitFires (coreOf s.cur) field || s.unitWanted (coreOf s.cur) field then .error (.wait .engine none) else .ok ((), s)

/-! The five instructions. -/

/-- R83, R416: a `gmm` with bias updates enters its footprint domain. -/
def mxDomain (o : FieldO) : M (Option Nat) := do
  let s ← getS
  let c ← getC
  match (s.task c.task).launch with
  | none => pure none
  | some d =>
    let a := (c.reg o.br).toNat
    let lo := a / 256 * 256
    let r : Region := ⟨lo, (a + 4 * fNE o + 255) / 256 * 256 - lo, true⟩
    if 4096 ≤ (s.members.filter fun m => m.dom = d).length then waitOn .engine
    else
      let (s1, m, _) := s.memberEnter d [r]
      modS fun _ => s1
      pure m

/-- A field instruction of a context: the job it becomes at retirement (R398). -/
def fieldM (i : Instr) (op : FieldOp) (o : FieldO) (y : Sync) : M Bool := do
  let j ← fieldSetup i op o y none
  if o.ka = 5 || o.kb = 5 then
    install i { a := if o.ka = 5 then some o.a else none, b := if o.kb = 5 then some o.b else none, d := none, ckind := 1,
                carry := BitVec.ofNat 32 o.d.toNat } j.rng
    pure true
  else
    ordered j.rng
    unitFree true
    let c ← getC
    if 8 ≤ c.mx.length then waitOn .engine
    let start : M Unit := do
      let m ← if o.be then mxDomain o else pure none
      mayConsume ((if o.ka = 7 then [c.hreg o.a] else []) ++ if o.kb = 7 then [c.hreg o.b] else [])
      modS fun s => j.pins.foldl State.pin s
      if o.ka = 7 then consume (c.hreg o.a) 1
      if o.kb = 7 then consume (c.hreg o.b) 1
      modC fun c => { c with mx := c.mx ++ [{ j with memb := m }] }
    if o.be then irrevocably start else start
    pure false

/-- The features of R39 that a field instruction needs. -/
def fieldNeeds (op : FieldOp) (o : FieldO) : M Unit := do
  (match op with
   | .mma3 => need 3
   | .gmm => need 4
   | .bsmm => need 5
   | _ => pure ())
  if o.ka = 5 || o.kb = 5 then need 6

def execMma (q : Seqn) (y : Sync) (o : FieldO) (s : State) : Host.Outcome State Fault Refusal :=
  retire (.mma q y o) (fieldNeeds .mma o) (fieldM (.mma q y o) .mma o y) s
def execMmaq (q : Seqn) (y : Sync) (o : FieldO) (s : State) : Host.Outcome State Fault Refusal :=
  retire (.mmaq q y o) (fieldNeeds .mmaq o) (fieldM (.mmaq q y o) .mmaq o y) s
def execMma3 (q : Seqn) (y : Sync) (o : FieldO) (s : State) : Host.Outcome State Fault Refusal :=
  retire (.mma3 q y o) (fieldNeeds .mma3 o) (fieldM (.mma3 q y o) .mma3 o y) s
def execBsmm (q : Seqn) (y : Sync) (o : FieldO) (s : State) : Host.Outcome State Fault Refusal :=
  retire (.bsmm q y o) (fieldNeeds .bsmm o) (fieldM (.bsmm q y o) .bsmm o y) s
def execGmm (q : Seqn) (y : Sync) (o : FieldO) (s : State) : Host.Outcome State Fault Refusal :=
  retire (.gmm q y o) (fieldNeeds .gmm o) (fieldM (.gmm q y o) .gmm o y) s

/-- R424: a firing of an installed `mma` or `mmaq`: the whole instruction on the slice. It consumes nothing yet. -/
def fieldFire (i : Instr) (op : FieldOp) (o : FieldO) (y : Sync) (f : Fire) : M Unit := do
  let j ← fieldSetup i op o y (some f)
  let s ← getS
  let c ← getC
  match s.runChunks (total j) c j with
  | none => raise 0x5B
  | some (c', _) => modC fun _ => c'

/-- A matrix job is no more: its pins and its place in a domain go. -/
def State.endMx (s : State) (key : Nat) (j : MxJob) : State :=
  State.work ((j.pins.foldl State.unpin (s.modCtx key fun c => { c with mx := c.mx.drop 1 })).memberEnd j.memb)
/-- R122: poison that a matrix job has read traps imprecisely. -/
def State.mxPoison (s : State) (key : Nat) (j : MxJob) (tval : Nat) : State :=
  ((s.endMx key j).giveBack key).trapEnter key (exc 0x5B tval) 3 true j.pc
/-- A matrix job completes: its bias updates, and its signal (R255, R416). -/
def State.mxDone (s : State) (key : Nat) (j : MxJob) : State :=
  match s.biasUpdates (s.ctx key).part j with
  | (s1, some a) => s1.mxPoison key j a.toNat
  | (s1, none) =>
    let s2 := s1.endMx key j
    if j.y.sgn = 0 then s2 else s2.semAdd (coreOf key) j.y.sgi.toNat j.y.sgn.toNat
/-- The next chunk of a context's oldest matrix job (R205, R398, R425). -/
def State.matrixStep (s : State) (key : Nat) : State :=
  let c := s.ctx key
  match c.mx with
  | [] => s
  | j :: r =>
    if (j.memb.any fun m => s.members.any fun x => x.id = m && x.from_ != []) || s.viewMoving j.a || s.viewMoving j.b ||
        (j.o.be && s.gvMoving c.part j.biasAt (4 * fNE j.o)) then s
    else if total j ≤ j.done then s.mxDone key j
    else if c.accBad (chunkOf j).acc then let (v, s1) := s.fresh; s1.mxPoison key j v
    else match s.runChunk c j with
      | none => s.mxPoison key j (s.chunkPoison j)
      | some (c', j') =>
        let s1 := s.setCtx key { c' with mx := j' :: r }
        if total j' ≤ j'.done then s1.mxDone key j' else s1

def execMatrixChunk (core slot : Nat) (s : State) : Host.Outcome State Fault Refusal :=
  let key := core * 4 + slot
  .next (if ((s.ctx key).slot = .run || (s.ctx key).slot = .res) && (s.ctx key).stall != some .cancelled then s.matrixStep key else s)

end Sys2Proof.Machine
end

