-- ==== Sys2Proof/Machine/Drain.lean ====
section
/-! DEFINITION. The drain instructions (R403, R406, R418 to R424), and a firing of an installed `scacc`. -/

namespace Sys2Proof.Machine
open Sys2Proof

/-- Every word of an accumulator and its OVF cleared. -/
def Ctx.clearAcc (c : Ctx) (a : Nat) : Ctx :=
  { c with acc := c.acc.filter fun x => x.1 / 4096 != a, bad := c.bad.filter fun o => !(accCell a 0 ≤ o && o < accCell (a + 1) 0), ovf := BitVec.ofNat 16 (putBit c.ovf.toNat a false) }
/-- The cells of an m × n shape, row by row. -/
def shape (m n : Nat) : List (Nat × Nat) := (List.range m).flatMap fun i => (List.range n).map fun j => (i, j)
/-- A kind that the table of R400 permits; a stream on an instruction that is not installed raises 0x42. -/
def drainKind (i : Instr) (k : BitVec 3) (permitted : List Nat) : M Unit := do
  if k = 5 && !permitted.contains 5 then raise 0x42 (dw0 i)
  check (permitted.contains k.toNat) 0x1E k.toNat
/-- An operand's address that is not a multiple of its element size. -/
def misaligned : Nat → M Unit := fun x => raise 0x22 x
/-- 0x54 for an operand that is neither A nor B: the manual gives no TVAL (log entry 8). -/
def planeFree : Nat → M Unit := fun _ s => let (v, s') := s.fresh; .error (.trap (exc 0x54 v) (some s'))

def execAclr (q : Seqn) (y : Sync) (o : AclrO) (s : State) : Host.Outcome State Fault Refusal :=
  plain (.aclr q y o) (do
    let l := (List.range 16).filter fun a => o.amask.getLsbD a
    accsFree l
    ordered (l.map (accRng · true))
    unitFree false
    modC fun c => l.foldl Ctx.clearAcc c) s

/-- The bytes of a local operand; poison raises 0x5B. -/
def mxBytes (x : MxOp) (n : Nat) : M (List Byte) := do
  let s ← getS
  match s.viewRead x.view x.base n with
  | some b => pure b
  | none => raise 0x5B x.base

def execAld (q : Seqn) (y : Sync) (o : AldO) (s : State) : Host.Outcome State Fault Refusal :=
  retire (.ald q y o) (if o.ka = 5 then need 6 else pure ()) (do
    let m := o.mm1.toNat + 1
    let n := o.nm1.toNat + 1
    drainKind (.ald q y o) o.ka [1, 2, 3, 7]
    let x ← mxOperand none o.ka.toNat o.a 0 (4 * m * n) 4 misaligned false
    accsFree [o.d.toNat]
    ordered (accRng o.d.toNat true :: x.rng)
    unitFree false
    if o.ka = 7 then mayConsume [← rdH o.a]
    let b ← mxBytes x (4 * m * n)
    if o.ka = 7 then consume (← rdH o.a) 1
    modC fun c =>
      let c1 := (shape m n).foldl (fun c y => c.setAcc o.d.toNat y.1 y.2 (BitVec.ofNat 32 (slice b (4 * (y.1 * n + y.2)) 4))) c
      { c1 with ovf := BitVec.ofNat 16 (putBit c1.ovf.toNat o.d.toNat false) }
    pure true) s

/-- The R201 TYPE of a vector type that R420 lays out as planes. -/
def plType (t : Nat) : Nat :=
  match t with
  | 5 => 11
  | 6 => 10
  | 7 => 3
  | 8 => 7
  | 9 => 8
  | _ => 9

def execAdrn (q : Seqn) (y : Sync) (o : AdrnO) (s : State) : Host.Outcome State Fault Refusal :=
  retire (.adrn q y o) (do
    if o.kd = 5 then need 6
    fp8 [o.dt]) (do
    let m := o.mm1.toNat + 1
    let n := o.nm1.toNat + 1
    let dt := o.dt.toNat
    check (dt ≤ 10 && (!o.lay || 5 ≤ dt)) 0x1B dt
    let rm ← rounding o.rm
    drainKind (.adrn q y o) o.kd [1, 2, 3]
    let size := tyBytes dt
    let bytes := if o.lay then plSize (plType dt) m n else size * m * n
    let x ← mxOperand none o.kd.toNat o.d 0 bytes (if o.lay then 64 else size) (if o.lay then planeFree else misaligned) true
    accsFree [o.a.toNat]
    ordered (accRng o.a.toNat o.clr :: x.rng)
    unitFree false
    let c ← getC
    let rs := (shape m n).map fun y =>
      (y.1 * n + y.2, convert (if o.at_ then 0 else 2) dt rm o.sat (c.accw o.a.toNat y.1 y.2).toNat)
    check (rangeMask rs = 0) 0x16
    fpDone (rs.map fun x => (x.1, x.2.get.2))
    let vs := rs.map fun x => x.2.get.1
    modS fun s => s.viewWrite x.view x.base (if o.lay then toPlanar (plType dt) m n vs else vs.flatMap (leBytes size))
    if o.clr then modC fun c => c.clearAcc o.a.toNat
    pure true) s

/-! `scacc` (R210, R421, R424). -/

/-- R210: one element. -/
def scaleAdd (acc : BitVec 32) (sc p : Fp) : Nat × Fl :=
  let (x, g) := Fp.mul sc p
  let (z, g') := Fp.add 0 (Fmt.f32.unpack acc.toNat) x
  let (r, g'') := Fmt.f32.pack 0 false z
  (r, g ||| g' ||| g'')

/-- What `scacc` reads: its partials and its scales, where they are in memory. -/
structure ScOps where
  a : MxOp
  b : MxOp
  deriving DecidableEq, Repr

/-- The bytes of a scale, and how many scales there are. -/
def scSize (o : ScaccO) : Nat := if o.sf then 4 else 2
def scCount (o : ScaccO) : Nat :=
  let m := o.mm1.toNat + 1
  let n := o.nm1.toNat + 1
  match o.sm.toNat with
  | 0 => n
  | 1 => m
  | _ => m * n

def scSetup (i : Instr) (o : ScaccO) (f : Option Fire) : M ScOps := do
  let m := o.mm1.toNat + 1
  let n := o.nm1.toNat + 1
  check (o.sm != 3 && !(o.kb = 6 && o.sm != 0)) 0x01 (dw0 i)
  drainKind i o.ka [0, 1, 2, 3, 5, 7]
  drainKind i o.kb [1, 2, 3, 5, 6, 7]
  let none_ : MxOp := ⟨.none, 0, none, []⟩
  let a ← if o.ka = 0 || (o.ka = 5 && f.isNone) then pure none_
    else mxOperand f o.ka.toNat o.a (match f with | some f => f.a | none => 0) (4 * m * n) 4 misaligned false
  let b ← if o.kb = 6 || (o.kb = 5 && f.isNone) then pure none_
    else mxOperand f o.kb.toNat o.b (match f with | some f => f.b | none => 0) (scSize o * scCount o) (scSize o) misaligned false
  let c ← getC
  if o.ka = 7 && o.kb = 7 then secondRead (c.hreg o.a) (c.hreg o.b)
  pure ⟨a, b⟩
/-- R399: the ranges of `scacc`. -/
def scRng (o : ScaccO) (x : ScOps) : List Rng :=
  x.a.rng ++ x.b.rng ++ (if o.ka = 0 then [accRng o.a.toNat false] else []) ++ [accRng o.d.toNat true]

/-- R421: the update of every element; a trap changes no word. -/
def scRun (o : ScaccO) (x : ScOps) : M Unit := do
  let m := o.mm1.toNat + 1
  let n := o.nm1.toNat + 1
  let z := scSize o
  let pb ← if o.ka = 0 then pure [] else mxBytes x.a (4 * m * n)
  let sb ← if o.kb = 6 then pure [] else mxBytes x.b (z * scCount o)
  let c ← getC
  let sf := if o.sf then Fmt.f32 else Fmt.f16
  let rs := (shape m n).map fun y =>
    let i := y.1 * n + y.2
    let p := if o.ka = 0 then (c.accw o.a.toNat y.1 y.2).toNat else slice pb (4 * i) 4
    let j := match o.sm.toNat with
      | 0 => y.2
      | 1 => y.1
      | _ => i
    let sc := if o.kb = 6 then (c.reg o.b).toNat % 2 ^ (8 * z) else slice sb (z * j) z
    (i, y, scaleAdd (c.accw o.d.toNat y.1 y.2) (sf.unpack sc)
      (if o.pt then Fmt.f32.unpack p else Fp.ofInt (BitVec.ofNat 32 p).toInt 0))
  fpDone (rs.map fun r => (r.1, r.2.2.2))
  modC fun c => rs.foldl (fun c r => c.setAcc o.d.toNat r.2.1.1 r.2.1.2 (BitVec.ofNat 32 r.2.2.1)) c

def execScacc (q : Seqn) (y : Sync) (o : ScaccO) (s : State) : Host.Outcome State Fault Refusal :=
  let i := Instr.scacc q y o
  retire i (if o.ka = 5 || o.kb = 5 then need 6 else pure ()) (do
    let x ← scSetup i o none
    if o.ka = 5 || o.kb = 5 then
      install i { a := if o.ka = 5 then some o.a else none, b := if o.kb = 5 then some o.b else none, d := none, ckind := 1,
                  carry := BitVec.ofNat 32 o.d.toNat } (scRng o x)
    else
      accsFree (o.d.toNat :: if o.ka = 0 then [o.a.toNat] else [])
      ordered (scRng o x)
      unitFree false
      let c ← getC
      mayConsume ((if o.ka = 7 then [c.hreg o.a] else []) ++ if o.kb = 7 then [c.hreg o.b] else [])
      scRun o x
      if o.ka = 7 then consume (← rdH o.a) 1
      if o.kb = 7 then consume (← rdH o.b) 1
    pure true) s

/-- R424: a firing; it consumes nothing yet. -/
def scFire (i : Instr) (o : ScaccO) (f : Fire) : M Unit := do
  let x ← scSetup i o (some f)
  scRun o x

/-! Row reductions and the overflow bits (R422, R423). -/

/-- R422: the reduction of words; the list is not empty. -/
def rowReduce (opr : Nat) (int : Bool) (xs : List Nat) : Nat × Fl :=
  if int then
    let vs := xs.map fun x => (BitVec.ofNat 32 x).toInt
    let v0 := vs.headD 0
    ((BitVec.ofInt 32 (match opr with
      | 0 => vs.foldl (· + ·) 0
      | 1 => vs.foldl max v0
      | 2 => vs.foldl min v0
      | _ => vs.foldl (fun m v => max m (v.natAbs : Int)) 0)).toNat, 0)
  else
    let f := Fmt.f32
    match opr with
    | 0 =>
      let (v, g) := chunkSum (xs.map fun x => (f.unpack x, if (f.unpack x).isSig then Fl.invalid else 0))
      let (r, h) := f.pack 0 false v
      (r, g ||| h)
    | 3 =>
      if xs.any fun x => (f.unpack x).isNan then (f.nan, if xs.any fun x => (f.unpack x).isSig then Fl.invalid else 0)
      else (xs.foldl (fun m x => max m (x % f.signBit)) 0, 0)
    | _ =>
      let x0 := xs.headD 0
      xs.foldl (fun m x => let r := f.minMax (opr = 2) m.1 x; (r.1, m.2 ||| r.2)) (f.minMax (opr = 2) x0 x0)

def execArow (q : Seqn) (y : Sync) (o : ArowO) (s : State) : Host.Outcome State Fault Refusal :=
  plain (.arow q y o) (do
    let m := o.mm1.toNat + 1
    let n := o.nm1.toNat + 1
    check (o.opr.toNat < 4) 0x01 (dw0 (.arow q y o))
    accsFree [o.a.toNat]
    ordered [accRng o.a.toNat false]
    unitFree false
    let c ← getC
    let rs := (List.range m).map fun r =>
      (r, rowReduce o.opr.toNat o.at_ ((List.range n).map (fun j => (c.accw o.a.toNat r j).toNat) ++
        (if o.accv then [(c.lane o.d.toNat r).toNat] else [])))
    fpDone (rs.map fun r => (r.1, r.2.2))
    putLanes o.d.toNat (rs.map fun r => (r.1, r.2.1))) s

def execAst (q : Seqn) (y : Sync) (o : AstO) (s : State) : Host.Outcome State Fault Refusal :=
  plain (.ast q y o) (do
    let c ← getC
    if c.mx != [] then waitOn .engine
    unitFree false
    wrS o.d (c.ovf.zeroExtend 64)
    modC fun c => { c with ovf := c.ovf &&& ~~~o.cmask }) s

end Sys2Proof.Machine
end

