-- ==== Sys2Proof/Machine/Tile.lean ====
section
/-! DEFINITION. The TS engine, first part: tiles (R428 to R430), streams (R431 to R433) and spawns (R439, R440). -/

namespace Sys2Proof.Machine
open Sys2Proof

/-! Tiles. -/

/-- R428, R158: a blocked allocation that the running context makes for a partition joins the FIFO of its pool, once. -/
def State.joinFifo (s : State) (p pool n : Nat) : State × Req :=
  match s.reqs.find? fun r => r.who = .ctx s.cur && r.pool = pool with
  | some r => (s, r)
  | none =>
    let r : Req := ⟨pool, p, n, s.dtime.toNat, coreOf s.cur, .ctx s.cur⟩
    ({ s with reqs := s.reqs ++ [r] }, r)

def execTalloc (q : Seqn) (o : TallocO) (s : State) : Host.Outcome State Fault Refusal :=
  plain (.talloc q o) (do
    let n := o.pgm1.toNat + 1
    check (o.lvl != 3) 0x3B 3
    let cnt := (← immZ o.p o.imm).toNat % 65536
    check (1 ≤ cnt && cnt ≤ 4095) 0x01 (dw0 (.talloc q o))
    let a ← rdS o.a
    check (o.lvl != 1 || a.toNat < 12) 0x28 a.toNat
    let s ← getS
    let c ← getC
    let core := coreOf s.cur
    let pool := match o.lvl.toNat with
      | 0 => core
      | 1 => clusterOf core * 12 + a.toNat
      | _ => 576 + dieOf core
    check ((s.quota pool c.part).c != 0) 0x3B o.lvl.toNat
    check (n ≤ (s.quota pool c.part).c) 0x35 (n * 2 ^ 32 + (if pool < 576 then pool else 2 ^ 15 + (pool - 576)))
    let (s1, r) := s.joinFifo c.part pool n
    if s1.mayGrant r then
      let s2 := { s1 with reqs := s1.reqs.filter (· != r) }
      let (s3, h) := s2.allocTile pool o.lvl.toNat c.part n cnt (if c.stamp = 0 then s.dtime else c.stamp) (.task c.task)
        (taskOwner c.task) (.task c.task)
      modS fun _ => if c.stall = some .alloc then s3.sample (dieOf core) 2 c.part (s.bclk - c.stallAt) else s3
      modC fun c => { c.setH o.d h with region := if c.direct then c.region else c.region ++ [h] }
    else fun _ => .error (.wait .alloc (some s1))) s

/-- R148 orders 1 to 5 and the state of a tile that an instruction commits, frees, stamps (R429) or substitutes (R436); the
state counts once the older work on the tile is over (R104, R427). -/
def ownTile (h : BitVec 32) (w : Bool := true) : M Nat := do
  let s ← getS
  let u ← userM
  let c ← getC
  let tk ← ofExcept (s.tileNamed u h 0)
  let t := s.tile tk
  orRaise (carryBusy t h)
  if t.moving then waitOn .engine
  else
    ordered (s.tileRng tk w)
    check (t.owner = .task c.task || s.faultedResult s.cur h) 0x3A 0 (tinfoTile h)
    check (t.st = .alloc) 0x39 t.st.code (tinfoTile h)
    pure tk

def execTcmt (q : Seqn) (o : A1) (s : State) : Host.Outcome State Fault Refusal :=
  plain (.tcmt q o) (do
    let h ← rdH o.a
    let _ ← ownTile h
    irrevocably (modW fun s => s.commitTile h)) s

def execTabt (q : Seqn) (o : A1) (s : State) : Host.Outcome State Fault Refusal :=
  plain (.tabt q o) (do
    let h ← rdH o.a
    let _ ← ownTile h
    modW fun s => andThen (s.freeUncommitted h) fun s => (s.dropHold (.task (s.ctx s.cur).task) h false, [])) s

def execTcon (q : Seqn) (o : TconO) (s : State) : Host.Outcome State Fault Refusal :=
  plain (.tcon q o) (do
    let n := (← immZ o.p o.imm).toNat % 65536
    check (1 ≤ n && n ≤ 4095) 0x01 (dw0 (.tcon q o))
    let h ← rdH o.a
    let s ← getS
    let u ← userM
    let tk ← ofExcept (s.tileNamed u h 0)
    let t := s.tile tk
    orRaise (carryBusy t h)
    if t.moving then waitOn .engine
    else
      ordered (s.tileRng tk false)
      check (t.st != .alloc) 0x39 t.st.code (tinfoTile h)
      check (n ≤ t.rem) 0x30 0 (tinfoTile h)
      consume h n) s

/-- The tile has a poisoned byte. -/
def State.tilePoisoned (s : State) (tk : Nat) : Bool :=
  (List.range (s.tile tk).pg).any fun i => s.poisoned (s.tileByte tk (i * 2048)) 2048
/-- The doubleword `n` of a header (R136). -/
def State.header (s : State) (tk n : Nat) : Nat :=
  let t := s.tile tk
  match n with
  | 0 =>
    t.st.code + t.part * 2 ^ 8 +
      (b2n t.carry + 2 * b2n t.slice + 4 * b2n t.moving + 8 * b2n (s.tilePoisoned tk)) * 2 ^ 16 + t.pg * 2 ^ 24 +
      t.gen * 2 ^ 32 + t.decl * 2 ^ 48
  | 1 => t.rem + t.rsv * 2 ^ 16 + t.hold * 2 ^ 32 + t.pin * 2 ^ 48
  | 2 => t.ownerW.toNat + t.abn * 2 ^ 32
  | 3 => t.stamp.toNat
  | 4 => if t.slice then t.strm + t.slidx * 2 ^ 16 else 0
  | 5 | 6 | 7 => 0
  | k => (List.range 4).foldl (fun n i => n + t.pmap.getD ((k - 8) * 4 + i) 0 * 2 ^ (16 * i)) 0

/-- A stale handle reads as FREE (R430). -/
def execTinf (q : Seqn) (o : TinfO) (s : State) : Host.Outcome State Fault Refusal :=
  plain (.tinf q o) (do
    let h ← rdH o.a
    let s ← getS
    let u ← userM
    check (h != 0) 0x37
    match s.tileNamed u h 0 with
    | .error e => if e.cause = 0x32 then wrS o.d 0 else raiseE e
    | .ok tk =>
      orRaise (carryBusy (s.tile tk) h)
      ordered (s.tileRng tk false)
      wrS o.d (word (s.header tk o.sel.toNat))) s

def execTts (q : Seqn) (o : AB) (s : State) : Host.Outcome State Fault Refusal :=
  plain (.tts q o) (do
    let h ← rdH o.a
    let v ← rdS o.b
    let tk ← ownTile h
    modS fun s => s.modTile tk fun t => { t with stamp := v }) s

/-! Streams. -/

/-- A stream instruction: feature 6 first. -/
def streaming (i : Instr) (body : M Unit) (s : State) : Host.Outcome State Fault Refusal :=
  retire i (need 6) (do body; pure true) s

def execSopen (q : Seqn) (o : SopenO) (s : State) : Host.Outcome State Fault Refusal :=
  streaming (.sopen q o) (do
    let a ← rdS o.a
    let n := o.d.toNat
    if a = 0 then modC fun c => { c with f := SMap.del c.f n }
    else
      check (a.toNat % 32 = 0) 0x22 a.toNat
      let w := leNat (← gvLoad a 32)
      check (!bindingBad w) 0x01 a.toNat
      match bindingOf w with
      | none => modC fun c => { c with f := SMap.del c.f n }
      | some b =>
        let c ← getC
        check ((SMap.get? c.f n).isNone) 0x41 0 (tinfoStream n 0)
        let t ← tensorM b.tid.toNat
        check t.isOpen 0x47 0 (tinfoStream n 0)
        modS fun s => s.streamFor c.part b.tid.toNat t
        modC fun c => { c with f := SMap.put c.f n { b with sext := word t.sext } }) s

def execSlput (q : Seqn) (o : SlputO) (s : State) : Host.Outcome State Fault Refusal :=
  streaming (.slput q o) (do
    let b ← bound o.a true
    let h ← rdH o.b
    let d ← rdS o.d
    let c ← getC
    let tid := b.tid.toNat
    let tk ← ownTile h
    let e ← entryM tid
    let s ← getS
    let k := if o.nx then (s.stream c.part tid).next else d.toNat
    let info := tinfoStream o.a.toNat (k % 2 ^ 48)
    check (e.sliceBytes ≤ (s.tile tk).pg * 2048) 0x47 0 info
    orRaise ((s.sliceCheck c.part tid k info).or (s.holdsFault c.part tid k h))
    irrevocably (modW fun s => s.commitSlice c.part tid k h)) s

def execSleos (q : Seqn) (o : A1) (s : State) : Host.Outcome State Fault Refusal :=
  streaming (.sleos q o) (do
    let b ← bound o.a true
    let c ← getC
    let s ← getS
    check ((s.stream c.part b.tid.toNat).eosx.isNone) 0x3F 0 (tinfoStream o.a.toNat (s.stream c.part b.tid.toNat).next)
    irrevocably (modW fun s => s.commitEos c.part b.tid.toNat)) s

/-- The subscriptions of a kind on a die, by number. -/
def State.subsOf (s : State) (die : Nat) (loader : Bool) : List Nat :=
  (s.subs.filter fun x => x.2.die = die && x.2.loader = loader).map (·.2.idx)
/-- The key of a subscription. -/
def subKey (die : Nat) (loader : Bool) (idx : Nat) : Nat := die * 512 + (if loader then 0 else 256) + idx

def execPump (q : Seqn) (o : PumpO) (s : State) : Host.Outcome State Fault Refusal :=
  streaming (.pump q o) (do
    let loader := !o.dir
    let b ← bound o.a loader
    let v ← rdS o.b
    let c ← getC
    let sid := b.tid.toNat
    let tid := if loader then v.toNat else sid
    check (tid < 65536) 0x26 tid
    let t ← tensorM tid
    check (t.isOpen && t.ttab != 0) 0x46 tid
    let e ← entryM sid
    check (!loader || t.sliceBytes = e.sliceBytes) 0x47 0 (tinfoStream o.a.toNat 0)
    let s ← getS
    let core := coreOf s.cur
    let used := s.subsOf (dieOf core) loader
    match (List.range 256).find? fun i => !used.contains i with
    | none => waitOn .pump
    | some idx =>
      irrevocably (do
        modS fun s => (s.streamFor c.part sid e).streamFor c.part tid t
        let s ← getS
        let pos := if !b.fromBase then b.start.toNat else if loader then t.stored else s.streamBase c.part sid
        let key := subKey (dieOf core) loader idx
        let s1 := { s with subs := SMap.put s.subs key {
          loader := loader, die := dieOf core, idx := idx, core := core, part := c.part, src := tid, dst := sid,
          lvl := b.lvl.toNat, pg := b.pg.toNat, rds := b.rds.toNat, pos := pos, grant := none, retry := none, told := none } }
        let s2 ← ofExcept (if loader then .ok s1 else (s1.stream c.part sid).slices.foldlM (fun s x =>
          if pos ≤ x.1 then s.holdOr (.storer key) x.2 else .ok s) s1)
        modS fun _ => s2)) s

/-! Spawns. -/

/-- R439 RG: the new task registered on a future, and what a failed one sets off. -/
def register (t : Nat) (f : Word) : M (List Work) := do
  check (f.toNat % 8 = 0) 0x22 f.toNat
  let k ← futPage f
  let w := leNat (← readKey k 8 f.toNat)
  check (w % 4 != 3) 0x4C f.toNat
  match w % 4 with
  | 0 =>
    check (bits w 15 2 != 16383) 0x4C f.toNat
    modS fun s => { s.modTask t fun x => { x with live := x.live + 1 } with
      mem := Mem.writeN s.mem k 8 (w + 4)
      futs := SMap.put s.futs k (SMap.getD s.futs k [] ++ [.task (s.taskName t)]) }
    pure []
  | 1 => pure []
  | _ => pure [.cancel t 0x49 true]

def spawnM (i : Instr) (o : SpawnO) (gang : Bool) : M Unit := do
  let a ← rdS o.a
  let f ← rdS o.b
  check (a.toNat % 256 = 0) 0x22 a.toNat
  irrevocably (do
    let b ← gvLoad a 256
    let s ← getS
    let c ← getC
    let core := coreOf s.cur
    let w : Spawner := {
      part := c.part, die := dieOf core, core := core, ptb := c.ptb, stamp := c.stamp, launch := (s.task c.task).launch,
      gang := gang, root := false, prio := 0, group := 0, dw := dw0 i }
    let s := s.descLook w a b
    match s.create w a b with
    | .fail e => raiseE e
    | .wait w => waitOn w
    | .ok s1 t work =>
      modS fun _ => s1
      let w ← if o.rg then register t f else pure []
      wrS o.d (s1.taskName t)
      modW fun s => (s, w ++ work))

def execSpawn (q : Seqn) (y : Sync) (o : SpawnO) (s : State) : Host.Outcome State Fault Refusal :=
  plain (.spawn q y o) (spawnM (.spawn q y o) o false) s
def execSpawng (q : Seqn) (y : Sync) (o : SpawnO) (s : State) : Host.Outcome State Fault Refusal :=
  plain (.spawng q y o) (spawnM (.spawng q y o) o true) s

end Sys2Proof.Machine
end

