-- ==== Sys2Proof/Machine/RuleOps.lean ====
section
/-! DEFINITION. The TS engine, second part: the rule instructions (R434 to R438), and what passing a slice does (R178, R181). -/

namespace Sys2Proof.Machine
open Sys2Proof

/-! What a rule does when it passes a slice. -/

/-- The largest STAMP among the input slices of index CUR (R146, R178). -/
def State.inputStamp (s : State) (p : Nat) (r : Rule) : Word :=
  ([r.tida, r.tidb].filterMap fun t => if t = 0xFFFF then none
    else (SMap.get? (s.stream p t.toNat).slices r.cur).bind fun h => (s.tileOf h).map fun tk => (s.tile tk).stamp).foldl
    (fun m x => if m.toNat < x.toNat then x else m) 0

/-- R164, R166, R138: why the result tile of a rule cannot become the next slice, of `bytes` bytes, of its output stream. -/
def State.resultFault (s : State) (own : RuleOwner) (r : Rule) (bytes : Nat) : Option Exc :=
  if r.tidd = 0xFFFF then none
  else
    let p := s.partOf own
    let n := (s.stream p r.tidd.toNat).next
    let pg := match s.tileOf r.rslt with | some tk => (s.tile tk).pg | none => 0
    let info := tinfoStream (r.fslot 2) n
    if pg * 2048 < bytes then some (exc 0x47 0 info)
    else (s.sliceCheck p r.tidd.toNat n info).or (s.holdsFault p r.tidd.toNat n r.rslt)

/-- R150: of some tiles, one entry for each read, one that has too few reads left. -/
def State.inputFault (s : State) (l : List (BitVec 32)) : Option Exc :=
  l.findSome? fun h => match s.tileOf h with
    | some tk => if (s.tile tk).rem < (l.filter (sameTile h)).length then some (exc 0x30 0 (tinfoTile h)) else none
    | none => some (exc 0x32 0 (tinfoTile h))
/-- The tiles of a rule's slice that passing it commits and consumes. -/
def State.sliceTiles (s : State) (own : RuleOwner) (r : Rule) : List (BitVec 32) :=
  (if r.tidd = 0xFFFF then [] else [r.rslt]) ++ [r.tida, r.tidb].filterMap fun t =>
    if t = 0xFFFF then none else SMap.get? (s.stream (s.partOf own) t.toNat).slices r.cur

/-- A slice passed: the result committed, one read of each input slice consumed, then its hold released (R137), CUR advanced; and
the rule ends if it has reached the end of its stream (R178, R184). -/
def State.passSlice (s : State) (own : RuleOwner) (k : Nat) : State × List Work :=
  match SMap.get? (s.rulesOf own) k with
  | none => (s, [])
  | some r =>
    let p := s.partOf own
    let x1 := if r.tidd = 0xFFFF || r.rslt = 0 then (s, [])
      else andThen (s.commitSlice p r.tidd.toNat (s.stream p r.tidd.toNat).next r.rslt) fun s =>
        (s.dropHold (.rule own k) r.rslt false, [])
    andThen x1 fun s =>
      let ins := [r.tida, r.tidb].filterMap fun t =>
        if t = 0xFFFF then none else SMap.get? (s.stream p t.toNat).slices r.cur
      let read := ins.foldl (fun s h => match s.tileOf h with | some tk => s.consumeNow tk 1 | none => s) s
      let s1 := ins.foldl (fun s h => s.dropHold (.rule own k) h false) read
      let r1 := { r with rslt := 0, cur := r.cur + 1, st := .armed, fcause := 0 }
      let s2 := s1.setRules own (SMap.put (s1.rulesOf own) k r1)
      let eos : Bool := match s2.ruleEos p r1 with | some e => e ≤ r1.cur | none => false
      (s2, if eos then [.ruleEnd own k] else [])

/-! The rule that an instruction names (R434). -/

/-- The owner and the slot; 0x01 for an address that is no keeper's image. -/
def ruleNamed (i : Instr) (a : BitVec 5) (kp : Bool) (ks : BitVec 4) : M (RuleOwner × Nat) := do
  let c ← getC
  if !kp then
    check (ks = 0) 0x01 (dw0 i)
    pure (.task c.task, a.toNat)
  else
    let v := c.reg a
    let s ← getS
    match s.keepers.find? fun x => x.2.part = c.part && s.saveAddr x.2.part x.2.save = v with
    | some x => pure (.keeper x.1, ks.toNat)
    | none => raise 0x01 v.toNat
/-- The address of a doubleword of an owner's saved image, where its rules are in one. -/
def State.savedAt (s : State) (own : RuleOwner) (off : Nat) : Option Word :=
  (s.rulesIn own).map fun sk => s.saveAddr (sk / 2 ^ 32) (sk % 2 ^ 32) + word off
/-- Bytes of it loaded, as the context's own loads are (R218, R226, R227). -/
def imageLoad (own : RuleOwner) (off n : Nat) : M Unit := do
  match (← getS).savedAt own off with
  | some a => let _ ← gvLoad a n
  | none => pure ()
/-- The place of a rule's record there made ready for a store. -/
def ruleStore (own : RuleOwner) (k : Nat) : M Unit := do
  match (← getS).savedAt own (0x600 + 64 * k) with
  | some a => let _ ← gvPage a .wr
  | none => pure ()
/-- The rule in that slot; 0x43 where it is EMPTY. The keeper forms wait for a firing in progress. -/
def ruleThere (kp : Bool) (own : RuleOwner) (k : Nat) : M Rule := do
  imageLoad own (0x600 + 64 * k) 64
  imageLoad own (0x240 + 8 * k) 8
  let s ← getS
  match SMap.get? (s.rulesOf own) k with
  | none => raise 0x43 0 (tinfoRule k 0)
  | some r => if kp && r.st = .firing then waitOn .engine else pure r
/-- A rule instruction: feature 6, and PH mode for the keeper forms. -/
def ruling (i : Instr) (kp : Bool) (body : M Unit) (s : State) : Host.Outcome State Fault Refusal :=
  retire i (do
    let c ← getC
    check (!kp || c.ph) 0x02 (dw0 i)
    need 6) (do body; pure true) s

/-! The instructions. -/

/-- The doubleword `n` of a rule record. -/
def Rule.dw (r : Rule) (n : Nat) : Word := word (ruleNat r / 2 ^ (64 * n))

def execRqry (q : Seqn) (o : RqryO) (s : State) : Host.Outcome State Fault Refusal :=
  ruling (.rqry q o) o.kp (do
    check (!(o.inp && 2 ≤ o.sel.toNat)) 0x01 (dw0 (.rqry q o))
    let (own, k) ← ruleNamed (.rqry q o) o.a o.kp o.ks
    let r ← ruleThere o.kp own k
    let s ← getS
    if !o.inp then wrS o.d (r.dw o.sel.toNat)
    else
      let t := if o.sel = 0 then r.tida else r.tidb
      let h : BitVec 32 := if t = 0xFFFF then 0 else
        match SMap.get? (s.stream (s.partOf own) t.toNat).slices r.cur with
        | some h => if s.holdsTile (.rule own k) h then h else 0
        | none => 0
      wrS o.d (h.zeroExtend 64)) s

/-- R436: the substitute tile for slice CUR; `tid` is the tensor of the operand. -/
def substitute (h : BitVec 32) (tid : BitVec 16) (slot : Nat) (cur : Nat) : M Unit := do
  let tk ← ownTile h false
  let e ← entryM tid.toNat
  let s ← getS
  check (e.sliceBytes ≤ (s.tile tk).pg * 2048) 0x47 0 (tinfoStream slot cur)
  modS fun s => s.pin h

/-- R436 FW: the FPC of a keeper, in its slot or in its image, where it is written as a store of the context is (R227). -/
def setKeeperFpc (id : Nat) (v : Word) : M Unit := do
  let s ← getS
  let x := s.keeper id
  if s.keeperHere id then modS fun s => s.setKeeper id { x with fpc := v }
  else
    let s1 ← ofTr (s.gvWrite x.part (s.saveAddr x.part x.save + 0x48) (leBytes 8 v.toNat) true)
    modS fun _ => s1

def execRres (q : Seqn) (o : RresO) (s : State) : Host.Outcome State Fault Refusal :=
  ruling (.rres q o) o.kp (do
    check (o.sub != 3 && (!o.fw || o.kp)) 0x01 (dw0 (.rres q o))
    let (own, k) ← ruleNamed (.rres q o) o.a o.kp o.ks
    let r ← ruleThere o.kp own k
    check (r.st = .faulted) 0x44 r.st.code (tinfoRule k r.cur)
    let h ← rdH o.b
    let fpc ← rdS o.d
    check (!o.fw || fpc.toNat % 8 < 5) 0x17 (fpc.toNat % 8)
    if o.sub != 0 then
      let tid := if o.sub = 1 then r.tida else r.tidb
      check (tid != 0xFFFF) 0x42 (dw0 (.rres q o))
      substitute h tid (r.fslot (o.sub.toNat - 1)) r.cur
    ruleStore own k
    match own with
    | .keeper id => if o.fw then setKeeperFpc id (fpc &&& 0x1F07)
    | .task _ => pure ()
    modS fun s =>
      s.setRules own (SMap.put (s.rulesOf own) k
        { r with st := .armed, fcause := 0, sub := if o.sub = 0 then 0 else h, subOp := o.sub })) s

/-- The checks of the commit come before it, and before that of the region (R115, R166; log entry 33). -/
def execRskp (q : Seqn) (o : RruleO) (s : State) : Host.Outcome State Fault Refusal :=
  ruling (.rskp q o) o.kp (do
    let (own, k) ← ruleNamed (.rskp q o) o.a o.kp o.ks
    let r ← ruleThere o.kp own k
    check (r.st = .faulted) 0x44 r.st.code (tinfoRule k r.cur)
    check (r.tidd = 0xFFFF || r.rslt != 0) 0x44 3 (tinfoRule k r.cur)
    let bytes ← if r.tidd = 0xFFFF then pure 0 else do pure (← entryM r.tidd.toNat).sliceBytes
    let s ← getS
    if (s.sliceTiles own r).any fun h => s.viewMoving (.tile h) then waitOn .engine
    else orRaise ((s.resultFault own r bytes).or (s.inputFault (s.inputTiles (s.partOf own) r)))
    ruleStore own k
    irrevocably (modW fun s => s.passSlice own k)) s

def execRrev (q : Seqn) (o : RruleO) (s : State) : Host.Outcome State Fault Refusal :=
  ruling (.rrev q o) o.kp (do
    let (own, k) ← ruleNamed (.rrev q o) o.a o.kp o.ks
    let r ← ruleThere o.kp own k
    let s ← getS
    if r.st = .firing || s.ruleMoves r then waitOn .engine
    ruleStore own k
    irrevocably (modW fun s => s.endRule own k)) s

def execRsyn (q : Seqn) (o : AB) (s : State) : Host.Outcome State Fault Refusal :=
  streaming (.rsyn q o) (do
    let v ← rdS o.b
    let c ← getC
    match SMap.get? c.k o.a.toNat with
    | none => pure ()
    | some r => if v.toNat < r.cur then pure () else waitOn (.rsyn o.a.toNat v.toNat)) s

end Sys2Proof.Machine
end

