-- ==== Sys2Proof/Machine/Drift.lean ====
section
/-! DEFINITION. The DR engine: what a drift command checks and becomes (R442 to R446, R450 to R454), how packets leave for a
peer (R18, R19, R21), and a firing of an installed `cpy` (R449). What jobs do is in Jobs.lean. -/

namespace Sys2Proof.Machine
open Sys2Proof

/-! Layout conversions (R444). -/

/-- The source bytes of H × K elements, or of L bytes where CV is 0. -/
def cvSrc (cv et h k : Nat) : Nat :=
  match cv with
  | 0 => k
  | 1 => (h * k * plBits et + 7) / 8
  | 2 => plSize et h k
  | _ => 4 * h * k
/-- The destination bytes; TS of R411 is the planar size of one term. -/
def cvDst (cv et h k : Nat) : Nat :=
  match cv with
  | 0 => k
  | 1 => plSize et h k
  | 2 => (h * k * plBits et + 7) / 8
  | _ => 3 * plSize 10 h k
/-- The converted bytes. Conversions set no flag. -/
def cvBytes (cv et h k : Nat) (b : List Byte) : List Byte :=
  match cv with
  | 0 => b
  | 1 => toPlanar et h k (unpackBits (plBits et) (h * k) b)
  | 2 => packBits (plBits et) (fromPlanar et h k b)
  | _ =>
    let xs := (unpackBits 32 (h * k) b).map split3
    toPlanar 10 h k (xs.map (·.1)) ++ toPlanar 10 h k (xs.map (·.2.1)) ++ toPlanar 10 h k (xs.map (·.2.2))

/-- The codes of ET (R442) and the checks of R444. -/
def cvChecks (i : Instr) (c : DrO) : M Unit := do
  let k ← rdS c.b
  if c.cv != 0 then
    check (c.et.toNat ≤ 12) 0x18 c.et.toNat
    check (1 ≤ k.toNat && k.toNat ≤ 4096) 0x51 (cmdOf i)
    check ((c.et = 12) == (c.cv = 3)) 0x18 c.et.toNat

/-! Ends (R443, R445 orders 4, 5 and 7). -/

/-- An end of a command: whether it is D, whether it is written, its kind and register, its bytes, and whether they are planar. -/
structure DrEnd where
  d : Bool
  w : Bool
  kind : Nat
  reg : BitVec 5
  n : Nat
  planar : Bool
  deriving DecidableEq, Repr

def DrEnd.view (core : Nat) (c : Ctx) (e : DrEnd) : View :=
  let x := c.reg e.reg
  match e.kind with
  | 0 => .gv x
  | 1 => .mem (lsKey core x.toNat)
  | 2 => .mem (lsKey (clusterOf core * 12) x.toNat)
  | 3 => .mem (dxKey (dieOf core) x.toNat)
  | 7 => if e.d then .peer (BitVec.ofNat 12 (c.reg (e.reg + 1)).toNat) x else .tile (c.hreg e.reg)
  | _ => .tile (c.hreg e.reg)
/-- The kinds that a command permits; a stream where it permits none raises 0x42. -/
def drKind (i : Instr) (k : BitVec 3) (permitted : List Nat) : M Unit := do
  if k = 5 && !permitted.contains 5 then raise 0x42 (dw0 i)
  check (permitted.contains k.toNat) 0x1E k.toNat
/-- R445 order 4, R199: the base of a planar end is a multiple of 64, in GV too. -/
def endLocal (e : DrEnd) : M Unit := do
  let x ← rdS e.reg
  if 1 ≤ e.kind && e.kind ≤ 3 then localRange e.kind x.toNat e.n
  if e.planar && (e.kind ≤ 3 || (e.kind = 7 && e.d)) && x.toNat % 64 != 0 then
    (if e.d then planeFree x.toNat else raise 0x54 0)
/-- R445 order 5. -/
def endTile (e : DrEnd) : M Unit := do
  let h ← rdH e.reg
  if e.kind = 4 || (e.kind = 7 && !e.d) then
    operandTile none h 0 e.n (if e.w then .wr else .rd)
    if e.kind = 7 then
      let s ← getS
      match s.tileOf h with
      | some tk => check ((s.tile tk).st != .alloc) 0x39 1 (tinfoTile h)
      | none => pure ()
/-- R445 order 7. -/
def endForm (e : DrEnd) : M Unit := do
  let x ← rdS e.reg
  if e.kind = 0 && e.n != 0 then
    check (gvForm x) 0x29 x.toNat
    check (gvForm (x + word (e.n - 1))) 0x29 (x + word (e.n - 1)).toNat
/-- R445 order 6: the alignment and the space of the completion future. -/
def futureCheck (c : DrO) : M Unit := do
  let f ← rdS c.fr
  if c.fv then
    check (f.toNat % 8 = 0) 0x22 f.toNat
    let s ← getS
    let x ← getC
    match s.translate x.part f .rd with
    | .ok _ _ host _ => check (!host) 0x2C f.toNat
    | .fault e => check (e.cause != 0x2B) 0x2C f.toNat
    | .moving => pure ()
/-- R445 orders 4 to 7. -/
def drRanges (c : DrO) (l : List DrEnd) : M Unit := do
  l.forM endLocal
  l.forM endTile
  futureCheck c
  l.forM endForm

/-! Jobs (R446). -/

/-- What every command hands to its job. -/
def drJob (op : JobOp) (c : DrO) (y : Sync) : M Job := do
  let s ← getS
  let x ← getC
  pure { Job.empty with
    core := coreOf s.cur, key := s.cur, part := x.part, task := x.task, op := op, cv := c.cv.toNat, et := c.et.toNat,
    h := c.hm1.toNat + 1, fut := if c.fv then some (x.reg c.fr) else none, csc := c.csc.toNat,
    tname := if c.tv then some (x.reg c.tr) else none, sgi := y.sgi, sgn := y.sgn, scout := c.scout.toNat, stamp := x.stamp,
    kd := c.kd.toNat, ka := c.ka.toNat, gang := ((s.task x.task).gang).map (·.1) }
/-- The ends put into a job: the first is the destination of its bytes. -/
def State.withEnds (s : State) (j : Job) (fp : Bool) (l : List DrEnd) : Job :=
  let c := s.ctx s.cur
  let v (d : Bool) : View := match l.find? (·.d = d) with | some e => e.view (coreOf s.cur) c | none => .none
  { j with
    d := v true, a := v false,
    rng := l.flatMap fun e => s.viewRng (e.view (coreOf s.cur) c) 0 e.n e.w,
    regions := if !fp then [] else l.filterMap fun e =>
      if e.kind = 0 && e.n != 0 then
        let x := (c.reg e.reg).toNat
        some ⟨x / 256 * 256, (x + e.n + 255) / 256 * 256 - x / 256 * 256, e.w⟩
      else none }
/-- The tiles that a job names. -/
def Job.tiles (j : Job) : List (BitVec 32) :=
  [j.d, j.a].filterMap fun v => match v with | .tile h => some h | _ => none
/-- The tiles that a job reads, pinned from its acceptance to its end (R152). -/
def Job.pinned (j : Job) : List (BitVec 32) :=
  [j.a, if j.op = .cpyt && j.dir then j.d else .none].filterMap fun v => match v with | .tile h => some h | _ => none
/-- R224: pages of a destination marked where they are present and writable; 0x21 for the first that is not writable. -/
def State.burst (s : State) (p : Nat) (l : List Word) : State × Option Exc :=
  l.foldl (fun (x : State × Option Exc) a =>
    match x.1.translate p a .wr with
    | .ok _ _ _ l => (x.1.markUsed l .wr, x.2)
    | .fault e => (x.1, if e.cause = 0x21 then x.2.or (some { e with tval := word (a.toNat / 65536 * 65536) }) else x.2)
    | .moving => x) (s, none)
/-- The jobs that a core's engine holds. -/
def State.jobsOn (s : State) (core : Nat) : List (Nat × Job) := s.jobs.filter fun x => x.2.core = core
/-- The bytes that a job writes to GV at its destination, 0 for another. -/
def Job.dstLen (j : Job) : Nat :=
  match j.op with
  | .cpy => cvDst j.cv j.et j.h j.kk
  | _ => j.len
/-- R454: the coordinates of element `x` of row `r` of a box. -/
def Job.boxCoords (j : Job) (rank x r : Nat) : List Nat :=
  (List.range rank).map fun i => (j.coords.getD i 0 + (if i = 0 then x else if i = 1 then r else 0)) % 2 ^ 64
/-- The pages on which the elements of a box lie, row by row, and the state in which the walk over its tensor's entry and tile table
has set A (R218). -/
def State.boxWalk (s : State) (j : Job) : State × List Word :=
  match s.tensor j.part j.tid with
  | none => (s, [])
  | some t => (List.range j.bx1).foldl (fun x r => (List.range j.bx0).foldl (fun (x : State × List Word) i =>
      match x.1.elemAddr j.part j.tid t (j.boxCoords t.rank i r) with
      | .ok y => (y.1, if x.2.contains (word (y.2.1.toNat / 65536 * 65536)) then x.2 else x.2 ++ [word (y.2.1.toNat / 65536 * 65536)])
      | .error _ => x) x) (s.markRead j.part (s.tensorAddr j.part j.tid) 128, [])
def State.boxPages (s : State) (j : Job) : List Word := (s.boxWalk j).2
/-- The addresses in GV, one for each page, of an end of `n` bytes. -/
def View.pages (v : View) (n : Nat) : List Word :=
  match v with
  | .gv a => ((pieces a n).filter (·.2 != 0)).map (·.1)
  | _ => []
/-- The pages of GV that a job declares as its destination: those of a range, or those of a box. -/
def State.destPages (s : State) (j : Job) : List Word :=
  match j.op with
  | .disc => []
  | .cpyt => if j.dir then s.boxPages j else j.d.pages j.len
  | _ => j.d.pages j.dstLen
/-- The pages of GV that it reads. -/
def State.srcPages (s : State) (j : Job) : List Word :=
  match j.op with
  | .disc => []
  | .cpyt => if j.dir then j.d.pages j.len else s.boxPages j
  | _ => j.a.pages j.len
/-- A job accepted: its number, its holds and pins, its domain, its burst; 0x39 for a hold that is refused (R138). -/
def State.accept (s : State) (j : Job) : Except Exc State :=
  let id := s.nextId
  let s0 := { s with nextId := id + 1 }
  let (s1, m) := match (s.task j.task).launch with
    | some d => let x := s0.memberEnter d j.regions; (x.1, x.2.1)
    | none => (s0, none)
  match j.tiles.foldlM (fun s h => s.holdOr (.job id) h) s1 with
  | .error e => .error e
  | .ok s2 =>
    let s3 := j.pinned.foldl State.pin s2
    let s3 := if j.op = .cpyt && j.dir then (s3.boxWalk j).1 else s3
    let (s4, f) := s3.burst j.part (s3.destPages j)
    let now : Bool := f.isSome || j.len = 0
    .ok (s4.setJob id { j with memb := m, fail := f, st := if now then .running else .accepted })

/-- R446: the running context's command becomes a job, when its domain and the core's engine have room. -/
def acceptM (j : Job) (irrevocable : Bool) : M Unit := do
  ordered j.rng
  let go : M Unit := do
    let s ← getS
    match (s.task j.task).launch with
    | some d => if j.regions != [] && 4096 ≤ (s.members.filter fun m => m.dom = d).length then waitOn .engine
    | none => pure ()
    if 8 ≤ (s.jobsOn j.core).length then waitOn .engine
    let s1 ← ofExcept (s.accept j)
    modS fun _ => s1
  if irrevocable then irrevocably go else go

/-- A drift command: its features, then its checks and acceptance; its signal comes with the end of its job (R255). -/
def drift (i : Instr) (c : DrO) (pre : M Unit) (body : M Bool) (s : State) : Host.Outcome State Fault Refusal :=
  retire i (do
    if c.kd = 5 || c.ka = 5 then need 6
    pre) body s

/-! The commands. -/

/-- R449: a `cpy` with a stream source installs a rule, and signals as it retires. -/
def cpyInstall (i : Instr) (o : CpyO) : M Unit := do
  let c ← getC
  let s ← getS
  let h := c.hreg o.c.d
  if o.c.kd = 0 && o.c.cv.toNat % 2 = 1 && (c.reg o.c.d).toNat % 64 != 0 then planeFree (c.reg o.c.d).toNat
  if o.c.kd = 6 then carryTile h 0 0
  if o.c.kd = 0 then check (gvForm (c.reg o.c.d)) 0x29 (c.reg o.c.d).toNat
  install i {
    a := some o.c.a, b := none, d := if o.c.kd = 5 then some o.c.d else none, ckind := if o.c.kd = 6 then 2 else 0,
    carry := if o.c.kd = 6 then h else 0 } (if o.c.kd = 6 then s.viewRng (.tile h) 0 0 true else [])

def execCpy (q : Seqn) (y : Sync) (o : CpyO) (s : State) : Host.Outcome State Fault Refusal :=
  let i := Instr.cpy q y o
  drift i o.c (do
    if o.c.kd = 7 then need 9
    if o.c.cv != 0 && (o.c.et = 8 || o.c.et = 9) then need 1) (do
    drKind i o.c.ka [0, 1, 2, 3, 4, 5, 7]
    if o.c.ka = 5 then
      check ((o.c.kd = 0 || o.c.kd = 5 || o.c.kd = 6) && !o.c.fv && !o.c.tv && !o.c.fp && !o.tc) 0x42 (dw0 i)
    else check (o.c.kd != 5 && o.c.kd != 6) 0x42 (dw0 i)
    cvChecks i o.c
    if o.c.ka = 5 then
      cpyInstall i o
      pure true
    else
      let k := (← rdS o.c.b).toNat
      let cv := o.c.cv.toNat
      let et := o.c.et.toNat
      let h := o.c.hm1.toNat + 1
      let l := [⟨true, true, o.c.kd.toNat, o.c.d, cvDst cv et h k, cv = 1 || cv = 3⟩,
        ⟨false, false, o.c.ka.toNat, o.c.a, cvSrc cv et h k, cv = 2⟩]
      drRanges o.c l
      let s ← getS
      let j ← drJob .cpy o.c y
      acceptM (s.withEnds { j with len := cvSrc cv et h k, kk := k, tc := o.tc, tilec := o.c.ka = 7 } o.c.fp l)
        (o.c.kd = 0 || o.c.kd = 7 || o.tc)
      pure false) s

def execFill (q : Seqn) (y : Sync) (o : FillO) (s : State) : Host.Outcome State Fault Refusal :=
  let i := Instr.fill q y o
  drift i o.c (pure ()) (do
    drKind i o.c.kd [0, 1, 2, 3, 4]
    let w := 2 ^ o.pw.toNat
    let d := (← rdS o.c.d).toNat
    let n := (← rdS o.c.b).toNat
    check (o.c.kd = 4 || d % w = 0) 0x22 d
    check (n % w = 0) 0x22 n
    let l := [⟨true, true, o.c.kd.toNat, o.c.d, n, false⟩]
    drRanges o.c l
    let s ← getS
    let p ← rdS o.c.a
    let j ← drJob .fill o.c y
    acceptM (s.withEnds { j with len := n, tc := o.tc, pat := p, pw := w } o.c.fp l) (o.c.kd = 0 || o.tc)
    pure false) s

def execDisc (q : Seqn) (y : Sync) (o : DrO) (s : State) : Host.Outcome State Fault Refusal :=
  let i := Instr.disc q y o
  drift i o (do let c ← getC; check c.ph 0x02 (dw0 i)) (do
    let a ← rdS o.a
    let n := (← rdS o.b).toNat
    check (a.toNat % 65536 = 0) 0x22 a.toNat
    check (n % 65536 = 0) 0x22 n
    futureCheck o
    endForm ⟨true, true, 0, o.a, n, false⟩
    let j ← drJob .disc o y
    acceptM { j with d := .gv a, len := n } true
    pure false) s

/-- R451: s[QR]. -/
def queueWord (i : Instr) (v : Nat) : M Unit := do
  check (bits v 31 12 = 0 && v / 2 ^ 52 = 0) 0x01 (dw1 i) 1
  check (bits v 51 32 % 64 = 0) 0x22 (bits v 51 32)
  localRange 1 (bits v 51 32) 64

def execCpyq (q : Seqn) (y : Sync) (o : CpyqO) (s : State) : Host.Outcome State Fault Refusal :=
  let i := Instr.cpyq q y o
  drift i o.c (pure ()) (do
    drKind i o.c.kd [0]
    drKind i o.c.ka [0, 1, 2, 3, 4, 7]
    let v := (← rdS o.qr).toNat
    queueWord i v
    let n := (← rdS o.c.b).toNat
    let l := [⟨true, true, 0, o.c.d, n, false⟩, ⟨false, false, o.c.ka.toNat, o.c.a, n, false⟩]
    drRanges o.c l
    let s ← getS
    let j ← drJob .cpyq o.c y
    let j := s.withEnds { j with len := n, kk := n, qn := v % 4096, img := bits v 51 32, tilec := o.c.ka = 7 } o.c.fp l
    acceptM { j with rng := j.rng ++ [⟨lsKey j.core j.img, 64, false⟩] } true
    pure false) s

/-- R454: the checks that need the tensor's entry, but for V and R220. -/
def boxFault (i : Instr) (t : Tensor) (o : CpytO) : Option Exc :=
  if 32 < o.c.b.toNat + t.rank then some (exc 0x05 (dw0 i) 2)
  else if t.rank = 1 && o.bx1m1 != 0 then some (exc 0x51 (cmdOf i))
  else if o.c.cv = 1 && 11 < t.etype then some (exc 0x18 t.etype)
  else none
/-- The bytes of a box on its local side. -/
def boxBytes (cv et b0 b1 : Nat) : Nat := if cv = 1 then plSize et b1 b0 else (b0 * b1 * etypeBits et + 7) / 8

def execCpyt (q : Seqn) (y : Sync) (o : CpytO) (s : State) : Host.Outcome State Fault Refusal :=
  let i := Instr.cpyt q y o
  drift i o.c (pure ()) (do
    drKind i o.c.kd [0, 1, 2, 3, 4]
    check (o.c.cv.toNat ≤ 1) 0x01 (dw0 i)
    let v ← rdS o.c.a
    check (v.toNat < 65536) 0x26 v.toNat
    let t ← tensorM v.toNat
    if o.c.cv = 1 && (t.etype = 8 || t.etype = 9) then need 1
    orRaise (boxFault i t o)
    let b0 := o.bx0m1.toNat + 1
    let b1 := o.bx1m1.toNat + 1
    let n := boxBytes o.c.cv.toNat t.etype b0 b1
    let l := [⟨true, !o.dir, o.c.kd.toNat, o.c.d, n, o.c.cv = 1⟩]
    drRanges o.c l
    let s ← getS
    let c ← getC
    let j ← drJob .cpyt o.c y
    acceptM (s.withEnds { j with
      len := n, tc := o.tc, tid := v.toNat, dir := o.dir, bx0 := b0, bx1 := b1, et := t.etype, pat := word (cmdOf i),
      coords := ((List.range 5).filter fun k => o.c.b.toNat + k < 32).map fun k => (c.reg (o.c.b + BitVec.ofNat 5 k)).toNat,
      pre := [word (dw0 i)] } o.c.fp l) (o.dir || o.c.kd = 0 || o.tc)
    pure false) s

/-! Multicast (R158, R450). -/

/-- The receivers of a `cpym`. -/
def State.receivers (s : State) (t core : Nat) (xs : Bool) : List Nat :=
  match (s.task t).gang with
  | some (g, _, _) => (((SMap.get? s.gangs g).map (·.cores)).getD []).filter fun c => !(xs && c = core)
  | none => []
/-- R158: the command has its landing in every pool, all at once. The place of the drift engine that R136 puts into OWNER is the
number of jobs that the engine holds (log entry 38). -/
def State.landings (s : State) (id core pg rds : Nat) (stamp : Word) (p : Nat) (l : List Nat) : State × List (Nat × BitVec 32) :=
  l.foldl (fun (x : State × List (Nat × BitVec 32)) c =>
    let place := ((s.jobsOn core).length) % 8
    let (s', h) := x.1.allocTile c 0 p pg rds stamp (.landing id) (ownerWord 3 (core * 256 + place)) (.landing id c)
    (s', x.2 ++ [(c, h)])) (s, [])

/-- R450. Cap 0 raises 0x35 (log entry 34). -/
def execCpym (q : Seqn) (y : Sync) (o : CpymO) (s : State) : Host.Outcome State Fault Refusal :=
  let i := Instr.cpym q y o
  drift i o.c (need 7) (do
    let s ← getS
    let c ← getC
    let core := coreOf s.cur
    check ((s.task c.task).gang.isSome) 0x4B 0xFFFF
    drKind i o.c.kd [1]
    drKind i o.c.ka [4]
    check (o.rds != 0) 0x01 (dw1 i) 1
    let d := (c.reg o.c.d).toNat
    check (d % 4 = 0) 0x22 d
    localRange 1 d 4
    let dest := s.receivers c.task core o.xs
    dest.forM fun r => do
      let _ ← ofExcept (s.localKey r 1 d 4)
    let h := c.hreg o.c.a
    operandTile none h 0 0 .rd
    let tk := (s.tileOf h).getD 0
    let t := s.tile tk
    check (t.st = .committed) 0x39 t.st.code (tinfoTile h)
    match dest.find? fun r => (s.quota r t.part).c < t.pg with
    | some r => raise 0x35 (t.pg * 2 ^ 32 + r)
    | none => pure ()
    futureCheck o.c
    let rng := ⟨lsKey core d, 4, true⟩ :: s.tileRng tk false
    ordered rng
    let (s1, rs) := dest.foldl (fun (x : State × List Req) r =>
      let y := x.1.joinFifo t.part r t.pg
      (y.1, x.2 ++ [y.2])) (s, [])
    if rs.all s1.mayGrant && (s1.jobsOn core).length < 8 then
      let s2 := { s1 with reqs := s1.reqs.filter fun r => !rs.contains r }
      let j ← drJob .cpym o.c y
      let id := s2.nextId
      let (s3, land) := s2.landings id core t.pg o.rds.toNat t.stamp t.part dest
      let s4 ← ofExcept (s3.accept { j with
        a := .tile h, len := dest.length, rsi := o.rsi, rds := o.rds.toNat, dstLs := d, land := land, rng := rng })
      modS fun _ => s4
      pure false
    else fun _ => .error (.wait .alloc (some s1))) s

/-! Packets to a peer (R18, R19, R21). -/

def State.link (s : State) (l : Nat) : Link := SMap.getD s.net.links l Link.empty
def State.setLink (s : State) (l : Nat) (x : Link) : State := { s with net := { s.net with links := SMap.put s.net.links l x } }
/-- The link that a packet to a node takes: the first alternative of its route that is up. -/
def State.linkTo (s : State) (node : Nat) : Option Nat :=
  (SMap.getD s.net.route node []).find? fun l => (s.link l).up
/-- The first `n` bytes of a list, zeros where it is shorter. -/
def fit (n : Nat) (l : List Byte) : List Byte := (l ++ List.replicate n 0).take n
/-- R18: the header of a packet and its PLEN + 1 bytes of payload. -/
def pktBytes (p : Pkt) : List Byte :=
  leBytes 16 (p.src.toNat * 2 ^ 116 + p.dst.toNat * 2 ^ 104 + p.psn.toNat * 2 ^ 72 + p.ptype.toNat * 2 ^ 64 +
    p.plen.toNat * 2 ^ 52 + p.pscope.toNat * 2 ^ 48 + p.paddr.toNat) ++ fit (p.plen.toNat + 1) p.payload
/-- R17: a flit leaves on a link, with the next link-level sequence; it is kept while the peer can ask for it, which a sequence
modulo 4,096 bounds (log entry 23). -/
def State.sendFlit (s : State) (l kind : Nat) (pay : List Byte) : State :=
  let x := s.link l
  let f : Flit := ⟨BitVec.ofNat 16 (kind * 2 ^ 14 + x.txSeq.toNat), pay, true⟩
  let s1 := s.setLink l { x with txSeq := x.txSeq + 1, sent := (x.sent ++ [f]).drop (x.sent.length - 4095) }
  { s1 with net := { s1.net with wire := s1.net.wire ++ [(l, f)] } }
/-- R18: a packet leaves on a link in whole flits. -/
def State.sendOver (s : State) (l kind : Nat) (p : Pkt) : State :=
  let b := pktBytes p
  (List.range ((b.length + 239) / 240)).foldl (fun s i => s.sendFlit l kind (fit 240 (b.drop (240 * i)))) s
/-- A packet leaves for its destination, when a link there is up. -/
def State.sendPkt (s : State) (p : Pkt) : State :=
  match s.linkTo p.dst.toNat with
  | some l => s.sendOver l 0 p
  | none => s
/-- The sender's record of a destination. -/
def State.tx (s : State) (node : Nat) : Tx := SMap.getD s.net.tx node Tx.empty
/-- The next packet of the pair to a node: kept until it is acknowledged. -/
def State.sendNext (s : State) (node : BitVec 12) (ptype : BitVec 8) (scope : BitVec 4) (addr : BitVec 48) (part : Nat)
    (b : List Byte) : State × BitVec 32 :=
  let t := s.tx node.toNat
  let p : Pkt := ⟨s.net.node, node, t.next, ptype, BitVec.ofNat 12 (b.length - 1), scope, addr, BitVec.ofNat 3 part, b⟩
  let kept : Tx := { next := t.next + 1, unacked := t.unacked ++ [(s.dtime.toNat, s.linkTo node.toNat, p)] }
  (({ s with net := { s.net with tx := SMap.put s.net.tx node.toNat kept } } : State).sendPkt p, t.next)

/-! A firing of an installed `cpy` (R449, R181, R179). -/

/-- One firing on slice `k`: L, or H and K, as the holder's registers stand. It answers what it writes to GV, and where. -/
def cpyFire (i : Instr) (o : CpyO) (f : Fire) (k : Nat) : M (Option (Word × List Byte)) := do
  cvChecks i o.c
  let n := (← rdS o.c.b).toNat
  let cv := o.c.cv.toNat
  let et := o.c.et.toNat
  let h := o.c.hm1.toNat + 1
  operandTile (some f) f.a 0 (cvSrc cv et h n) .rd
  let s ← getS
  let c ← getC
  let m := cvDst cv et h n
  let b ← match s.viewRead (.tile f.a) 0 (cvSrc cv et h n) with
    | some b => pure (cvBytes cv et h n b)
    | none => raise 0x5B
  let x := c.reg o.c.d + word (k * m)
  check (!(o.c.kd = 0 && cv % 2 = 1 && x.toNat % 64 != 0)) 0x54
  if o.c.kd = 0 then pure (some (x, b))
  else
    let t := if o.c.kd = 5 then f.d else f.carry
    operandTile (some f) t 0 m .wr
    modS fun s => s.viewWrite (.tile t) 0 b
    pure none

end Sys2Proof.Machine
end

