-- ==== Sys2Proof/Machine/Poison.lean ====
section
/-! DEFINITION. Poison in the arrays without addresses (R41, R43): the words of registers, accumulators and tile headers that an
instruction consumes, and the trap that takes it (log entry 12). -/

namespace Sys2Proof.Machine
open Sys2Proof

/-- What an instruction consumes: a scalar register, a handle, some lanes of a vector register, an accumulator, or a handle with
the header of the tile that it names. -/
inductive Src where
  | s (n : BitVec 5)
  | h (n : BitVec 5)
  | v (n : BitVec 5) (l : List Nat)
  | acc (a : Nat)
  | tile (n : BitVec 5)
  deriving DecidableEq, Repr

/-- The header of the tile that a handle names is poisoned. -/
def State.tileHurt (s : State) (h : BitVec 32) : Bool := (s.tileOf h).any fun tk => (s.tile tk).bad
/-- A word of it is poisoned. -/
def Src.bad (s : State) (c : Ctx) : Src → Bool
  | .s n => n != 0 && c.bad.contains (sCell n.toNat)
  | .h n => c.bad.contains (hCell n.toNat)
  | .v n l => c.bad != [] && l.any fun e => c.bad.contains (laneCell n.toNat e)
  | .acc a => c.accBad a
  | .tile n => c.bad.contains (hCell n.toNat) || s.tileHurt (c.hreg n)

/-! The operands of the instructions, by their shapes. -/

def aluSrcs (o : Alu) : List Src := .s o.a :: if o.i then [] else [.s o.b]
/-- A base: a handle, or a scalar register. -/
def baseSrc (h : Bool) (a : BitVec 5) : Src := if h then .tile a else .s a
/-- The registers of a record that LIVE names. -/
def liveSrcs (hi : BitVec 4) (lo : BitVec 27) : List Src := (liveRegs (liveMask hi lo)).map fun n => .s (BitVec.ofNat 5 n)
/-- The mask of a vector instruction. -/
def maskSrc (me : Bool) (vm : BitVec 5) : List Src := if me then [.v vm (List.range 64)] else []
/-- A vector source and, of a second operand, the scalar register or the lanes that take its place. -/
def vecSrcs (c : Ctx) (me : Bool) (vm : BitVec 5) (vs : List (BitVec 5)) : List Src :=
  maskSrc me vm ++ vs.map fun n => .v n (c.active me vm)
def secondSrc (c : Ctx) (bs me : Bool) (vm b : BitVec 5) : Src := if bs then .s b else .v b (c.active me vm)
def varSrcs (c : Ctx) (o : VarO) : List Src := secondSrc c o.bs o.me o.vm o.b :: vecSrcs c o.me o.vm [o.a]
def vlogSrcs (c : Ctx) (o : VlogO) : List Src := secondSrc c o.bs o.me o.vm o.b :: vecSrcs c o.me o.vm [o.a]
/-- An operand of a loop nest by its kind (R389). -/
def lnSrc (k : BitVec 3) (n : BitVec 5) : List Src :=
  match k.toNat with
  | 1 | 2 | 6 => [.s n]
  | 3 | 4 | 7 => [.tile n]
  | _ => []
/-- An operand of the MX engine by its kind (R400). -/
def mxSrc (k : BitVec 3) (n : BitVec 5) : List Src :=
  match k.toNat with
  | 0 => [.acc (n.toNat % 16)]
  | 1 | 2 | 6 => [.s n]
  | 3 | 7 => [.tile n]
  | _ => []
/-- A field instruction: its operands, the register of its table, and those of its bias. -/
def fieldSrcs (table : Bool) (o : FieldO) : List Src :=
  (if o.ka = 0 then [] else mxSrc o.ka o.a) ++ (if o.kb = 0 then [] else mxSrc o.kb o.b) ++ (if table then [.s o.xr] else []) ++
  if o.be then [.s o.br, .s (o.br + 1)] else []
/-- The ends and the fields of a drift command by their kinds (R442, R443). -/
def drEnd (d : Bool) (k : BitVec 3) (n : BitVec 5) : List Src :=
  match k.toNat with
  | 0 | 1 | 2 | 3 => [.s n]
  | 4 | 6 => [.tile n]
  | 7 => if d then [.s n, .s (n + 1)] else [.tile n]
  | _ => []
def namedSrcs (o : DrO) : List Src := (if o.fv then [.s o.fr] else []) ++ if o.tv then [.s o.tr] else []
/-- The coordinates of a tensor access, one for each axis. -/
def coordSrcs (s : State) (p : Nat) (v : Word) (b : BitVec 5) : List Src :=
  match s.tensor p v.toNat with
  | some t => (List.range t.rank).map fun j => .s (b + BitVec.ofNat 5 j)
  | none => []

/-- What an instruction of a context consumes: every register that its operands name as a source; of vector registers the lanes
that it uses; accumulators as a whole; and the headers of the tiles that it names. -/
def srcsOf (s : State) (c : Ctx) : Instr → List Src
  | .add _ o | .sub _ o | .mul _ o | .mulh _ o | .div _ o | .rem _ o | .and _ o | .or _ o | .xor _ o | .andn _ o | .shl _ o
  | .shr _ o | .sar _ o | .rot _ o | .min _ o | .max _ o => aluSrcs o
  | .clz _ o | .popc _ o => [.s o.a]
  | .sext _ o => [.s o.a]
  | .bfx _ o => [.s o.a]
  | .bfi _ o => [.s o.d, .s o.a]
  | .sel _ o => [.s o.a, .s o.b]
  | .movi _ o => if o.kp then [.s o.d] else []
  | .lea _ o => [.s o.a, .s o.b]
  | .cmp _ o => .s o.a :: if o.i then [] else [.s o.b]
  | .pmov _ o => if o.dir = 0 then [] else [.s o.a]
  | .jmpr o | .callr o => [.s o.a]
  | .callx o => [.s o.a]
  | .loopset _ o => if o.i then [] else [.s o.a]
  | .ld _ o => [baseSrc o.h o.a, .s o.b]
  | .st _ o => [baseSrc o.h o.a, .s o.b, .s o.d]
  | .amo _ o => [.s o.a, .s o.b]
  | .cas _ o => [.s o.a, .s o.b, .s o.d]
  | .red _ o => [.s o.a, .s o.b]
  | .waita _ o => [.s o.a, .s o.b]
  | .sems _ o => [.s o.a, .s o.b]
  | .barw _ o => [.s o.a]
  | .futi _ o => [.s o.a]
  | .futw _ o => .s o.a :: .s o.b :: liveSrcs o.liveHi o.liveLo
  | .futs _ o | .futf _ o => [.s o.a, .s o.b]
  | .ldt _ o => .s o.a :: coordSrcs s c.part (c.reg o.a) o.b
  | .stt _ o => .s o.a :: .s o.d :: coordSrcs s c.part (c.reg o.a) o.b
  | .vld _ o => baseSrc o.h o.a :: .s o.b :: maskSrc o.me o.vm
  | .vst _ o => baseSrc o.h o.a :: .s o.b :: vecSrcs c o.me o.vm [o.d]
  | .vgat _ o => baseSrc o.h o.a :: vecSrcs c o.me o.vm [o.b]
  | .vsct _ o => baseSrc o.h o.a :: vecSrcs c o.me o.vm [o.b, o.d]
  | .vldl _ o => .s o.a :: vecSrcs c o.me o.vm (if o.ix then [o.b] else [])
  | .vstl _ o => .s o.a :: vecSrcs c o.me o.vm (if o.ix then [o.b, o.d] else [o.d])
  | .vadd _ o | .vsub _ o | .vmul _ o | .vmin _ o | .vmax _ o | .vshl _ o | .vshr _ o => varSrcs c o
  | .vfma _ o => .v o.d (c.active o.me o.vm) :: varSrcs c o
  | .vabs _ o | .vneg _ o | .vrcp _ o | .vrsq _ o | .vex2 _ o | .vlg2 _ o | .vcis _ o => vecSrcs c o.me o.vm [o.a]
  | .vcvt _ o => vecSrcs c o.me o.vm [o.a]
  | .vand _ o | .vor _ o | .vxor _ o => vlogSrcs c o
  | .vcmp _ o => secondSrc c o.bs o.me o.vm o.b :: vecSrcs c o.me o.vm [o.a]
  | .vsel _ o => secondSrc c o.bs false o.vm o.b :: .v o.vm (List.range 64) :: vecSrcs c false o.vm [o.a]
  | .vred _ o | .vscan _ o => vecSrcs c o.me o.vm [o.a]
  | .vperm _ o =>
    maskSrc o.me o.vm ++ [.v o.b (c.active o.me o.vm), .v o.a ((c.active o.me o.vm).map fun e => (c.lane o.b.toNat e).toNat)]
  | .vbc _ o => .s o.a :: maskSrc o.me o.vm
  | .vins _ o => [.s o.a, .s o.b]
  | .vext _ o => [.v o.a [(c.reg o.b).toNat], .s o.b]
  | .vcntge _ o => .s o.b :: vecSrcs c o.me o.vm [o.a]
  | .vidx _ o => .s o.a :: .s o.b :: maskSrc o.me o.vm
  | .lnop _ _ o => lnSrc o.kd o.d ++ lnSrc o.ka o.a ++ lnSrc o.kb o.b
  | .mma _ _ o | .mma3 _ _ o => fieldSrcs false o
  | .mmaq _ _ o | .bsmm _ _ o | .gmm _ _ o => fieldSrcs true o
  | .scacc _ _ o => .acc (o.d.toNat % 16) :: mxSrc o.ka o.a ++ mxSrc o.kb o.b
  | .adrn _ _ o => .acc (o.a.toNat % 16) :: mxSrc o.kd o.d
  | .ald _ _ o => mxSrc o.ka o.a
  | .arow _ _ o => .acc (o.a.toNat % 16) :: if o.accv then [.v o.d (List.range (o.mm1.toNat + 1))] else []
  | .cpy _ _ o => drEnd true o.c.kd o.c.d ++ drEnd false o.c.ka o.c.a ++ .s o.c.b :: namedSrcs o.c
  | .cpym _ _ o => .s o.c.d :: .tile o.c.a :: namedSrcs o.c
  | .cpyq _ _ o => .s o.qr :: drEnd true o.c.kd o.c.d ++ drEnd false o.c.ka o.c.a ++ .s o.c.b :: namedSrcs o.c
  | .fill _ _ o => drEnd true o.c.kd o.c.d ++ .s o.c.a :: .s o.c.b :: namedSrcs o.c
  | .disc _ _ o => .s o.a :: .s o.b :: namedSrcs o
  | .cpyt _ _ o => drEnd true o.c.kd o.c.d ++ .s o.c.a :: coordSrcs s c.part (c.reg o.c.a) o.c.b ++ namedSrcs o.c
  | .talloc _ o => if o.lvl = 1 then [.s o.a] else []
  | .tcmt _ o | .tabt _ o => [.tile o.a]
  | .tcon _ o => [.tile o.a]
  | .tinf _ o => [.tile o.a]
  | .tts _ o => [.tile o.a, .s o.b]
  | .slput _ o => .tile o.b :: if o.nx then [] else [.s o.d]
  | .sopen _ o => [.s o.a]
  | .pump _ o => [.s o.b]
  | .rqry _ o => if o.kp then [.s o.a] else []
  | .rres _ o => (if o.kp then [.s o.a] else []) ++ (if o.sub = 0 then [] else [.tile o.b]) ++ if o.fw then [.s o.d] else []
  | .rskp _ o | .rrev _ o => if o.kp then [.s o.a] else []
  | .rsyn _ o => [.s o.b]
  | .spawn _ _ o | .spawng _ _ o => .s o.a :: if o.rg then [.s o.b] else []
  | .mts _ o => [.s o.a]
  | .suspend _ o | .cmt _ o => .s o.a :: liveSrcs o.liveHi o.liveLo
  | .cwb _ o => [.s o.a, .s o.b]
  | .cinv _ o => [.s o.a, .s o.b]
  | _ => []

/-- The instruction of a context consumes a poisoned word (R43). -/
def State.hurt (s : State) (key : Nat) (i : Instr) : Bool := (srcsOf s (s.ctx key) i).any (Src.bad s (s.ctx key))
/-- It takes 0x5B, with a TVAL that the manual does not give. -/
def State.hurtTrap (s : State) (key : Nat) (i : Instr) : State :=
  let (v, s1) := s.fresh
  s1.stopped s1 key (ecOf i) (s.ctx key).pc (.trap (exc 0x5B v) none)

end Sys2Proof.Machine
end

