-- ==== Sys2Proof/Machine/Firing.lean ====
section
/-! DEFINITION. The steps of standing rules: when one fires and asks for its result tile (R177), the end of a firing (R178 to
R183), and rule keepers entering and leaving a slot (R188, R189). -/

namespace Sys2Proof.Machine
open Sys2Proof

/-- One rule of an owner replaced. -/
def State.putRule (s : State) (o : RuleOwner) (k : Nat) (r : Rule) : State := s.setRules o (SMap.put (s.rulesOf o) k r)
/-- A rule that has stopped firing: what it kept for its firing is gone (R183). -/
def Rule.rested (r : Rule) : Rule := { r with sub := 0, subOp := 0, pins := [], ft := 0, out := none }
/-- The pins of a firing released: its input tiles and its substitute (R152, R183). -/
def State.dropPins (s : State) (r : Rule) : State := (r.pins ++ if r.sub = 0 then [] else [r.sub]).foldl State.unpin s

/-- R178, R126, R189: a fault pins the rule; the context that holds it gets 0x3C, or the partition handler of a keeper. -/
def State.ruleFault (s : State) (key : Nat) (o : RuleOwner) (k : Nat) (r : Rule) (cause : Cause) : State :=
  let s1 := (s.dropPins r).putRule o k { r.rested with st := .faulted, fcause := cause }
  let info := tinfoRule k r.cur
  match o with
  | .task _ => s1.modCtx key fun c => { c with async := c.async ++ [exc 0x3C cause.toNat info] }
  | .keeper id =>
    let x := s1.keeper id
    s1.partEvent x.part (dieOf (coreOf key)) 0x3C 0 (coreOf key) (s1.saveAddr x.part x.save) (word info)

/-! The tiles of a firing. -/

/-- The tile of a stream operand: slice CUR of its stream, or the substitute. -/
def State.firingTile (s : State) (p : Nat) (r : Rule) (op : BitVec 2) (t : BitVec 16) : BitVec 32 :=
  if r.sub != 0 && r.subOp = op then r.sub
  else if t = 0xFFFF then 0 else (SMap.get? (s.stream p t.toNat).slices r.cur).getD 0
/-- The other tiles of which a firing consumes a read: those of kind "tile, consumed". -/
def Rule.uses (r : Rule) (h : SMap (BitVec 32)) : List (BitVec 32) :=
  let tile (k : BitVec 3) (n : BitVec 5) : List (BitVec 32) := if k = 7 then [SMap.getD h n.toNat 0] else []
  match decodeNat r.img with
  | .ok (.mma _ _ o) | .ok (.mmaq _ _ o) => tile o.ka o.a ++ tile o.kb o.b
  | .ok (.scacc _ _ o) => tile o.ka o.a ++ tile o.kb o.b
  | _ => []

/-! The run of a firing. -/

/-- The installed instruction, once; it answers what it writes to GV. -/
def fireM (r : Rule) (f : Fire) : M (Option (Word × List Byte)) :=
  match decodeNat r.img with
  | .ok (.lnop q y o) => do lnopM (.lnop q y o) o (some f); pure none
  | .ok (.mma q y o) => do fieldFire (.mma q y o) .mma o y f; pure none
  | .ok (.mmaq q y o) => do fieldFire (.mmaq q y o) .mmaq o y f; pure none
  | .ok (.scacc q y o) => do scFire (.scacc q y o) o f; pure none
  | .ok (.cpy q y o) => cpyFire (.cpy q y o) o f r.cur
  | _ => raise 0x00 r.img0.toNat
/-- The context as which a firing runs: the registers, FPC and accumulators of the holder of the rule, and no flag set. -/
def State.fireCtx (s : State) (key : Nat) (o : RuleOwner) : Ctx :=
  let c := s.ctx key
  match o with
  | .task _ => { c with ovf := 0, fps := 0 }
  | .keeper id =>
    let x := s.keeper id
    { c with s := x.s, h := x.h, fpc := x.fpc, acc := x.acc, bad := x.bad, ovf := 0, fps := 0 }
/-- The bytes of a tile that differ in a later state, each with its offset. -/
def State.tileDiff (s s1 : State) (h : BitVec 32) : List (Nat × Byte) :=
  match s.tileKept h with
  | none => []
  | some tk => (List.range ((s.tile tk).pg * 2048)).filterMap fun o =>
    let k := s.tileByte tk o
    if Mem.read s.mem k != Mem.read s1.mem k || (s.poison.contains k && !s1.poison.contains k) then some (o, Mem.read s1.mem k) else none
/-- The accumulator words that differ. -/
def accDiff (a b : SMap (BitVec 32)) : List (Nat × BitVec 32) :=
  (b.filter fun x => SMap.get? a x.1 != some x.2) ++ (a.filter fun x => (SMap.get? b x.1).isNone).map fun x => (x.1, 0)
/-- R43: a firing consumes a poisoned word: a register or an accumulator of the holder, or the header of a tile. -/
def State.fireHurt (s : State) (p : Nat) (c : Ctx) (r : Rule) (f : Fire) : Bool :=
  r.accs.any c.accBad || [f.a, f.b, f.d, f.carry].any (fun h => h != 0 && s.tileHurt h) ||
  match decodeNat r.img with
  | .ok i => (srcsOf s c i).any (Src.bad s c)
  | .error _ => false
/-- R178: the run, on what its operands hold now (R180). Nothing of it stands yet but what it has used of the free values. -/
def State.fireRun (s : State) (key k : Nat) (o : RuleOwner) (r : Rule) : Except Stop (State × Fired) :=
  let p := s.partOf o
  let f : Fire := ⟨o, k, s.firingTile p r 1 r.tida, s.firingTile p r 2 r.tidb, r.rslt, if r.ckind = 2 then r.carry else 0, r.sub⟩
  let c := s.fireCtx key o
  if s.fireHurt p c r f then .error (.trap (exc 0x5B) none)
  else match fireM r f { s.setCtx key c with cur := key } with
  | .error x => .error x
  | .ok (g, s1) =>
    let d := s1.ctx key
    .ok ({ s with freeCtr := s1.freeCtr }, {
      cause := none
      dst := match g with | some a => .gv a.1 | none => if r.target = 0 then .none else .tile r.target
      bytes := match g with | some a => (List.range a.2.length).zip a.2 | none => s.tileDiff s1 r.target
      uses := r.uses c.h, acc := accDiff c.acc d.acc, ovf := d.ovf, fps := d.fps })
/-- What a firing comes to whose run raises a cause. -/
def Fired.failed (c : Cause) : Fired := ⟨some c, .none, [], [], [], 0, 0⟩
/-- The cause of a run that stopped, and what of the state it used up. -/
def Stop.fireCause : Stop → Option (Cause × Option State)
  | .trap e b | .page e b | .commit e b => some (e.cause, b)
  | .wait _ _ => none

/-! The start (R177, R178). -/

/-- The pool, page count and level of a rule's result request. -/
def Rule.wants (r : Rule) (core : Nat) : Nat × Nat × Nat :=
  let lvl := r.outf.toNat / 2 ^ 30
  (if lvl = 2 then 576 + dieOf core else core, r.outf.toNat / 2 ^ 24 % 64, lvl)
/-- The result request of a rule that meets conditions 1 to 3, once; its age is the DTIME of the bclk at which they first hold. -/
def State.askResult (s : State) (key k : Nat) : State :=
  match s.ruleAt key k with
  | none => s
  | some (o, r) =>
    if !s.ruleDue key k o r || r.supplied || s.reqs.any (·.who = ReqWho.rule o k) then s
    else
      let (pool, n, lvl) := r.wants (coreOf key)
      let p := s.partOf o
      let cap := (s.quota pool p).c
      if cap = 0 || lvl = 3 then s.ruleFault key o k r 0x3B
      else if cap < n then s.ruleFault key o k r 0x35
      else { s with reqs := s.reqs ++ [⟨pool, p, n, s.dtime.toNat, coreOf key, .rule o k⟩] }
/-- The rules of the contexts in RUN and RES of a core, as (context key, rule slot). -/
def State.rulesOn (s : State) (core : Nat) : List (Nat × Nat) :=
  (slotsOf core).flatMap fun key => if (s.ctx key).inSlot then (SMap.keys (s.rulesOf (s.ctx key).ruleOwner)).map (key, ·) else []
/-- R177: in every bclk the requests of rules that have ceased to meet conditions 1 to 3 go, and those of rules that have come to
meet them are made. -/
def State.askAll (s : State) : State :=
  (s.resident.filter fun key => (s.ctx key).inSlot).foldl (fun s key =>
    (SMap.keys (s.rulesOf (s.ctx key).ruleOwner)).foldl (fun s k => s.askResult key k) (s.withdraw (s.ctx key).ruleOwner)) s

/-- The engine of a rule (R265). -/
def Rule.engine (r : Rule) : Nat := match decodeNat r.img with | .ok i => ecOf i | .error _ => 0
/-- A rule fires as soon as its engine takes it; that of a rule on the field or the drain unit is then free (R398, R424). -/
def State.mayFire (s : State) (key k : Nat) : Bool :=
  s.fireReady key k && match (s.ruleAt key k).bind (·.2.unit) with
    | none => true
    | some field => !s.unitFires (coreOf key) field && (!field || (slotsOf (coreOf key)).all fun x => (s.ctx x).mx = [])
/-- R178: of two rules of a core that can fire on one engine, the one of the context that has been longer in its slot goes first
(log entry 37), and of one context the one of lower RANK. -/
def State.goesBefore (s : State) (x y : Nat × Nat) : Bool :=
  let rank (x : Nat × Nat) : Nat := ((s.ruleAt x.1 x.2).map (·.2.rank)).getD 0
  let age (x : Nat × Nat) : Nat := (s.ctx x.1).started
  if x.1 = y.1 then rank x < rank y else age x < age y || (age x = age y && x.1 < y.1)
/-- The rules of a core that can fire on an engine. -/
def State.fireable (s : State) (core eng : Nat) : List (Nat × Nat) :=
  (s.rulesOn core).filter fun x => s.mayFire x.1 x.2 && ((s.ruleAt x.1 x.2).map (·.2.engine)) = some eng
/-- A firing enters its engine; what it will come to is settled (R178, R180), and its input tiles are pinned (R152). -/
def State.startFiring (s : State) (key k : Nat) (o : RuleOwner) (r : Rule) : State :=
  let pins := (s.inputTiles (s.partOf o) r ++ r.named (s.fireCtx key o).h).filter fun h => (s.tileOf h).isSome
  let go (s : State) (x : Fired) : State :=
    (pins.foldl State.pin s).putRule o k { r with st := .firing, pins := pins, ft := s.dtime.toNat, out := some x }
  match s.fireRun key k o r with
  | .ok (s1, x) => go s1 x
  | .error x => match x.fireCause with
    | none => s
    | some (cause, b) => go { s with freeCtr := (b.getD s).freeCtr } (Fired.failed cause)
/-- A rule that meets conditions 1 to 3 asks for its result tile; with condition 4 it fires, when no rule goes before it. -/
def State.fireRule (s : State) (key k : Nat) : State :=
  match s.ruleAt key k with
  | none => s
  | some (o, r) =>
    let s := s.withdraw o
    if !s.mayFire key k then s.askResult key k
    else if (s.fireable (coreOf key) r.engine).any fun x => s.goesBefore x (key, k) then s
    else s.startFiring key k o r
/-- R178: the firings that enter an engine of a core before its running context's next instruction starts there. -/
def State.fireFirst (s : State) (core eng : Nat) : State :=
  (List.range 48).foldl (fun s _ => match (s.fireable core eng).find? fun x =>
      !(s.fireable core eng).any fun y => s.goesBefore y x with
    | some x => s.fireRule x.1 x.2
    | none => s) s

def execRuleFire (core slot k : Nat) (s : State) : Host.Outcome State Fault Refusal := .next (s.fireRule (core * 4 + slot) k)

/-! The end (R178 to R183). -/

/-- The DTIME of the latest commit among tiles (R67 FIRELAG). -/
def State.lastCommit (s : State) (l : List (BitVec 32)) : Nat :=
  l.foldl (fun m h => match s.tileOf h with | some tk => max m (s.tile tk).commitAt | none => m) 0

/-- The accumulators and the flags of a firing written to the holder of its rule. -/
def State.putFired (s : State) (key : Nat) (o : RuleOwner) (x : Fired) : State :=
  let acc (m : SMap (BitVec 32)) : SMap (BitVec 32) := x.acc.foldl (fun m y => SMap.put m y.1 y.2) m
  match o with
  | .task _ => s.modCtx key fun c => { c with acc := acc c.acc, ovf := c.ovf ||| x.ovf, fps := c.fps ||| x.fps }
  | .keeper id =>
    let y := s.keeper id
    s.setKeeper id { y with acc := acc y.acc, ovf := y.ovf ||| x.ovf, fps := y.fps ||| x.fps }
/-- The bytes of a firing written: to GV through translation, or to its tile. -/
def State.writeFired (s : State) (p : Nat) (x : Fired) : Except Tr State :=
  match x.dst with
  | .gv a => s.gvWrite p a (x.bytes.map (·.2)) true
  | v => .ok (x.bytes.foldl (fun s y => s.viewWrite v y.1 [y.2]) s)
/-- R178, R179: the effects of a firing, together: its bytes, the STAMP and the commit of its result, its carried operand, the
reads of its inputs, and CUR. -/
def State.fired (s : State) (key k : Nat) (o : RuleOwner) (r : Rule) (x : Fired) : State :=
  let p := s.partOf o
  let ins := s.inputTiles p r
  let s1 := match s.tileOf r.rslt with
    | some tk => s.modTile tk fun t => { t with stamp := s.inputStamp p r }
    | none => s
  let s2 := x.uses.foldl (fun s h => match s.tileOf h with | some tk => s.consumeNow tk 1 | none => s) (s1.putFired key o x)
  let s3 := (s2.sample (dieOf (coreOf key)) 3 p (r.ft - s.lastCommit ins)).dropPins r
  State.work ((s3.putRule o k r.rested).passSlice o k)

/-- What follows a firing: a keeper's last firing is noted, and a cancellation that waited for it goes on (R184, R188). -/
def State.afterFiring (s : State) (o : RuleOwner) : State :=
  match o with
  | .keeper id => if (SMap.get? s.keepers id).isSome then s.setKeeper id { s.keeper id with lastFire := s.bclk } else s
  | .task t =>
    match (s.task t).pend with
    | some (cause, count) => if s.firing t then s else State.work (s, [.cancel t cause count])
    | none => s

/-- A firing at its end: all of its effects, or its fault (R179); it waits where a tile or a page of it moves (R149, R226). -/
def State.endFiring (s : State) (key k : Nat) : State :=
  match s.ruleAt key k with
  | none => s
  | some (o, r) =>
    match r.out with
    | none => s
    | some x =>
      let p := s.partOf o
      let reads := s.inputTiles p r ++ x.uses
      let fault (c : Cause) : State := (s.ruleFault key o k r c).afterFiring o
      if r.st != .firing || (r.target :: reads).any fun h => s.viewMoving (.tile h) then s
      else match x.cause with
        | some c => fault c
        | none => match s.writeFired p x with
          | .error (.fault e) => fault e.cause
          | .error _ => s
          | .ok s1 =>
            let look := if r.tidd = 0xFFFF then s1 else s1.readTensor p r.tidd.toNat
            match (s.resultFault o r (s.sliceBytesOf p r.tidd.toNat)).or (s.inputFault reads) with
            | some e => fault e.cause
            | none => (look.fired key k o r x).afterFiring o

def execFiringEnd (core slot k : Nat) (s : State) : Host.Outcome State Fault Refusal := .next (s.endFiring (core * 4 + slot) k)

/-! Keepers (R188). -/

/-- A keeper leaves its slot for the save area (R186, R188); a firing goes on to its end first, and one image moves at a time. -/
def State.saveKeeper (s : State) (id : Nat) : State :=
  let x := s.keeper id
  match x.at_ with
  | none => s
  | some key =>
    if (s.ctx key).slot != .res || !s.imageFree (coreOf key) || x.k.any (·.2.st = .firing) then s
    else
      let sk := saveKey x.part x.save
      ((({ s with reqs := s.reqsWithout key } : State).modCtx key fun c => { c with slot := .save, image := some sk }).keepSave sk
        (x.ctx.side none (some id) false (s.refsOf x.part x.ctx true))).readRefs x.part x.ctx true
def execKeeperIdleSave (id : Nat) (s : State) : Host.Outcome State Fault Refusal :=
  .next (if 4096 ≤ s.bclk - (s.keeper id).lastFire then s.saveKeeper id else s)

end Sys2Proof.Machine
end

