-- ==== Sys2Proof/Machine/Fetch.lean ====
section
/-! DEFINITION. Fetching the next instruction of a context: the exit table (R259), the doublewords (R247, R227) and the
decoding checks with their causes (R267). -/

namespace Sys2Proof.Machine
open Sys2Proof

/-! Text that is stored to (R248). -/

/-- The LIVE entries of a partition's object table (R300). -/
def State.liveObjs (s : State) (p : Nat) : List Obj :=
  let base := (s.part p).otbase
  ((pieces base 32768).flatMap fun x => match s.translate p x.1 .rd with
    | .ok k _ _ _ => s.mem.filterMap fun y =>
        if k ≤ y.1 && y.1 < k + x.2 && y.2 = 1 then some ((x.1 - base).toNat + (y.1 - k)) else none
    | _ => []).filterMap fun o => if o % 128 = 0 then s.obj p (o / 128) else none
/-- The doublewords of memory that differ in a later one. -/
def Mem.changed (m m' : SMap Byte) : List Nat :=
  (((m.filter fun x => !m'.contains x) ++ m'.filter fun x => !m.contains x).map fun x => x.1 / 8 * 8).eraseDups
/-- The doublewords of an object's text among some of memory recorded as `s` holds them, each unless it is recorded already. -/
def State.keepObj (s : State) (p : Nat) (o : Obj) (l : List Nat) (t : State) : State :=
  (pieces o.text o.tlen).foldl (fun t x => match s.translate p x.1 .rd with
    | .ok k _ _ _ => l.foldl (fun t d =>
        let a := p * 2 ^ 64 + x.1.toNat + (d - k)
        if d < k || k + x.2 ≤ d || (SMap.get? t.icache a).isSome then t
        else { t with icache := SMap.put t.icache a (Mem.readN s.mem d 8) }) t
    | _ => t) t
/-- R248: a step that stores to the text of objects that are LIVE before and after it leaves on record what was there before the first
such store; a partition that is under reset, or is no more, has no text (log entry 9). -/
def State.keepText (s s' : State) : State :=
  if s.mem = s'.mem then s'
  else (SMap.keys s.parts).foldl (fun t p =>
    if (s'.part p).st != .active then t
    else ((s.liveObjs p).filter fun o => s'.obj p o.idx == some o).foldl (fun t o => s.keepObj p o (Mem.changed s.mem s'.mem) t) t) s'

/-- R248: a doubleword of a partition's text that memory holds as `new`: one that has been stored to a fetch gives, until `cinv`, as it
was before or as it is now (log entry 9). -/
def State.fetchDw (s : State) (p : Nat) (a : Word) (new : Nat) : State × Nat :=
  let k := p * 2 ^ 64 + a.toNat
  match SMap.get? s.icache k with
  | none => (s, new)
  | some old =>
    if old = new then (s, new)
    else
      let (v, s1) := s.fresh
      (s1, if v % 2 = 0 then old else new)
/-- Doublewords of text as they are fetched. -/
def State.fetchDws (s : State) (p : Nat) : Word → List Nat → State × List Byte
  | _, [] => (s, [])
  | a, w :: r =>
    let x := s.fetchDw p a w
    let y := State.fetchDws x.1 p (a + 8) r
    (y.1, leBytes 8 x.2 ++ y.2)
/-- `n` doublewords of text at an address: every page translated for execution first, 0x5B where poison lies (R43). -/
def fetchBytes (a : Word) (n : Nat) : M (List Byte) := do
  let parts ← (pieces a (8 * n)).filter (·.2 != 0) |>.mapM fun x => do
    let (k, d, _) ← gvPage x.1 .ex
    if d then pure (List.replicate x.2 0) else readKey k x.2 x.1.toNat
  let b := parts.flatten
  fun s =>
    let x := s.fetchDws (s.ctx s.cur).part a ((List.range n).map fun i => slice b (8 * i) 8)
    .ok (x.2, x.1)

/-- A signed 32-bit offset of an exit table. -/
def offset32 (n : Nat) : Word := (BitVec.ofNat 32 n).signExtend 64

/-- R259: the eight targets of the exit table at ETB, read when the context has none loaded. -/
def loadExits : M Unit := do
  let c ← getC
  if c.exits != [] then pure ()
  else
    let b ← fetchBytes c.etb 4
    modC fun c => { c with exits := (List.range 8).map fun i => c.etb + 32 + offset32 (slice b (4 * i) 4) }

/-- The cause of a decoding error (R267, R129); `w` holds the doublewords fetched. -/
def DecodeError.exc (w : Nat) : DecodeError → Exc
  | .illegal | .short => Machine.exc 0x00 (dwOf w 0).toNat
  | .lenReserved => Machine.exc 0x03 (dwOf w 0).toNat
  | .seqReserved => Machine.exc 0x04 (dwOf w 0).toNat
  | .reserved k => Machine.exc 0x01 (dwOf w k).toNat k
  | .regRange r => Machine.exc 0x05 (dwOf w 0).toNat r

/-- What a fetch brings: the instruction, or why there is none, with bits [63:61] of the doubleword 0 that it gave (R124). -/
inductive Fetched where
  | ok (i : Instr)
  | bad (ec : Nat) (x : Stop)
  deriving DecidableEq, Repr

/-- The doublewords after the first, or what stops their fetch. -/
def fetchRest (n : Nat) : M (Except Stop (List Byte)) := fun s =>
  if n = 0 then .ok (.ok [], s)
  else match fetchBytes ((s.ctx s.cur).pc + 8) n s with
    | .ok (b, s1) => .ok (.ok b, s1)
    | .error x => .ok (.error x, s)
/-- The exit table, doubleword 0, and with its length known the others, decoded. -/
def fetchAny : M Fetched := do
  loadExits
  let c ← getC
  let b ← fetchBytes c.pc 1
  let ec := leNat b / 2 ^ 61
  match decodeHead (leNat b) with
  | .error e => pure (.bad ec (.trap (DecodeError.exc (leNat b) e) none))
  | .ok n =>
    match ← fetchRest (n - 1) with
    | .error x => pure (.bad ec x)
    | .ok more =>
      let w := leNat (b ++ more)
      match decodeNat w with
      | .error e => pure (.bad ec (.trap (DecodeError.exc w e) none))
      | .ok i => pure (.ok i)
/-- The instruction at the pc of the running context. -/
def fetch : M Instr := do
  match ← fetchAny with
  | .ok i => pure i
  | .bad _ x => fun _ => .error x

/-- Bits [63:61] of the doubleword that a fetch at the pc gives; where it gives none, a value that the manual does not state (log
entry 8). -/
def State.fetchedClass (s : State) (key : Nat) : Nat × State :=
  match fetchBytes (s.ctx key).pc 1 { s with cur := key } with
  | .ok (b, s1) => (leNat b / 2 ^ 61, { s1 with cur := s.cur })
  | .error _ => let (v, s1) := s.fresh; (v % 8, s1)

/-- The running context's next step: the instruction that it fetches, or the state in which the fetch stopped. -/
def State.fetched (s : State) : (State × Instr) ⊕ State :=
  match fetchAny s with
  | .ok (.ok i, s1) => .inl (s1, i)
  | .ok (.bad ec x, s1) => .inr (s1.stopped s1 s.cur ec (s.ctx s.cur).pc x)
  | .error x =>
    let (ec, s1) := s.fetchedClass s.cur
    .inr (s1.stopped s1 s.cur ec (s.ctx s.cur).pc x)

end Sys2Proof.Machine
end

