-- ==== Sys2Proof/Machine/Jobs.lean ====
section
/-! DEFINITION. What drift jobs do: their start, their data, their end (R446 to R455), the canary pass (R225), landings (R159),
and the acceptance of a command that waits. -/

namespace Sys2Proof.Machine
open Sys2Proof

/-! Data. -/

/-- How far a transfer goes from an offset while neither end leaves its 64 KiB page of GV. -/
def pieceLen (d a : View) (off n : Nat) : Nat :=
  let room (v : View) : Nat := match v with | .gv x => 65536 - (x.toNat + off) % 65536 | _ => 65536
  min (n - off) (min (room d) (room a))
/-- The pieces of a transfer, rising. -/
def cutsFrom (d a : View) (n : Nat) : Nat → Nat → List (Nat × Nat)
  | 0, _ => []
  | f + 1, off => if n ≤ off then [] else (off, pieceLen d a off n) :: cutsFrom d a n f (off + pieceLen d a off n)
def cuts (d a : View) (n : Nat) : List (Nat × Nat) := cutsFrom d a n (2 * (n / 65536) + 4) 0

/-- A translation cause of a job: TVAL holds the page's address (R225). -/
def pageExc (a : Word) (e : Exc) : Exc := { e with tval := word (a.toNat / 65536 * 65536) }
/-- TVAL of poison in a local end: the LS or DX offset, the CX address, or the offset in its tile. -/
def localVal (kind k : Nat) : Nat :=
  if 2 ^ 66 ≤ k then (k - 2 ^ 66) % 2 ^ 27 else if kind = 2 then (k - 2 ^ 65) % (12 * 2 ^ 20) else (k - 2 ^ 65) % 2 ^ 20

/-- R246: `n` bytes from a key up that lie beyond the boundary of their die's scratchpad as it now stands. -/
def State.dxFault (s : State) (k n : Nat) : Option Exc :=
  if 2 ^ 66 ≤ k && k < 2 ^ 67 && s.scratchOf ((k - 2 ^ 66) / 2 ^ 27) * 2 ^ 20 < (k - 2 ^ 66) % 2 ^ 27 + n then
    some (exc 0x2F ((k - 2 ^ 66) % 2 ^ 27)) else none
/-- R246 for a piece of an end. -/
def State.endFault (s : State) (v : View) (off n : Nat) : Option Exc :=
  match v with
  | .mem k => s.dxFault (k + off) n
  | _ => none
/-- A piece of a source read, as it stands in `s0`; A is marked in `s`. -/
def State.endRead (s0 s : State) (p kind : Nat) (v : View) (off n : Nat) : Except Exc (State × List Byte) :=
  match v with
  | .gv a =>
    match s.translate p (a + word off) .rd with
    | .ok k d _ l =>
      if !d && s0.poisoned k n then .error (exc 0x5B (a + word off).toNat)
      else .ok (s.markUsed l .rd, if d then List.replicate n 0 else Mem.readL s0.mem k n)
    | t => .error (pageExc (a + word off) t.exc)
  | v => match s0.endFault v off n, s0.viewRead v off n with
    | some e, _ => .error e
    | none, some b => .ok (s, b)
    | none, none => .error (exc 0x5B (match v with | .mem k => localVal kind (k + off) | _ => off))
/-- A piece of a destination written. -/
def State.endWrite (s : State) (p : Nat) (v : View) (off : Nat) (b : List Byte) : Except Exc State :=
  match v with
  | .gv a =>
    match s.translate p (a + word off) .wr with
    | .ok k _ _ l => .ok ((s.markUsed l .wr).store k b)
    | t => .error (pageExc (a + word off) t.exc)
  | v => match s.endFault v off b.length with
    | some e => .error e
    | none => .ok (s.viewWrite v off b)
/-- The poison of a piece of a source. -/
def endPoison (kind : Nat) (v : View) (off : Nat) : Exc :=
  exc 0x5B (match v with | .gv a => (a + word off).toNat | .mem k => localVal kind (k + off) | _ => off)
/-- The pieces in which a job reads its source. -/
def Job.srcCuts (j : Job) : List (Nat × Nat) := if j.cv = 0 then cuts j.d j.a j.len else cuts j.a .none j.len
/-- Source and destination lie in one space and overlap. -/
def Job.overlaps (j : Job) : Bool :=
  match j.d, j.a with
  | .gv x, .gv y => (x - y).toNat < j.len || (y - x).toNat < j.dstLen
  | .mem x, .mem y => j.kd = j.ka && x < y + j.len && y < x + j.dstLen
  | .tile x, .tile y => sameTile x y
  | _, _ => false
/-- R448: the source of a job whose ends overlap, as it stands at the job's start; `none` is a poisoned piece. A piece that does
not translate then is read when the data reach it. -/
def State.sourceNow (s : State) (j : Job) : List (Nat × Option (List Byte)) :=
  if !j.overlaps then [] else j.srcCuts.filterMap fun c => match State.endRead s s j.part j.ka j.a c.1 c.2 with
    | .ok x => some (c.1, some x.2)
    | .error e => if e.cause = 0x5B then some (c.1, none) else none
/-- A piece of a job's source: as at the job's start where that was kept. -/
def State.srcRead (s0 s : State) (j : Job) (off n : Nat) : Except Exc (State × List Byte) :=
  let now := State.endRead s0 s j.part j.ka j.a off n
  match j.src.find? (·.1 = off), now with
  | some (_, some b), .ok x => .ok (x.1, b)
  | some (_, some b), .error e => if e.cause = 0x5B then .ok (s, b) else now
  | some (_, none), .ok _ => .error (endPoison j.ka j.a off)
  | _, _ => now
/-- `n` bytes of an end, all of them. -/
def State.endBytes (s : State) (p kind : Nat) (v : View) (n : Nat) : State × Except Exc (List Byte) :=
  (cuts v .none n).foldl (fun (x : State × Except Exc (List Byte)) c =>
    match x.2 with
    | .error _ => x
    | .ok b => match State.endRead s x.1 p kind v c.1 c.2 with
      | .error e => (x.1, .error e)
      | .ok (s1, b') => (s1, .ok (b ++ b'))) (s, .ok [])
/-- Bytes written to an end until a fault. -/
def State.putBytes (s : State) (p : Nat) (v : View) (b : List Byte) : State × Option Exc :=
  (cuts v .none b.length).foldl (fun (x : State × Option Exc) c =>
    match x.2 with
    | some _ => x
    | none => match x.1.endWrite p v c.1 ((b.drop c.1).take c.2) with
      | .error e => (x.1, some e)
      | .ok s1 => (s1, none)) (s, none)

/-- What a job has come to: its state, and its value or its failure. -/
abbrev Ran := State × Except Exc Nat

/-! `cpyt` (R454). -/

/-- The elements of row `r`: their addresses and first bits, by the snapshot; the tile table's pages are marked. -/
def State.boxRow (s : State) (j : Job) (t : Tensor) (r : Nat) : State × Except Exc (List (Word × Nat)) :=
  (List.range j.bx0).foldl (fun (x : State × Except Exc (List (Word × Nat))) i =>
    match x.2 with
    | .error _ => x
    | .ok l => match x.1.elemAddr j.part j.tid t (j.boxCoords t.rank i r) with
      | .ok a => (a.1, .ok (l ++ [a.2]))
      | .error e => (x.1, .error e.exc)) (s, .ok [])
/-- A row read from the tensor. -/
def State.rowIn (s : State) (j : Job) (t : Tensor) (r : Nat) : State × Except Exc (List Nat) :=
  match s.boxRow j t r with
  | (s0, .error e) => (s0, .error e)
  | (s0, .ok l) => l.foldl (fun (x : State × Except Exc (List Nat)) a =>
      match x.2 with
      | .error _ => x
      | .ok vs => match State.endRead s x.1 j.part 0 (.gv a.1) 0 ((etypeBits j.et + 7) / 8) with
        | .error e => (x.1, .error e)
        | .ok (s1, b) => (s1, .ok (vs ++ [leNat b / 2 ^ a.2 % 2 ^ etypeBits j.et]))) (s0, .ok [])
/-- A row written to the tensor. -/
def State.rowOut (s : State) (j : Job) (t : Tensor) (r : Nat) (vs : List Nat) : State × Option Exc :=
  match s.boxRow j t r with
  | (s0, .error e) => (s0, some e)
  | (s0, .ok l) => (l.zip vs).foldl (fun (x : State × Option Exc) a =>
      match x.2 with
      | some _ => x
      | none =>
        let w := etypeBits j.et
        let old := if 8 ≤ w then .ok (x.1, []) else State.endRead x.1 x.1 j.part 0 (.gv a.1.1) 0 1
        match old with
        | .error e => (x.1, some e)
        | .ok (s1, b) => match s1.endWrite j.part (.gv a.1.1) 0
            (if 8 ≤ w then leBytes (w / 8) a.2 else leBytes 1 (insertField (leNat b) a.1.2 w a.2)) with
          | .error e => (s1, some e)
          | .ok s2 => (s2, none)) (s0, none)
/-- The local side as elements, and elements as its bytes. -/
def boxOf (j : Job) (b : List Byte) : List Nat :=
  if j.cv = 1 then fromPlanar j.et j.bx1 j.bx0 b else unpackBits (etypeBits j.et) (j.bx0 * j.bx1) b
def ofBox (j : Job) (xs : List Nat) : List Byte :=
  if j.cv = 1 then toPlanar j.et j.bx1 j.bx0 xs else packBits (etypeBits j.et) xs

/-! The data of a job, piece by piece (R447, R225). -/

/-- A piece of a job's data: bytes moved, read to be converted, or written; a row of a box read, or written. -/
inductive Piece where
  | move (off n : Nat)
  | get (off n : Nat)
  | put (off n : Nat)
  | rowIn (r : Nat)
  | rowOut (r : Nat)
  deriving DecidableEq, Repr

/-- The pieces of a job, in the order in which its data pass (R449, R451, R452, R454). -/
def Job.pieces (j : Job) : List Piece :=
  let gets (l : List (Nat × Nat)) : List Piece := l.map fun c => .get c.1 c.2
  let puts (n : Nat) : List Piece := (cuts j.d .none n).map fun c => .put c.1 c.2
  match j.op with
  | .fill => puts j.len
  | .cpyt => if j.dir then gets (cuts j.d .none j.len) ++ (List.range j.bx1).map .rowOut else (List.range j.bx1).map .rowIn ++ puts j.len
  | .cpyq => (cuts j.d j.a j.len).map fun c => .move c.1 c.2
  | _ => if j.cv = 0 then (cuts j.d j.a j.len).map fun c => .move c.1 c.2 else gets j.srcCuts ++ puts j.dstLen
/-- What a job writes: the pattern (R452), the box (R454), or the bytes that it has read, converted (R449). -/
def Job.out (j : Job) : List Byte :=
  match j.op with
  | .fill => (List.range (j.len / j.pw)).flatMap fun _ => leBytes j.pw j.pat.toNat
  | .cpyt => ofBox j j.buf
  | _ => cvBytes j.cv j.et j.h j.kk (j.buf.map (BitVec.ofNat 8))
/-- The tensor of a `cpyt`, by the snapshot of its start. -/
def State.boxTensor (s : State) (j : Job) : Tensor := tensorOf (s.tensorAddr j.part j.tid) (j.pre.flatMap fun w => leBytes 8 w.toNat)
/-- A job that has passed a piece, or failed in it. -/
def Job.passed (j : Job) (more : List Nat) : Job := { j with done := j.done + 1, buf := j.buf ++ more }
def Job.wrote (s : State) (j : Job) : Except Exc State → State × Job
  | .ok s1 => (s1, j.passed [])
  | .error e => (s, { j with fail := some e })
/-- One piece; what it reads stands as in `s0`, or as the job's start kept it. -/
def State.movePiece (s0 : State) (x : State × Job) (c : Piece) : State × Job :=
  let j := x.2
  if j.fail.isSome then x
  else match c with
  | .move off n => match State.srcRead s0 x.1 j off n with
    | .error e => (x.1, { j with fail := some e })
    | .ok (s1, b) => Job.wrote s1 j (s1.endWrite j.part j.d off b)
  | .get off n =>
    match (if j.op = .cpyt then State.endRead s0 x.1 j.part j.kd j.d off n else State.srcRead s0 x.1 j off n) with
    | .error e => (x.1, { j with fail := some e })
    | .ok (s1, b) => (s1, j.passed (b.map BitVec.toNat))
  | .put off n => Job.wrote x.1 j (x.1.endWrite j.part j.d off ((j.out.drop off).take n))
  | .rowIn r => match x.1.rowIn j (s0.boxTensor j) r with
    | (s1, .error e) => (s1, { j with fail := some e })
    | (s1, .ok vs) => (s1, j.passed vs)
  | .rowOut r =>
    match x.1.rowOut j (s0.boxTensor j) r (((boxOf j (j.buf.map (BitVec.ofNat 8))).drop (r * j.bx0)).take j.bx0) with
    | (s1, some e) => (s1, { j with fail := some e })
    | (s1, none) => (s1, j.passed [])
/-- The data of a job up to its piece `n`, until a fault (R447). -/
def State.moveTo (s : State) (j : Job) (n : Nat) : State × Job := ((j.pieces.take n).drop j.done).foldl (State.movePiece s) (s, j)
/-- R454: the rows that a box has read before a row failed are written; the fault of a write comes before. -/
def State.flushBox (s : State) (j : Job) : State × Option Exc :=
  if j.op != .cpyt || j.dir || j.bx1 ≤ j.done || j.buf = [] then (s, none)
  else match s.endBytes j.part j.kd j.d j.len with
    | (s1, .error e) => (s1, some e)
    | (s1, .ok b) =>
      let all := ofBox j (j.buf ++ (boxOf j b).drop j.buf.length)
      s1.putBytes j.part j.d (all.take (if j.cv = 1 then all.length else (j.buf.length * etypeBits j.et + 7) / 8))
/-- The data of a job up to its piece `n`, and what a failure leaves of them. -/
def State.moveOver (s : State) (j : Job) (n : Nat) : State × Job :=
  let x := s.moveTo j n
  match x.2.fail with
  | none => x
  | some e => let y := x.1.flushBox x.2; (y.1, { x.2 with fail := some (y.2.getD e) })
/-- All the data of a job that are still to pass. -/
def State.runData (s : State) (j : Job) : Ran :=
  let x := s.moveOver j j.pieces.length
  (x.1, match x.2.fail with | some e => .error e | none => .ok 0)

/-! `cpyq` (R451). -/

/-- The address of a queue's slot for an index. -/
def State.slotAddr (s : State) (q i : Nat) : Nat := bits (s.qcbField q 0x08 8) 62 12 * 4096 + 64 * (i % 2 ^ s.qcbField q 0x10 1)
/-- A queue's slot for an index: GV of OWN0, device physical for queue 0, or host memory (R46). -/
def State.ringWrite (s : State) (q i off : Nat) (b : List Byte) : Except Exc State :=
  let base := s.qcbField q 0x08 8
  let a := s.slotAddr q i + off
  if bit base 63 then .ok (s.store (hostKey a) b)
  else if q = 0 then .ok (s.store a b)
  else match s.gvWrite (s.qcbField q 0x11 1) (word a) b with
    | .ok s' => .ok s'
    | .error t => .error t.exc
/-- LAP and SEQ of an index (R48, R50). -/
def lapSeq (i rsize : Nat) : Nat := (i / 2 ^ rsize + 1) % 2 * 2 ^ 39 + i % 2 ^ 32
/-- A packet published in slot `i`: the body, then the header. -/
def State.publish (s : State) (q i hdr : Nat) (body : List Byte) : Except Exc State :=
  match s.ringWrite q i 8 body with
  | .error e => .error e
  | .ok s1 => s1.ringWrite q i 0 (leBytes 8 (hdr + lapSeq i (s.qcbField q 0x10 1)))
/-- The claimed index may be written: the engine has taken what its slot held. -/
def State.ringRoom (s : State) (q i : Nat) : Bool := i < s.qcbField q 0x80 8 + 2 ^ s.qcbField q 0x10 1

/-- The payload, then the packet; a payload that faults, or an image that is poisoned (R43), leaves a VOID packet. -/
def State.runEnqueue (s : State) (j : Job) : Ran :=
  let i := (j.pre.headD 0).toNat
  let void := 0x0A * 2 ^ 56 + j.part * 2 ^ 40
  match s.runData j with
  | (s1, .error e) =>
    let s2 := (s1.publish j.qn i void (List.replicate 56 0)).toOption.getD s1
    (s2, .error (if e.cause = 0x5B then e else { e with cause := 0x2A }))
  | (s1, .ok _) =>
    let b := Mem.readL s1.mem (lsKey j.core j.img) 64
    let h := slice b 0 8
    if s1.poisoned (lsKey j.core j.img) 64 then
      ((s1.publish j.qn i void (List.replicate 56 0)).toOption.getD s1, .error (exc 0x5B j.img))
    else match s1.publish j.qn i (bits h 63 56 * 2 ^ 56 + bits h 48 40 * 2 ^ 40) (b.drop 8) with
    | .ok s2 => (s2, .ok i)
    | .error e => (s1, .error e)

/-! `disc` (R453). -/

/-- The leaves below a table: (address, key of the entry, log2 of the page, entry). Entries that name nothing are passed over. -/
def State.leaves (s : State) (p : Nat) : List (Nat × Nat) → Nat → Nat → List (Nat × Nat × Nat × Nat)
  | [], _, _ => []
  | (lo, w) :: below, base, va => if !s.granted p base (8 * 2 ^ w) then [] else (List.range (2 ^ w)).flatMap fun n =>
    let e := Mem.readN s.mem (base + 8 * n) 8
    if !bit e 0 || entBad e lo then []
    else if bit e 1 then [(va + n * 2 ^ lo, base + 8 * n, lo, e)]
    else State.leaves s p below (entAddr e) (va + n * 2 ^ lo)
/-- The leaves of a partition wholly within a range. -/
def State.leavesIn (s : State) (p : Nat) (a : Word) (n : Nat) : List (Nat × Nat × Nat × Nat) :=
  (s.leaves p [(39, 13), (30, 9), (21, 9), (16, 5)] (s.part p).ptroot 0).filter fun x =>
    (((BitVec.ofNat 52 x.1).signExtend 64) - a).toNat + 2 ^ x.2.2.1 ≤ n
/-- Every NORMAL leaf of the range DISCARDED; `none` while one is MOVING. -/
def State.runDiscard (s : State) (j : Job) : Option Ran :=
  let a := match j.d with | .gv a => a | _ => 0
  let l := s.leavesIn j.part a j.len
  if l.any fun x => bits x.2.2.2 7 6 = 2 then none
  else
    let hit := l.filter fun x => bits x.2.2.2 7 6 = 0
    some ({ s with mem := hit.foldl (fun m x =>
      Mem.write m x.2.1 (BitVec.ofNat 8 (insertField (Mem.read m x.2.1).toNat 6 2 1))) s.mem }, .ok hit.length)

/-! Pages and tiles on their way (R149, R226). -/

/-- One of some pages of a partition is MOVING. -/
def State.anyMoving (s : State) (p : Nat) (l : List Word) : Bool := l.any fun a => s.gvMoving p a 1
/-- The tile table of a box lies on a MOVING page. -/
def State.boxMoving (s : State) (j : Job) : Bool :=
  match s.tensor j.part j.tid with
  | none => false
  | some t => (List.range j.bx1).any fun r => (List.range j.bx0).any fun x =>
      match s.elemAddr j.part j.tid t (j.boxCoords t.rank x r) with
      | .error .moving => true
      | _ => false
/-- The slot of a queue's index lies on a page under migration. -/
def State.slotMoving (s : State) (q i : Nat) : Bool :=
  !bit (s.qcbField q 0x08 8) 63 && q != 0 && s.gvMoving (s.qcbField q 0x11 1) (word (s.slotAddr q i)) 64
/-- What a running job is to touch is on its way to another place. -/
def State.jobMoves (s : State) (j : Job) : Bool :=
  s.viewMoving j.d || s.viewMoving j.a || s.anyMoving j.part (s.srcPages j ++ s.destPages j) || (j.op = .cpyt && s.boxMoving j) ||
  (j.op = .cpyq && s.slotMoving j.qn (j.pre.headD 0).toNat)

/-! A copy to a peer (R449, R19 to R22). -/

/-- The mark of a page that the canary pass has translated (R225). -/
def scoutMark (u : Use) (a : Word) : Nat := a.toNat / 65536 * 2 + if u = .wr then 1 else 0
/-- Of some pages of an end, the index of the first one that the canary pass has still to translate. -/
def Job.scoutAt (j : Job) (u : Use) (l : List Word) : Option Nat := l.findIdx? fun a => !j.scouted.contains (scoutMark u a)
/-- How many bytes a job may send: up to the page that lies `n` pages behind the next one of the canary pass (R225); a job that
converts reads its whole source first. -/
def State.sendBound (s : State) (j : Job) : Nat :=
  let all := cvDst j.cv j.et j.h j.kk
  if j.scout = 0 then all
  else match j.scoutAt .rd (s.srcPages j), j.a with
    | some m, .gv a => if j.cv != 0 || m < j.scout then 0 else (((s.srcPages j).getD (m - j.scout) a) - a).toNat
    | _, _ => all
/-- What a job has still to send leaves, as far as the window of 4,096 packets and the canary pass let it. -/
def State.sendOn : Nat → State → Nat → State
  | 0, s, _ => s
  | f + 1, s, id =>
    let j := s.job id
    match j.d with
    | .peer node a =>
      let n := min 4096 (pieceLen .none j.a j.pos (s.sendBound j))
      if j.fail.isSome || s.sendBound j ≤ j.pos || 4096 ≤ (s.tx node.toNat).unacked.length ||
          s.anyMoving j.part (j.a.pages j.len) || s.viewMoving j.a then s
      else
        let r : State × Except Exc (List Byte) :=
          if j.cv = 0 then match State.endRead s s j.part j.ka j.a j.pos n with
            | .ok (s1, b) => (s1, .ok b)
            | .error e => (s, .error e)
          else match s.endBytes j.part j.ka j.a j.len with
            | (s1, .ok b) => (s1, .ok (((cvBytes j.cv j.et j.h j.kk b).drop j.pos).take n))
            | (s1, .error e) => (s1, .error e)
        match r with
        | (s1, .error e) => s1.setJob id { j with fail := some e }
        | (s1, .ok b) =>
          let (s2, psn) := s1.sendNext node 0x01 0 (BitVec.ofNat 48 (a.toNat + j.pos)) j.part b
          State.sendOn f (s2.setJob id { j with pos := j.pos + n, psns := j.psns ++ [psn] }) id
    | _ => s

/-! Start and end. -/

/-- A job that its footprint edges hold (R446). -/
def State.heldJob (s : State) (j : Job) : Bool := j.memb.any fun m => s.members.any fun x => x.id = m && x.from_ != []
/-- R146: the STAMP that a tile destination takes at a job's start. -/
def State.jobStamp (s : State) (j : Job) : Word :=
  match j.a with
  | .tile h => match s.tileOf h with | some tk => (s.tile tk).stamp | none => j.stamp
  | _ => if j.stamp = 0 then s.dtime else j.stamp
/-- R454: the entry read again, once, at the job's start. -/
def State.boxStart (s : State) (j : Job) : State × Job :=
  match s.gvRead j.part (s.tensorAddr j.part j.tid) 128 with
  | .error e => (s, { j with fail := some (pageExc (s.tensorAddr j.part j.tid) e.exc) })
  | .ok (s1, b) =>
    let t := tensorOf (s.tensorAddr j.part j.tid) b
    let f : Option Exc :=
      if !t.v then some (exc 0x26 j.tid)
      else if t.bad then some (exc 0x01 t.addr.toNat)
      else if j.coords.length < t.rank then some (exc 0x05 (j.pre.headD 0).toNat 2)
      else if t.rank = 1 && j.bx1 != 1 then some (exc 0x51 j.pat.toNat)
      else if j.cv = 1 && 11 < t.etype then some (exc 0x18 t.etype)
      else none
    let f := if s.gvPoisoned j.part (s.tensorAddr j.part j.tid) 128 then some (exc 0x5B (s.tensorAddr j.part j.tid).toNat) else f
    (s1, { j with fail := j.fail.or f, pre := (List.range 16).map fun i => word (slice b (8 * i) 8) })
/-- R451: the queue's checks and the claim of an index. -/
def State.enqueueStart (s : State) (j : Job) : State × Job :=
  let q := j.qn
  if q = 0 || s.qstate q = 0 || !(s.owners q).contains j.part then (s, { j with fail := some (exc 0x5E q) })
  else
    let i := s.qcbField q 0 8
    (s.setQcb q 0 8 (i + 1), { j with pre := [word i] })
/-- R43: the header of a tile that a job names is poisoned. -/
def State.jobHurt (s : State) (j : Job) : Option Exc := if j.tiles.any s.tileHurt then some (exc 0x5B) else none
/-- R448, R226: the source that a job's start is to keep moves. -/
def State.keepMoves (s : State) (j : Job) : Bool := j.overlaps && (s.anyMoving j.part (s.srcPages j) || s.viewMoving j.a)
/-- R446: a job starts; a source that its destination overlaps is kept as it stands (R448), once it does not move. -/
def State.startJob (s : State) (id : Nat) : State :=
  if s.keepMoves (s.job id) then s
  else
  let j := { s.job id with st := .running, src := s.sourceNow (s.job id), fail := (s.job id).fail.or (s.jobHurt (s.job id)) }
  let s1 := match j.d with
    | .tile h => if j.dir then s else match s.tileOf h with
      | some tk => if (s.tile tk).st = TileSt.alloc then s.modTile tk fun t => { t with stamp := s.jobStamp j } else s
      | none => s
    | _ => s
  if j.fail.isSome then s1.setJob id j
  else match j.op, j.d with
  | .cpyt, _ => if s.gvMoving j.part (s.tensorAddr j.part j.tid) 128 then s else let x := s1.boxStart j; x.1.setJob id x.2
  | .cpyq, _ => let x := s1.enqueueStart j; x.1.setJob id x.2
  | _, .peer node _ =>
    if SMap.getD s1.net.route node.toNat [] = [] then s1.setJob id { j with fail := some (exc 0x2E node.toNat) }
    else State.sendOn 4096 (s1.setJob id j) id
  | _, _ => s1.setJob id j

/-- The oldest accepted job of a core that is not held, when the engine has a running place (R446). -/
def State.nextJob (s : State) (core : Nat) : Option Nat :=
  let l := s.jobsOn core
  if 4 ≤ (l.filter fun x => x.2.st = .running).length then none
  else (l.find? fun x => x.2.st = .accepted && !s.heldJob x.2).map (·.1)
def execDriftJobStart (core : Nat) (s : State) : Host.Outcome State Fault Refusal :=
  .next (match s.nextJob core with | some id => s.startJob id | none => s)

/-- What a running job comes to; `none` while it has to wait, also for what moves. -/
def State.runJob (s : State) (j : Job) : Option Ran :=
  if j.fut.any fun a => s.futMoving j.part a then none
  else match j.fail with
  | some e => some (s, .error e)
  | none =>
    if j.len = 0 then some (s, .ok 0)
    else if s.jobMoves j then none
    else match j.op, j.d with
      | .cpym, _ => if j.land = [] then some (s, .ok 0) else none
      | .cpyq, _ => if s.ringRoom j.qn (j.pre.headD 0).toNat then some (s.runEnqueue j) else none
      | .disc, _ => s.runDiscard j
      | _, .peer _ _ => if cvDst j.cv j.et j.h j.kk ≤ j.pos && j.psns = [] then some (s, .ok 0) else none
      | _, _ => some (s.runData j)

/-- R447 step 1: the tilec source consumed and the destination committed; 0x30 where no read is left. -/
def State.jobTiles (s : State) (j : Job) : (State × List Work) × Option Exc :=
  let src := match j.a with | .tile h => if j.tilec then s.tileOf h else none | _ => none
  match src with
  | some tk => if (s.tile tk).rem = 0 then ((s, []), some (exc 0x30 0 (match j.a with | .tile h => tinfoTile h | _ => 0)))
    else ((match j.d with
      | .tile h => if j.tc && !j.dir then (s.consumeNow tk 1).commitTile h else (s.consumeNow tk 1, [])
      | _ => (s.consumeNow tk 1, [])), none)
  | none => ((match j.d with | .tile h => if j.tc && !j.dir then s.commitTile h else (s, []) | _ => (s, [])), none)
/-- R447 step 2. A future that is not pending is an event; the COMPL of a COPY packet reports nothing (R365, R469). -/
def State.jobFuture (s : State) (j : Job) (failed : Bool) (v : Nat) : State × List Work :=
  match j.fut with
  | none => (s, [])
  | some a =>
    if j.op = .copy then s.agentSet j.part a failed v
    else match s.futSet j.part a failed v with
      | .ok r => r
      | .error e => (s.partEvent j.part (dieOf j.core) e.cause.toNat 0 j.core a 0, [])
/-- R439: the task that a name names, while it is WAITING. -/
def State.named (s : State) (n : Word) : Option Nat :=
  if n.toNat / 2 ^ 34 = 0 then (s.recordNamed n).filter fun t => (s.task t).st = .waiting else none
/-- R447 steps 2 to 5, and what the job held (R138, R152, R83). -/
def State.endJob (s : State) (id : Nat) (res : Except Exc Nat) : State × List Work :=
  let j := s.job id
  let x0 : (State × List Work) × Option Exc := match res with
    | .ok _ => s.jobTiles j
    | .error e => ((s, []), some e)
  let fail := x0.2
  let x1 := andThen x0.1 fun s => s.jobFuture j fail.isSome (match fail, res with
    | some e, _ => e.cause.toNat
    | none, .ok v => v
    | none, .error _ => 0)
  let x2 := andThen x1 fun s => (match fail with
    | some e => s.partEvent j.part (dieOf j.core) e.cause.toNat 0 j.core e.tval (j.fut.getD 0)
    | none => s, [])
  let x3 := andThen x2 fun s => (s, match j.tname.bind s.named with
    | some t => [if fail.isSome then .cancel t 0x5F true else .dec t]
    | none => [])
  andThen x3 fun s =>
    let s1 := if j.sgn = 0 then s else s.semAdd j.core j.sgi.toNat j.sgn.toNat
    let s2 := j.pinned.foldl State.unpin s1
    let s3 := j.tiles.foldl (fun s h => s.dropHold (.job id) h false) s2
    let y := s3.memberEnd j.memb
    let s4 := { y.1 with jobs := SMap.del y.1.jobs id }
    (if j.op = .copy then s4.packetDone j.qn j.img else s4, y.2)

/-- R159: landings that will not be written are freed. -/
def State.dropLandings (s : State) (id : Nat) : State × List Work :=
  forEach (s.job id).land s fun s x =>
    andThen (s.freeUncommitted x.2) fun s => (s.dropHold (.landing id x.1) x.2 true, [])

/-! The canary pass (R225). -/

/-- A page translated ahead of its data; a fault is an event. -/
def State.lookAt (s : State) (j : Job) (u : Use) (a : Word) : State :=
  match s.translate j.part a u with
  | .fault e => s.partEvent j.part (dieOf j.core) e.cause.toNat 0 j.core (word (a.toNat / 65536 * 65536)) 0
  | _ => s
/-- The pages of each end of a job, rising, as they are to be used. -/
def State.scoutPages (s : State) (j : Job) : List (Use × List Word) := [(.rd, s.srcPages j), (.wr, s.destPages j)]
/-- The pages on which a piece touches an end in GV. -/
def State.piecePages (s : State) (j : Job) (u : Use) (c : Piece) : List Word :=
  let at_ (v : View) (off : Nat) : List Word := match v with | .gv a => [a + word off] | _ => []
  let row (r : Nat) : List Word := match s.boxRow j (s.boxTensor j) r with | (_, .ok l) => l.map (·.1) | _ => []
  match c, u with
  | .move off _, .wr | .put off _, .wr => at_ j.d off
  | .move off _, _ => at_ j.a off
  | .get off _, .rd => at_ (if j.op = .cpyt then j.d else j.a) off
  | .rowIn r, .rd | .rowOut r, .wr => row r
  | _, _ => []
/-- How many pieces lie before the data reach a page of an end. -/
def State.piecesBefore (s : State) (j : Job) (u : Use) (a : Word) : Nat :=
  (j.pieces.findIdx? fun c => (s.piecePages j u c).any fun b => b.toNat / 65536 = a.toNat / 65536).getD 0
/-- The data of a job as the canary pass reaches page `m` of an end: up to the page that lies `n` pages behind (R225). The state, and
the job as it then is; `none` while something that the data touch moves. -/
def State.dataTo (s : State) (id : Nat) (u : Use) (l : List Word) (m : Nat) : Option State :=
  let j := s.job id
  if m ≤ j.scout then some s
  else if s.jobMoves j then none
  else match j.d with
    | .peer _ _ =>
      let s1 := State.sendOn 4096 s id
      if (s1.job id).fail.isNone && (s1.job id).pos < s1.sendBound (s1.job id) then none else some s1
    | _ =>
      let x := s.moveOver j (s.piecesBefore j u (l.getD (m - j.scout) 0))
      some (x.1.setJob id x.2)
/-- The canary pass reaches a page, if it is the next one of an end. -/
def State.scoutNext (s : State) (id page : Nat) : State :=
  (s.scoutPages (s.job id)).foldl (fun s x =>
    match (s.job id).scoutAt x.1 x.2 with
    | none => s
    | some m =>
      let a := x.2.getD m 0
      if a.toNat / 65536 != page then s
      else match s.dataTo id x.1 x.2 m with
        | none => s
        | some s1 =>
          let j := s1.job id
          if j.fail.isSome then s1 else (s1.lookAt j x.1 a).setJob id { j with scouted := scoutMark x.1 a :: j.scouted }) s
/-- The pages that the canary pass has still to reach, `n` pages ahead of where the data end. -/
def State.scoutRest (s : State) (j : Job) (r : Except Exc Nat) : State :=
  if j.scout = 0 || j.fail.isSome then s
  else (s.scoutPages j).foldl (fun s x =>
    let upTo := match r with
      | .ok _ => x.2.length
      | .error e => (((s.scoutPages j).filterMap fun y => y.2.findIdx? fun a => a.toNat / 65536 = e.tval.toNat / 65536).headD 0) + 1 + j.scout
    ((x.2.take upTo).filter fun a => !j.scouted.contains (scoutMark x.1 a)).foldl (fun s a => s.lookAt j x.1 a) s) s
def execCanaryPass (id page : Nat) (s : State) : Host.Outcome State Fault Refusal :=
  let j := s.job id
  if j.st != .running || j.scout = 0 || j.fail.isSome || !(SMap.get? s.jobs id).isSome then .next s
  else .next (s.scoutNext id page)

/-- A job to a peer sends all that it can: where the canary pass holds it, the pass goes on, a page at a time (R225). -/
def State.sendAll (s : State) (id : Nat) : State :=
  let go (s : State) : State :=
    let s1 := State.sendOn 4096 s id
    let j := s1.job id
    match j.d, j.scoutAt .rd (s1.srcPages j) with
    | .peer _ _, some m => if j.fail.isSome || j.scout = 0 || j.pos < s1.sendBound j then s1 else s1.scoutNext id (((s1.srcPages j).getD m 0).toNat / 65536)
    | _, _ => s1
  (List.range (s.srcPages (s.job id)).length).foldl (fun s _ => go s) (go s)
def execDriftJobEnd (id : Nat) (s : State) : Host.Outcome State Fault Refusal :=
  match SMap.get? s.jobs id with
  | none => .next s
  | some j =>
    if j.st != .running then .next s
    else
      let s0 := s.sendAll id
      match s0.runJob (s0.job id) with
      | none => .next s0
      | some (s1, r) =>
        let (s2, r2) := ((s0.scoutRest (s0.job id) r).runJob (s0.job id)).getD (s1, r)
        .next (State.work (andThen (if r2.toOption.isNone then s2.dropLandings id else (s2, [])) fun s => s.endJob id r2))

/-! Landings (R159). -/

/-- The live instance of a job's gang on a core. -/
def State.instanceOn (s : State) (j : Job) (core : Nat) : Option Nat :=
  j.gang.bind fun g => ((s.gangPairs g).find? (·.2 = core)).map (·.1)
/-- One landing delivered: committed, its hold passed to the instance on its core, its handle stored and signalled; or
abandoned where that instance is no more. -/
def State.deliver (s : State) (id : Nat) (j : Job) (x : Nat × BitVec 32) : State × List Work :=
  andThen (s.commitTile x.2) fun s =>
    match s.instanceOn j x.1 with
    | none => (s.dropHold (.landing id x.1) x.2 true, [])
    | some t =>
      let s1 := s.passHold (.landing id x.1) (.task t)
      ((s1.store (lsKey x.1 j.dstLs) (leBytes 4 x.2.toNat)).semAdd x.1 j.rsi.toNat 1, [])
def State.land (s : State) (id : Nat) (j : Job) : State :=
  let h := match j.a with | .tile h => h | _ => 0
  let tk := (s.tileOf h).getD 0
  let n := (s.tile tk).pg * 2048
  if (h :: j.land.map (·.2)).any fun h => s.viewMoving (.tile h) then s
  else match s.viewRead (.tile h) 0 n with
  | none => s.setJob id { j with fail := some (exc 0x5B (((List.range n).find? fun o => s.poisoned (s.tileByte tk o) 1).getD 0)) }
  | some b =>
    let s1 := j.land.foldl (fun s x => s.viewWrite (.tile x.2) 0 b) s
    let y := forEach j.land s1 fun s x => s.deliver id j x
    State.work (andThen y fun s =>
      if (s.tile tk).rem = 0 then (s.setJob id { j with land := [], fail := some (exc 0x30 0 (tinfoTile h)) }, [])
      else ((s.consumeNow tk 1).setJob id { j with land := [] }, []))
def execLandingComplete (id : Nat) (s : State) : Host.Outcome State Fault Refusal :=
  match SMap.get? s.jobs id with
  | none => .next s
  | some j => .next (if j.st = .running && j.land != [] && j.fail.isNone then s.land id j else s)

/-! Commands that wait (R446, R158). -/

/-- A drift command. -/
def isDrift (i : Instr) : Bool :=
  match i with
  | .cpy _ _ _ | .cpym _ _ _ | .cpyq _ _ _ | .fill _ _ _ | .disc _ _ _ | .cpyt _ _ _ => true
  | _ => false
/-- A context's blocked instruction made again, when it satisfies `p`; `run` gives its meaning. -/
def State.again (s : State) (key : Nat) (p : Instr → Bool) (run : Instr → State → Host.Outcome State Fault Refusal) : State :=
  let s0 := { s with cur := key }
  match fetch s0 with
  | .error _ => s
  | .ok (i, s1) =>
    if !p i then s
    else if s1.hurt key i then { s1.hurtTrap key i with cur := s.cur }
    else match run i s1 with
      | .next s2 => { s2 with cur := s.cur }
      | _ => s
def runDrift (i : Instr) (s : State) : Host.Outcome State Fault Refusal :=
  match i with
  | .cpy q y o => execCpy q y o s
  | .cpym q y o => execCpym q y o s
  | .cpyq q y o => execCpyq q y o s
  | .fill q y o => execFill q y o s
  | .disc q y o => execDisc q y o s
  | .cpyt q y o => execCpyt q y o s
  | _ => .next s
/-- The contexts of a core that wait at an instruction. -/
def State.waiting (s : State) (core : Nat) : List Nat :=
  (slotsOf core).filter fun k => ((s.ctx k).slot = .run || (s.ctx k).slot = .res) && (s.ctx k).stall.isSome && !(s.ctx k).ending &&
    (s.ctx k).stall != some .cancelled
/-- The commands of a core that wait are tried again, until one changes the state. -/
def State.retryOn (s : State) (core : Nat) (p : Instr → Bool) (run : Instr → State → Host.Outcome State Fault Refusal) : State :=
  (((s.waiting core).map fun k => s.again k p run).find? (· != s)).getD s

def execDriftAccept (core : Nat) (s : State) : Host.Outcome State Fault Refusal := .next (s.retryOn core isDrift runDrift)
def execMulticastGrant (core : Nat) (s : State) : Host.Outcome State Fault Refusal :=
  .next (s.retryOn core (fun i => match i with | .cpym _ _ _ => true | _ => false) runDrift)

end Sys2Proof.Machine
end

