-- ==== Sys2Proof/Machine/Pumps.lean ====
section
/-! DEFINITION. The steps of stream pumps: a loader's slice (R170), a storer's (R171, R223), and the retry of a stalled one
(R223, R227). -/

namespace Sys2Proof.Machine
open Sys2Proof

/-! The elements of a slice, in the order of the tensor's layout (R164, R221): by tile, and in a tile with axis 0 fastest. -/

/-- The tuples whose places lie in the given ranges, the first place fastest. -/
def tuples : List (Nat × Nat) → List (List Nat)
  | [] => [[]]
  | (a, b) :: r => (tuples r).flatMap fun t => (List.range (b - a)).map fun i => (a + i) :: t
/-- The range of a coordinate in slice `k`. -/
def Tensor.span (t : Tensor) (k i : Nat) : Nat × Nat := if i = t.oax then (k * t.sext, (k + 1) * t.sext) else (0, t.ext.getD i 0)
/-- The grid tiles that slice `k` touches, each as the list of its elements' coordinates. -/
def Tensor.sliceTiles (t : Tensor) (k : Nat) : List (List (List Nat)) :=
  let sz (i : Nat) := 2 ^ t.tsh.getD i 0
  (tuples (t.axes.map fun i => let x := t.span k i; (x.1 / sz i, (x.2 + sz i - 1) / sz i))).map fun g =>
    tuples ((List.range t.rank).map fun i =>
      let x := t.span k i
      let n := g.getD (t.axes.idxOf i) 0
      (max x.1 (n * sz i), min x.2 ((n + 1) * sz i)))

/-! Poison that a pump meets (R43): a device event with the physical location; the poison travels on. -/

/-- The stack of a device physical address, or the core or die of another key. -/
def sourceId (k : Nat) : Nat :=
  if k < 2 ^ 39 then 2 * (k / 2 ^ 37) + k / 256 % 2
  else if 2 ^ 66 ≤ k then (k - 2 ^ 66) / 2 ^ 27 else (k - 2 ^ 65) / 2 ^ 20
def physical (k : Nat) : Word := if k < 2 ^ 65 then word k else word (localVal 1 k)
/-- `n` bytes copied from key `a` to key `b`, the poison among them with them. -/
def State.poisonTo (s : State) (p a b n : Nat) : State :=
  match s.poison.filter fun x => a ≤ x && x < a + n with
  | [] => s
  | l => ({ s with poison := s.poison ++ (l.map fun x => b + (x - a)).filter fun x => !s.poison.contains x } : State).devEvent
      0x5B 3 p (sourceId a) (physical (l.headD 0)) 0

/-! Both kinds. -/

def State.setSub (s : State) (key : Nat) (x : Sub) : State := { s with subs := SMap.put s.subs key x }
/-- A subscription ends. -/
def State.endSub (s : State) (key : Nat) (x : Sub) : State :=
  let w := if x.loader then Holder.loader key else Holder.storer key
  let s1 := (s.heldBy w).foldl (fun s h => s.dropHold w h true) s
  { s1 with subs := SMap.del s1.subs key, reqs := s1.reqs.filter (·.who != ReqWho.loader key) }
/-- A stalled subscription: a partition event for each fault that it meets, then a try every 65,536 bclk. -/
def State.pumpStall (s : State) (key : Nat) (e : Exc) : State :=
  match SMap.get? s.subs key with
  | none => s
  | some x =>
    let s1 := if x.told = some e then s else s.partEvent x.part x.die e.cause.toNat 0 x.core e.tval e.tinfo
    s1.setSub key { x with retry := some (s.bclk + 65536), told := some e }
/-- A translation's answer: a page under migration keeps the step from happening. -/
def State.pumpTr (s : State) (key : Nat) : Tr → State
  | .fault e => s.pumpStall key e
  | _ => s

/-! Loaders. -/

/-- One element of a slice: its value, and its key when it is poisoned. -/
def State.loadElem (s : State) (p tid : Nat) (t : Tensor) (c : List Nat) : Except Tr (State × Nat × Option Nat) :=
  match s.elemAddr p tid t c with
  | .error e => .error e
  | .ok (s0, a, b) =>
    let w := etypeBits t.etype
    match s0.mapRange p a ((w + 7) / 8) .rd true with
    | .error e => .error e
    | .ok (s1, ps) =>
      let bs := ps.flatMap fun x => if x.2.2.2 then List.replicate x.2.2.1 0 else Mem.readL s.mem x.2.1 x.2.2.1
      .ok (s1, leNat bs / 2 ^ b % 2 ^ w,
        (ps.find? fun x => !x.2.2.2 && s.poisoned x.2.1 x.2.2.1).map fun x => x.2.1)
/-- The elements of a slice in order. -/
def State.loadSlice (s : State) (p tid : Nat) (t : Tensor) (k : Nat) : Except Tr (State × List (Nat × Option Nat)) :=
  (t.sliceTiles k).flatten.foldlM (fun (x : State × List (Nat × Option Nat)) c =>
    match x.1.loadElem p tid t c with
    | .error e => .error e
    | .ok (s1, v, k) => .ok (s1, x.2 ++ [(v, k)])) (s, [])

/-- The slice arrives in the granted tile and becomes slice NEXT of S. -/
def State.loaded (s : State) (key : Nat) (x : Sub) (t : Tensor) (h : BitVec 32) : State :=
  match s.tileOf h with
  | none => s.setSub key { x with grant := none }
  | some tk =>
    let n := (s.stream x.part x.dst).next
    if (s.tile tk).moving then s
    else if (s.tile tk).pg * 2048 < max t.sliceBytes (s.sliceBytesOf x.part x.dst) then s.pumpStall key (exc 0x47 x.dst n)
    else match ((s.sliceCheck x.part x.dst n 0).map fun e => { e with tval := word x.dst, tinfo := word n }).or
        (s.holdsFault x.part x.dst n h) with
      | some e => s.pumpStall key e
      | none =>
        match (s.readTensor x.part x.dst).loadSlice x.part x.src t x.pos with
        | .error e => s.pumpTr key e
        | .ok (s1, vs) =>
          let w := etypeBits t.etype
          let stamp : Except Tr (State × Option Word) :=
            if t.sstamp = 0 then .ok (s1, none)
            else match s1.gvRead x.part (t.sstamp + word (8 * x.pos)) 8 true with
              | .ok (s2, b) => .ok (s2, some (word (leNat b)))
              | .error e => .error e
          match stamp with
          | .error e => s.pumpTr key e
          | .ok (s2, st) =>
            let s3 := s2.tileWrite tk 0 (packBits w (vs.map (·.1)))
            let s4 := ((List.range vs.length).zip vs).foldl (fun s y => match y.2.2 with
              | some k => s.poisonTo x.part k (s.tileByte tk (y.1 * w / 8)) ((w + 7) / 8)
              | none => s) s3
            let s5 := match st with
              | some v => s4.modTile tk fun t => { t with stamp := v }
              | none => s4
            State.work (andThen (s5.commitSlice x.part x.dst n h) fun s =>
              ((s.dropHold (.loader key) h false).setSub key { x with pos := x.pos + 1, grant := none, told := none }, []))

/-- A loader's step (R170). -/
def State.loaderStep (s : State) (key : Nat) : State :=
  match SMap.get? s.subs key with
  | none => s
  | some x =>
    if !x.loader || x.retry.isSome then s
    else match s.tensorFor x.part x.src with
      | .error e => s.pumpTr key e
      | .ok (s, t) =>
        if t.eosv && t.eosi ≤ x.pos then State.work (andThen (s.commitEos x.part x.dst) fun s => (s.endSub key x, []))
        else if t.stored ≤ x.pos then s
        else match x.grant with
          | some h => s.loaded key x t h
          | none =>
            let pool := if x.lvl = 2 then 576 + x.die else x.core
            let cap := (s.quota pool x.part).c
            if s.reqs.any (·.who = ReqWho.loader key) then s
            else if cap = 0 then s.pumpStall key (exc 0x3B x.lvl)
            else if cap < x.pg then s.pumpStall key (exc 0x35 (x.pg * 2 ^ 32 + (if pool < 576 then pool else 2 ^ 15 + x.die)))
            else { s with reqs := s.reqs ++ [⟨pool, x.part, x.pg, s.dtime.toNat, x.core, .loader key⟩] }
def execLoaderSlice (key : Nat) (s : State) : Host.Outcome State Fault Refusal := .next (s.loaderStep key)

/-! Storers. -/

/-- One element written into the tensor's frames; a byte of which it is a part keeps its poison. -/
def State.storeElem (s : State) (p tid : Nat) (t : Tensor) (src : Nat) (c : List Nat) (v : Nat) : Except Tr State :=
  match s.elemAddr p tid t c false with
  | .error e => .error e
  | .ok (s0, a, b) =>
    let w := etypeBits t.etype
    match s0.mapRange p a ((w + 7) / 8) .wr true with
    | .error e => .error e
    | .ok (s1, ps) =>
      let k := (ps.map fun x => x.2.1).headD 0
      if 8 ≤ w then .ok ((s1.store k (leBytes (w / 8) v)).poisonTo p src k (w / 8))
      else .ok (({ s1 with mem := Mem.write s1.mem k (BitVec.ofNat 8 (insertField (Mem.read s1.mem k).toNat b w v)) } : State).poisonTo
        p src k 1)
/-- One grid tile of a slice: its elements written, then its V set; 0x25 where no frame has been supplied. -/
def State.storeTile (s : State) (p tid : Nat) (t : Tensor) (tk : Nat) (els : List (Nat × List Nat)) : Except Tr State :=
  let n := t.tileNo ((els.headD (0, [])).2)
  let ta := t.ttab + word (8 * n)
  if t.ntt ≤ n then .error (.fault (exc 0x25 tid n))
  else match s.gvRead p ta 8 true with
    | .error e => .error e
    | .ok (s1, b) =>
      if !bit (leNat b) 1 then .error (.fault (exc 0x25 tid n))
      else
        let w := etypeBits t.etype
        match els.foldlM (fun s x =>
          State.storeElem s p tid t (s.tileByte tk (x.1 * w / 8)) x.2
            (leNat (s.tileRead tk (x.1 * w / 8) ((w + 7) / 8)) / 2 ^ (x.1 * w % 8) % 2 ^ w)) s1 with
        | .error e => .error e
        | .ok s2 => s2.gvWrite p ta (leBytes 1 (leNat (b.take 1) / 2 * 2 + 1)) true
/-- The elements of a slice numbered, grid tile by grid tile. -/
def numbered : Nat → List (List (List Nat)) → List (List (Nat × List Nat))
  | _, [] => []
  | n, l :: r => ((List.range l.length).map (n + ·)).zip l :: numbered (n + l.length) r
/-- Grid tile by grid tile until one cannot be written; what was written stands. -/
def State.storeTiles (s : State) (p tid : Nat) (t : Tensor) (tk : Nat) : List (List (Nat × List Nat)) → State × Option Tr
  | [] => (s, none)
  | l :: r =>
    if l = [] then State.storeTiles s p tid t tk r
    else match s.storeTile p tid t tk l with
      | .error e => (s, some e)
      | .ok s1 => State.storeTiles s1 p tid t tk r

/-- R171 steps 2 to 5. -/
def State.storeSlice (s : State) (key : Nat) (x : Sub) (t : Tensor) (h : BitVec 32) (tk : Nat) : State :=
  match s.storeTiles x.part x.src t tk (numbered 0 (t.sliceTiles x.pos)) with
  | (s1, some e) => s1.pumpTr key e
  | (s1, none) =>
    let stamped := if t.sstamp = 0 then .ok s1
      else s1.gvWrite x.part (t.sstamp + word (8 * x.pos)) (leBytes 8 (s.tile tk).stamp.toNat) true
    match stamped with
    | .error e => s1.pumpTr key e
    | .ok s2 =>
      match s2.gvWrite x.part (t.addr + 0x38) (leBytes 6 (x.pos + 1)) true with
      | .error e => s2.pumpTr key e
      | .ok s3 =>
        let s4 := if (s3.tile tk).rem = 0 then s3.partEvent x.part x.die 0x30 0 x.core 0 (word (tinfoTile h)) else s3.consumeNow tk 1
        (s4.dropHold (.storer key) h false).setSub key { x with pos := x.pos + 1, told := none }
/-- End-of-stream recorded in the tensor's entry. -/
def State.storeEos (s : State) (key : Nat) (x : Sub) (t : Tensor) (e : Nat) : State :=
  match s.gvWrite x.part (t.addr + 0x40) (leBytes 6 e) true with
  | .error y => s.pumpTr key y
  | .ok s1 =>
    let f := match s.gvRead x.part t.addr 1 with | .ok (_, b) => leNat b | .error _ => 0
    match (s1.markRead x.part t.addr 1).gvWrite x.part t.addr (leBytes 1 (insertField f 2 1 1)) true with
    | .error y => s1.pumpTr key y
    | .ok s2 => s2.endSub key x

/-- A storer's step (R171); at a slice that has been freed it waits (log entry 37). -/
def State.storerStep (s : State) (key : Nat) : State :=
  match SMap.get? s.subs key with
  | none => s
  | some x =>
    let st := s.stream x.part x.src
    if x.loader || x.retry.isSome then s
    else match (SMap.get? st.slices x.pos).bind (fun h => (s.tileOf h).map fun tk => (h, tk)), st.eosx with
      | some (h, tk), _ =>
        if (s.tile tk).moving || st.next ≤ x.pos then s
        else match s.tensorFor x.part x.src with
          | .error e => s.pumpTr key e
          | .ok (s, t) => s.storeSlice key x t h tk
      | none, some e =>
        if x.pos < e then s
        else match s.tensorFor x.part x.src with
          | .error y => s.pumpTr key y
          | .ok (s, t) => s.storeEos key x t e
      | none, none => s
def execStorerSlice (key : Nat) (s : State) : Host.Outcome State Fault Refusal := .next (s.storerStep key)

/-- A stalled subscription tries again. -/
def State.pumpAgain (s : State) (key : Nat) : State :=
  match SMap.get? s.subs key with
  | none => s
  | some x =>
    match x.retry with
    | none => s
    | some b =>
      if s.bclk < b then s
      else
        let s1 := s.setSub key { x with retry := none }
        if x.loader then s1.loaderStep key else s1.storerStep key
def execPumpRetry (key : Nat) (s : State) : Host.Outcome State Fault Refusal := .next (s.pumpAgain key)

end Sys2Proof.Machine
end

