-- ==== Sys2Proof/Machine/Grants.lean ====
section
/-! DEFINITION. The steps of the pools and of waits: grants (R142), deadlock (R160, R161), moves of tiles (R61, R81, R149), and
the waits on semaphores, lines and barriers (R107, R356, R362). -/

namespace Sys2Proof.Machine
open Sys2Proof

/-! Tiles that move to a die pool (R61 step 4, R81, R149, R162). -/

/-- A tile starts to move. -/
def State.startTileMove (s : State) (tk die : Nat) : State :=
  if (s.tile tk).moving then s
  else { s.modTile tk fun t => { t with moving := true } with tileMoves := s.tileMoves ++ [⟨tk, die⟩] }
/-- The move of an input tile joins the FIFO of the pool that it goes to, like any producer (R81, R142). -/
def State.startInputMove (s : State) (tk die : Nat) : State :=
  if (s.tile tk).moving then s
  else
    let t := s.tile tk
    let s1 := s.startTileMove tk die
    { s1 with reqs := s1.reqs ++ [⟨576 + die, t.part, t.pg, s.dtime.toNat, die * 144, .move tk⟩] }
/-- R81: the inputs of a task that lie outside its home; with all of them there, the task becomes READY on its home's die as soon
as a record is free there. -/
def State.moveInputs (s : State) (t : Nat) : State :=
  let x := s.task t
  let home := s.homeOf x
  let die := home.dieOr x.die
  if x.st != .waiting || x.live != 0 || !x.lead || !x.ins.all (fun y => match s.tileOf y.2 with
      | some tk => (s.tile tk).st != .alloc
      | none => true) then s
  else State.work (x.ins.foldl (fun s y => match s.tileOf y.2 with
    | some tk => if inHome home (tk / 8192) then s else s.startInputMove tk die
    | none => s) s, [.ready t])
def execInputHomeMove (t : Nat) (s : State) : Host.Outcome State Fault Refusal := .next (s.moveInputs t)

/-- The tile at `key` in a die pool, with its bytes and its header; its handles lead there from now on. -/
def State.moveTile (s : State) (key pool : Nat) : State :=
  let t := s.tile key
  let live := s.tilesIn pool
  let (sl, s1) := s.pick ((List.range 8192).filter fun i => !live.any fun x => x.1 = pool * 8192 + i)
  let used := live.flatMap fun x => x.2.pmap.take x.2.pg
  let (pgs, s2) := s1.pickN ((List.range 8192).filter fun i => !used.contains i) t.pg
  let new := pool * 8192 + sl.getD 0
  let old := s.tile new
  let gen := if old.gen = 2047 then 1 else old.gen + 1
  let bytes := s.tileRead key 0 (t.pg * 2048)
  let bad := (List.range (t.pg * 2048)).filter fun i => s.poison.contains (s.tileByte key i)
  let names := (handlesOf (key / 8192) (key % 8192) t.gen).map (·.toNat) ++
    (s.moved.filter fun x => x.2 = key * 2048 + t.gen).map (·.1)
  let s3 : State := { s2 with
    tiles := SMap.put (SMap.put s2.tiles new { t with gen := gen, pmap := pgs, moving := false }) key { Tile.empty with gen := t.gen }
    pages := pgs.foldl (fun m g => SMap.put m (pool * 8192 + g) (t.part + 1)) s2.pages
    holds := s2.holds.filter fun x => !(handlesOf pool (new % 8192) gen).contains x.2
    streams := staleSlices (handlesOf pool (new % 8192) gen) s2.streams
    moved := names.foldl (fun m h => SMap.put m h (new * 2048 + gen))
      ((handlesOf pool (new % 8192) gen).foldl (fun m h => SMap.del m h.toNat) s2.moved) }
  let s4 := s3.tileWrite new 0 bytes
  { s4 with poison := s4.poison ++ bad.map (s4.tileByte new) }

/-- R61 step 4 needs free pages within the cap; R81 waits for its turn in the FIFO like any producer. -/
def State.moveFits (s : State) (m : TileMove) : Bool :=
  let t := s.tile m.key
  let pool := 576 + m.die
  if s.moves.any (·.tiles.contains m.key) then s.usedBy pool t.part + t.pg ≤ (s.quota pool t.part).c && t.pg ≤ s.freePages pool
  else match s.reqs.find? fun r => r.who = .move m.key with
    | some r => s.mayGrant r
    | none => s.grantable pool t.part t.pg

/-! A cluster passes to another partition (R61, R62, R63, R106, R140, R162). -/

/-- The cluster's local stores and lane slices zero, its semaphores too when a partition receives it (R63, R106), its quotas those
of R140. -/
def State.passCluster (s : State) (c : Nat) (dest : Option Nat) : State :=
  let lo := lsKey (c * 12) 0
  let lx := lxKey (c * 48) 0 0
  let inC (k : Nat) : Bool := c * 12 ≤ k && k < c * 12 + 12
  let quotas := s.quotas.filter fun x => !inC (x.1 / 8)
  let pool (p : Nat) : Nat := Mem.readN s.mem ((s.part p).desc + 92) 2
  let own := match dest with | some p => SMap.put s.clusters c (pool p * 16 + p + 1) | none => SMap.del s.clusters c
  { s with
    clusters := own
    mem := Mem.clear (Mem.clear s.mem lo (12 * 2 ^ 20)) lx (48 * 2 ^ 17)
    poison := s.poison.filter fun k => (k < lo || lo + 12 * 2 ^ 20 ≤ k) && (k < lx || lx + 48 * 2 ^ 17 ≤ k)
    sems := if dest.isSome then s.sems.filter fun x => !inC (x.1 / 256) else s.sems
    pages := s.pages.filter fun x => !inC (x.1 / 8192)
    watch := s.watch.filter fun x => !inC (coreOf x.1)
    quotas := match dest with
      | some p => (coresOf c).foldl (fun m k => SMap.put m (k * 8 + p) ⟨pool p, pool p⟩) quotas
      | none => quotas }

/-- A COMPL of a packet, and the packet is complete (R53). -/
def State.packetEnd (s : State) (q i p : Nat) (compl : Word) (failed : Bool) (v : Nat) : State :=
  State.work ((s.packetDone q i), [.resolve p compl failed v])

/-- R61 step 2: the contexts and keepers that the partition still has in the cluster leave their slots. Those of one gang leave
together, into one reserved slot each. -/
def State.moveSaves (s : State) (m : Move) : State :=
  (coresOf m.cluster).flatMap slotsOf |>.foldl (fun s key =>
    let c := s.ctx key
    if !c.inSlot || c.part != m.from_ then s
    else match c.keeper with
      | some id => s.saveKeeper id
      | none =>
        let n := (((s.instances c.task).filterMap s.slotOfTask).filter fun k =>
          (s.ctx k).inSlot && clusterOf (coreOf k) = m.cluster).length
        let free := { s with moves := s.moves.map fun x => if x.cluster = m.cluster then { x with slots := x.slots.drop n } else x }
        (State.preempt free key).getD s) s
/-- R61 step 3: the tiles of the partition in the cluster's pools. -/
def State.clusterTiles (s : State) (p c : Nat) : List (Nat × Tile) :=
  s.tiles.filter fun x => clusterOf (x.1 / 8192) = c && x.1 / 8192 < 576 && x.2.part = p && x.2.st != .free
def State.setMove (s : State) (m : Move) : State := { s with moves := s.moves.map fun x => if x.cluster = m.cluster then m else x }
def State.dropMove (s : State) (m : Move) : State := { s with moves := s.moves.filter (·.cluster != m.cluster) }
/-- What waits in the Pithead of a die on which its partition owns no cluster any more waits on another one. -/
def State.rehome (s : State) (p : Nat) : State :=
  { s with pithead := s.pithead.map fun e => if e.part = p then { e with die := s.liveDie p e.die } else e }
/-- The move comes to its end: step 5. What waits of the old owner goes where it still owns cores. -/
def State.endMove (s : State) (m : Move) : State :=
  (((s.dropMove m).passCluster m.cluster (if m.dest < 8 then some m.dest else none)).rehome m.from_).packetEnd m.q m.idx 8 m.compl false 0
/-- A move goes on as far as it can (R61 steps 2 to 5). -/
def State.moveOn (s : State) (m : Move) : State :=
  if m.tiles != [] then s
  else
    let s1 := s.moveSaves m
    if ((coresOf m.cluster).flatMap slotsOf).any fun k => (s1.ctx k).slot != .free && (s1.ctx k).part = m.from_ then s1
    else
      let l := s1.clusterTiles m.from_ m.cluster
      let n := l.foldl (fun n x => n + x.2.pg) 0
      let die := m.cluster / 12
      let pool := 576 + die
      if min (s1.freePages pool) ((s1.quota pool m.from_).c - s1.usedBy pool m.from_) < n then
        (s1.dropMove m).packetEnd m.q m.idx 8 m.compl true 0x35
      else if l = [] then s1.endMove m
      else l.foldl (fun s x => s.startTileMove x.1 die) (s1.setMove { m with tiles := l.map (·.1), slots := [] })
/-- Every move goes on. -/
def State.movesOn (s : State) : State := s.moves.foldl State.moveOn s

/-- What stalled at a page under migration (R226) or at a tile on its way (R149), made again. -/
def State.heldOne (s : State) : Held → State × List Work
  | .resolve p a f v => s.agentSet p a f v
  | .event p die cause kind srcid i0 i1 time => (s.eventAt p die cause kind srcid i0 i1 time, [])
  | .wake f v w => s.wake f v w
  | .ruleEnd o k => s.endRule o k
/-- All of it in its order, and then the cancellations that wait; what meets another such page or tile stalls again. -/
def State.heldOn (s : State) : State :=
  let s1 := s.held.foldl (fun s h => State.work (s.heldOne h)) { s with held := [] }
  State.work (s1, s1.tasks.filterMap fun x => x.2.pend.map fun c => .cancel x.1 c.1 c.2)
/-- A tile arrives; a task that waited for it may be READY, what stalled at it is made, a cancellation among it, and a move of its
cluster goes on. -/
def State.tileMoved (s : State) (m : TileMove) : State :=
  let t := s.tile m.key
  let done (s : State) : State :=
    let s1 := { s with tileMoves := s.tileMoves.filter (· != m), reqs := s.reqs.filter (·.who != ReqWho.move m.key) }
    match s1.moves.find? (·.tiles.contains m.key) with
    | none => s1
    | some x =>
      let x' := { x with tiles := x.tiles.filter (· != m.key) }
      if x'.tiles = [] then s1.endMove x' else s1.setMove x'
  if t.st = .free then done (s.modTile m.key fun t => { t with moving := false })
  else if !s.moveFits m then s
  else
    let s1 := done (s.moveTile m.key (576 + m.die))
    State.heldOn (State.work (s1, s1.tasks.filterMap fun x => if x.2.st = .waiting then some (.ready x.1) else none))
def execTileMoveComplete (key : Nat) (s : State) : Host.Outcome State Fault Refusal :=
  .next (match s.tileMoves.find? (·.key = key) with
    | some m => s.tileMoved m
    | none => s)

/-! Grants (R142, R145, R170, R177). -/

/-- The instructions that wait for pages. -/
def isAlloc (i : Instr) : Bool :=
  match i with
  | .talloc _ _ | .cpym _ _ _ => true
  | _ => false
def runAlloc (i : Instr) (s : State) : Host.Outcome State Fault Refusal :=
  match i with
  | .talloc q o => execTalloc q o s
  | .cpym q y o => execCpym q y o s
  | _ => .next s

/-- One request that its pool may grant. A rule that no longer meets R177 withdraws its request. -/
def State.grantOne (s : State) (r : Req) : State :=
  let s1 := { s with reqs := s.reqs.filter (· != r) }
  match r.who with
  | .ctx key => if (s.waiting (coreOf key)).contains key then s.again key isAlloc runAlloc else s
  | .loader key =>
    match SMap.get? s.subs key with
    | none => s1
    | some x =>
      let (s2, h) := s1.allocTile r.pool x.lvl x.part x.pg x.rds s.dtime (.pump key)
        (ownerWord 1 (x.die * 65536 + x.idx)) (.loader key)
      s2.setSub key { x with grant := some h }
  | .rule o k =>
    match SMap.get? (s.rulesOf o) k with
    | none => s1
    | some x =>
      if x.st != .armed || !s.ruleReady o k x then s1
      else
        let (s2, h) := s1.allocTile r.pool (x.outf.toNat / 2 ^ 30) r.part r.n (x.outf.toNat % 4096)
          (s.inputStamp r.part x) (.rule o k) (ruleOwnerWord (x.home / 4) (x.home % 4) k) (.rule o k)
        s2.setRules o (SMap.put (s2.rulesOf o) k { x with rslt := h })
  | .move key => match s.tileMoves.find? (·.key = key) with
    | some m => s.tileMoved m
    | none => s1

/-- R142: the oldest request of every partition, oldest first; each that is grantable is granted. -/
def State.grantHeads (s : State) (pool : Nat) : State :=
  (s.heads pool).foldl (fun s r => if s.reqs.contains r && s.allFit r then s.grantOne r else s) s
def execAllocationGrant (pool : Nat) (s : State) : Host.Outcome State Fault Refusal :=
  let s1 := s.grantHeads pool
  .next { s1 with shared := s1.shared.map fun l => pool :: l }

/-! Deadlock (R160, R161). -/

/-- R160 condition 1 for one context. -/
def State.blockedCtx (s : State) (key : Nat) : Bool :=
  let c := s.ctx key
  match c.stall with
  | some .alloc => !s.reqs.any (·.who = .ctx key) || s.reqs.any fun r => r.who = .ctx key && !s.mayGrant r
  | some .record | some .pump => true
  | some (.rsyn k n) => !s.waitOver key (.rsyn k n)
  | some (.sem i n) => !s.waitOver key (.sem i n)
  | some (.bar p) => !s.waitOver key (.bar p)
  | some (.barw p t) => !s.waitOver key (.barw p t)
  | some (.mon l t) => (SMap.keys s.ctxs).contains key && s.watch.contains (key, l) && !s.passedLimit t
  | _ => false
/-- R160 condition 2, R169, R440: a wait for pages, for a subscription or for a task record. -/
def Stall.allocates : Stall → Bool
  | .alloc | .record | .pump => true
  | _ => false
/-- A rule that fires, or can. -/
def State.canFire (s : State) (o : RuleOwner) (k : Nat) (r : Rule) : Bool :=
  r.st = .firing || (r.st = .armed && s.ruleReady o k r &&
    (r.supplied || !(s.reqs.any fun q => q.who = .rule o k && !s.mayGrant q)))
/-- A subscription that can move a slice. -/
def State.canMove (s : State) (key : Nat) (x : Sub) : Bool :=
  x.retry.isNone && if x.loader then
    match s.tensor x.part x.src with
    | some t => (t.eosv && t.eosi ≤ x.pos) || (x.pos < t.stored && (x.grant.isSome ||
        !(s.reqs.any fun q => q.who = .loader key && !s.mayGrant q)))
    | none => true
  else
    let st := s.stream x.part x.src
    x.pos < st.next || match st.eosx with | some e => e ≤ x.pos | none => false
/-- A queue of the partition that has work left (R160 condition 5). -/
def State.queueBusy (s : State) (p : Nat) : Bool :=
  s.qs.any fun x => (s.owners x.1).contains p && (x.2.taken.isSome || x.2.open_ != [] ||
    s.qcbField x.1 0 8 != s.qcbField x.1 0x80 8)
/-- R160: the conditions that must hold together. -/
def State.deadNow (s : State) (p die : Nat) : Bool :=
  let cs := s.ctxs.filter fun x => x.2.slot != .free && x.2.part = p && dieOf (coreOf x.1) = die
  let here := cs.filter (·.2.keeper.isNone)
  here.all (fun x => x.2.inSlot && s.blockedCtx x.1) && here.any (fun x => x.2.stall.any Stall.allocates) && (s.tryDispatch p die).isNone &&
  !(s.jobs.any fun x => x.2.part = p && dieOf x.2.core = die) && !(cs.any (·.2.mx != [])) &&
  !(cs.any fun x => (s.rulesOf x.2.ruleOwner).any fun r => s.canFire x.2.ruleOwner r.1 r.2) &&
  !(s.keepers.any fun x => x.2.part = p && x.2.at_.isNone && x.2.die = die && (s.keeperReady x.1).isSome) &&
  !(s.subs.any fun x => x.2.part = p && x.2.die = die && s.canMove x.1 x.2) && !s.queueBusy p
/-- Before time passes: for each partition and die, since when the conditions have held. -/
def State.watchDead (s : State) : State :=
  { s with dead := s.parts.flatMap fun x => (List.range 4).filterMap fun d =>
      if x.2.st = .active && s.deadNow x.1 d then some (x.1 * 4 + d, (SMap.get? s.dead (x.1 * 4 + d)).getD (s.bclk, false)) else none }

/-- The oldest blocked allocation of a partition among those made on a die, whatever its pool. -/
def State.oldestReq (s : State) (p die : Nat) : Option Req :=
  (s.reqs.filter fun r => r.part = p && dieOf r.core = die).foldl (fun m r => match m with
    | some q => if r.older q then some r else m
    | none => some r) none
/-- R161. A context of the partition makes room for the handler where no slot is free. -/
def State.declareDead (s : State) (p die : Nat) : State :=
  let r := (s.oldestReq p die).getD ⟨576 + die, p, 0, 0, 0, .loader 0⟩
  let beyond := ((List.range 8).filter (· != p)).foldl (fun n q => n + (s.usedBy r.pool q - (s.quota r.pool q).g)) 0
  let s1 := s.partEvent p die 0x34 0 (if r.pool < 576 then r.pool else 2 ^ 15 + die) (word r.n) (word beyond)
  let s2 := { s1 with dead := SMap.put s1.dead (p * 4 + die) ((((SMap.get? s1.dead (p * 4 + die)).map (·.1)).getD 0), true) }
  if (s.part p).hvec = 0 || (s2.coresOn p die).any (fun c => (s2.freeSlot c).isSome) then s2
  else (((SMap.keys s2.ctxs).filter fun k => (s2.ctx k).part = p && dieOf (coreOf k) = die && (s2.ctx k).stall.any Stall.allocates &&
      (s2.ctx k).inSlot).findSome? s2.preempt).getD s2
def execPoolDeadlock (p die : Nat) (s : State) : Host.Outcome State Fault Refusal :=
  .next (match SMap.get? s.dead (p * 4 + die) with
    | some (since, false) => if since + 65536 ≤ s.bclk && s.deadNow p die then s.declareDead p die else s
    | _ => s)

/-! Waits (R107, R356, R362). -/

/-- A context that waits in its slot. -/
def State.waits (s : State) (key : Nat) : Bool := (s.waiting (coreOf key)).contains key

def isWaita (i : Instr) : Bool := match i with | .waita _ _ => true | _ => false
def runWaita (i : Instr) (s : State) : Host.Outcome State Fault Refusal :=
  match i with
  | .waita q o => execWaita q o s
  | _ => .next s
/-- R356: the line has been written, and the condition is looked at again. -/
def execWaitaRecheck (core slot : Nat) (s : State) : Host.Outcome State Fault Refusal :=
  let key := core * 4 + slot
  .next (if s.waits key then s.again key isWaita runWaita else s)
/-- R356: the limit has passed. -/
def execWaitaTimeout (core slot : Nat) (s : State) : Host.Outcome State Fault Refusal :=
  let key := core * 4 + slot
  .next (match (s.ctx key).stall with
    | some (.mon _ t) => if s.waits key && s.passedLimit t then s.again key isWaita runWaita else s
    | _ => s)
/-- R362: the limit has passed. -/
def execBarwTimeout (core slot : Nat) (s : State) : Host.Outcome State Fault Refusal :=
  let key := core * 4 + slot
  .next (match (s.ctx key).stall with
    | some (.barw _ t) =>
      if s.waits key && s.passedLimit t then
        s.again key (fun i => match i with | .barw _ _ => true | _ => false) fun i s => match i with
          | .barw q o => execBarw q o s
          | _ => .next s
      else s
    | _ => s)

/-- R107, R359: the threshold is there; a `semw` completes, and another instruction has its wait behind it. -/
def execSemaphoreWaitPass (core slot : Nat) (s : State) : Host.Outcome State Fault Refusal :=
  let key := core * 4 + slot
  .next (match (s.ctx key).stall with
    | some (.sem i n) =>
      if !s.waits key || s.sem core i < n then s
      else match fetch { s with cur := key } with
        | .ok (.semw _ _, _) =>
          s.again key (fun i => match i with | .semw _ _ => true | _ => false) fun i s => match i with
            | .semw q o => execSemw q o s
            | _ => .next s
        | _ => (s.setSem core i (s.sem core i - n)).modCtx key fun c => { c with stall := none, passed := some (i, n) }
    | _ => s)

end Sys2Proof.Machine
end

