-- ==== Sys2Proof/Machine/Runs.lean ====
section
/-! DEFINITION. The steps of the task scheduler and of the context slots: dispatch (R84 to R92), the end of a task (R95), resume,
images (R97, R113, R120, R121), the watchdog (R98), switches (R110) and asynchronous traps (R126). -/

namespace Sys2Proof.Machine
open Sys2Proof

/-! Dispatch (R86, R89). -/

/-- R86: smooth weighted round robin over the partitions that have something to dispatch; the lowest number where credits tie. -/
def State.wrrNext (s : State) (die : Nat) : Option Nat × State :=
  let el := (List.range 8).filter fun p => (s.part p).st = .active && (s.tryDispatch p die).isSome
  let total := el.foldl (fun n p => n + (s.part p).weight) 0
  let credit (p : Nat) : Int := SMap.getD (s.part p).credit die 0 + ((s.part p).weight : Int)
  let best := el.foldl (fun (m : Option Nat) p => match m with
    | none => some p
    | some q => if credit q < credit p then some p else m) none
  let s1 := el.foldl (fun s p => s.setPart p { s.part p with
    credit := SMap.put (s.part p).credit die (credit p - if some p = best then (total : Int) else 0) }) s
  (best, s1)
def execDispatch (die : Nat) (s : State) : Host.Outcome State Fault Refusal :=
  .next (match s.wrrNext die with
    | (some p, s1) => (s1.tryDispatch p die).getD s
    | (none, _) => s)

/-- R87: the owner takes the oldest entry of its deque; `none` where it can take none. -/
def State.dequeTake (s : State) (core : Nat) : Option State :=
  match (s.deque core).getLast? with
  | none => none
  | some e =>
    if s.reservedCore core || !s.entStays e then none
    else (s.placeable core e).map fun key => (s.setDeque core ((s.deque core).dropLast)).placeEnt key e
def execDequeTake (core : Nat) (s : State) : Host.Outcome State Fault Refusal := .next ((s.dequeTake core).getD s)

/-- A core that may steal: a free slot, nothing that could run, an empty deque. -/
def State.idleCore (s : State) (core : Nat) : Bool :=
  (s.freeSlot core).isSome && s.deque core = [] && !(slotsOf core).any fun k =>
    s.runnable k || ((s.ctx k).slot = .run && match (s.ctx k).stall with | none => true | some w => s.waitOver k w)
/-- The core of the cluster with the most entries. -/
def State.victim (s : State) (core : Nat) : Option Nat :=
  ((coresOf (clusterOf core)).filter fun c => c != core && s.deque c != []).foldl (fun m c => match m with
    | none => some c
    | some d => if (s.deque d).length < (s.deque c).length then some c else m) none
/-- R87: an idle core steals the newest entry; a last entry that its owner can take goes to the owner. -/
def execSteal (core : Nat) (s : State) : Host.Outcome State Fault Refusal :=
  .next (if !s.idleCore core || s.reservedCore core then s
    else match s.victim core with
      | none => s
      | some v => match s.deque v with
        | [] => s
        | e :: r => match (if r = [] then s.dequeTake v else none), (if s.entStays e then s.placeable core e else none) with
          | some s1, _ => s1
          | none, some key => (s.setDeque v r).placeEnt key e
          | none, none => s)

/-- R85: ageing of what the Pithead holds. -/
def execPitheadAging (die : Nat) (s : State) : Host.Outcome State Fault Refusal :=
  let old (e : PEntry) : Bool := e.die = die && e.inside && e.level < 7 && e.since + 2 ^ 20 ≤ s.bclk
  .next { s with pithead := s.pithead.filter (!old ·) ++
    (s.pithead.filter old).map fun e => { e with level := e.level + 1, since := s.bclk } }

/-- R188: a keeper that is READY is dispatched like a continuation: it enters the Pithead, goes to the deque of a core as the turn
of its partition and its entry comes, and from there to a slot as the oldest entry. -/
def State.dispatchKeeper (s : State) (id : Nat) : State :=
  let s1 := s.keeperEnter id
  let s2 := match s1.pithead.find? (·.ent = Ent.keeper id) with
    | none => s1
    | some e => match s1.wrrNext e.die with
      | (some p, u) =>
        let v := (u.tryDispatch p e.die).getD u
        if v.pithead.any (·.ent = Ent.keeper id) then s1 else v
      | (none, _) => s1
  match s2.deques.find? fun x => x.2.getLast? = some (Ent.keeper id) with
  | some x => (s2.dequeTake x.1).getD s2
  | none => s2
def execKeeperDispatch (id : Nat) (s : State) : Host.Outcome State Fault Refusal := .next (s.dispatchKeeper id)

/-! Priority pre-emption (R90). -/

/-- The context to give way among slots: the lowest priority below the level, and of those the one running longest. -/
def State.yielding (s : State) (p level : Nat) (keys : List Nat) : Option Nat :=
  (keys.filter fun k => (s.ctx k).inSlot && (s.ctx k).part = p && (s.ctx k).prio < level).foldl (fun m k => match m with
    | none => some k
    | some j => if (s.ctx k).prio < (s.ctx j).prio || ((s.ctx k).prio = (s.ctx j).prio && (s.ctx k).started < (s.ctx j).started)
        then some k else m) none
/-- R110: a context that has been placed for a pre-empting entry runs; one in LOAD, once it is loaded. -/
def State.runPlaced (s : State) (key : Nat) (e : Ent) : State :=
  match (s.ctx key).slot with
  | .res => s.runNow key
  | .load => s.modCtx key fun c => { c with heir := some e }
  | _ => s
/-- An entry goes straight to a slot that was freed for it: from the Pithead when its outputs can be allocated, or from the core's
deque, unless a gang keeps the core (R92); a gang starts as soon as all of its slots are free (R90, R340). A task with an object that is not LIVE any more is cancelled
instead (R313). -/
def State.placeEntry (s : State) (key : Nat) (e : Ent) : State :=
  let core := coreOf key
  if s.entPends e then s
  else match e, s.entFault e with
  | .gang g, none => match s.gangStart g with
    | some s1 => ((s.gangReady g).filterMap fun x => s1.slotOfTask x.1).foldl (fun s k => s.runPlaced k e) s1
    | none => s
  | .gang _, some (t, a) => s.cancelDead (dieOf core) t a
  | e, dead =>
    if (s.ctx key).slot != .free || !(s.placeable core e).isSome || !s.entStays e then s
    else if (s.deque core).contains e then
      if s.reservedCore core then s
      else ((s.setDeque core ((s.deque core).filter (· != e))).placeEnt key e).runPlaced key e
    else if !s.pithead.any (·.ent = e) then s
    else
      let go (s : State) : State :=
        (({ s with pithead := s.pithead.filter (·.ent != e) } : State).placeEnt key e).runPlaced key e
      match dead, e with
      | some (t, a), _ => s.cancelDead (dieOf core) t a
      | none, .task t => ((s.allocOutputs t core).map go).getD s
      | none, _ => go s
/-- One context, or one keeper, gives way for an entry. -/
def State.giveWay (s : State) (key : Nat) (e : Ent) : Option State :=
  if !(s.ctx key).inSlot then some s
  else
    let s1 := match (s.ctx key).keeper with
      | some id => some (s.saveKeeper id)
      | none => s.preempt key
    s1.bind fun s1 => if (s1.ctx key).slot = .save then some (s1.modCtx key fun c => { c with heir := some e }) else none
/-- A slot is being freed for an entry. -/
def State.makingWay (s : State) (e : Ent) : Bool := s.ctxs.any fun x => x.2.slot = .save && x.2.heir = some e
/-- R92: an instance of a gang that a region abort has requeued alone goes straight to a slot of its member core. -/
def State.goesAlone (s : State) : Ent → Bool
  | .task t => (s.memberCore (s.task t)).isSome
  | _ => false
def State.priorityPreempt (s : State) (die p : Nat) : State :=
  match s.topEntry die p with
  | none => s
  | some e =>
    if s.bclk < e.born + 4096 || s.makingWay e.ent then s
    else match e.ent with
      | .gang g =>
        let full := (s.gangReady g).filter fun x => (s.freeSlot x.2).isNone
        let picks := full.map fun x => s.yielding p e.level (slotsOf x.2)
        if full = [] || picks.any (·.isNone) then s
        else ((picks.filterMap id).foldlM (fun s k => State.giveWay s k e.ent) s).getD s
      | x =>
        let cores := (s.entCores die x).filter fun c => !s.leaving p (clusterOf c)
        if cores.any fun c => (s.freeSlot c).isSome || (!s.goesAlone x && (s.deque c).length < 4) then s
        else match s.yielding p e.level (cores.flatMap slotsOf) with
          | some key => (s.giveWay key x).getD s
          | none => s
def execPriorityPreemption (die p : Nat) (s : State) : Host.Outcome State Fault Refusal := .next (s.priorityPreempt die p)

/-! The end of a task (R95). -/

/-- The end of a task is to use pages under migration (R226): its partition's object table, or its list of successors. -/
def State.endMoving (s : State) (t : Nat) : Bool :=
  s.objsMoving (s.task t).part || s.gvMoving (s.task t).part (s.task t).succ (8 * (s.task t).nsucc)
/-- The region commits, the implicit reads and the checks of uncommitted outputs are made, the rules pass to a keeper, and the rest
follows. The end waits for matrix instructions in flight and for inputs that move; after its third step it waits for the firings
of its rules and for a free save-area slot. -/
def State.endTask (s : State) (key : Nat) : State :=
  let c := s.ctx key
  if !c.inSlot || !c.ending || c.mx != [] || c.stall = some .cancelled || s.inputMoving c.task || s.endMoving c.task then s
  else match s.commitRegion key with
    | .error (.fault e) => s.parkCtx key e
    | .error _ => s
    | .ok s1 =>
      let s2 := s1.endReads key
      match s2.handover key with
      | none => s2.block key (if (s2.ctx key).k.any (·.2.st = .firing) then .engine else .record)
      | some s3 => s3.finishTask key
def execTaskEnd (core slot : Nat) (s : State) : Host.Outcome State Fault Refusal := .next (s.endTask (core * 4 + slot))

/-! Contexts leaving memory and going there. -/

/-- The die where a task goes on: that of its home or of the tiles that it holds, or one where its partition has cores. -/
def State.dieFor (s : State) (t : Nat) : Nat :=
  let x := s.task t
  let d := (s.goesTo t).dieOr x.die
  let stays (d : Nat) : Bool := (s.coresOn x.part d).any fun c => !s.leaving x.part (clusterOf c)
  if stays d then d else ((List.range 4).find? stays).getD d
/-- A task, or its gang as one entry, is READY again (R72, R93): of a gang, the instances in state `st`, once all of them are out of
their slots. The limits of R245 follow the tasks. -/
def State.readyAgain (s : State) (t : Nat) (st : TaskSt) : State :=
  let x := s.task t
  let all := (s.instances t).filter fun i => (s.task i).st = st
  if all = [] || !all.all (fun i => (s.slotOfTask i).isNone && s.pageBack (s.task i)) then s
  else
    let die := match x.gang with
      | some (g, _, _) => dieOf (((SMap.get? s.gangs g).map (·.cores.headD 0)).getD 0)
      | none => s.dieFor t
    let s1 := all.foldl (fun s i => s.modTask i fun y => { y with
      st := .ready, page := none, die := if y.gang.isSome then y.die else die }) s
    (s1.enqueue die x.part x.prio (match x.gang with | some (g, _, _) => .gang g | none => .task t)).applyLimits

/-- What a slot in SAVE holds: its own registers, or the parts of a keeper's image. -/
def State.savingCtx (s : State) (key : Nat) : Ctx :=
  match (s.ctx key).keeper with
  | some id => (s.keeper id).ctx
  | none => s.ctx key
/-- A save whose write fails with another cause than a missing page. -/
def State.saveFails (s : State) (key : Nat) (e : Exc) : State :=
  match (s.ctx key).keeper with
  | some id => s.keeperFails id (coreOf key) e.cause.toNat e.tval
  | none => State.work (s, [.cancel (s.ctx key).task e.cause.toNat true])
/-- What follows a save: a task that is pre-empted is READY again, DBGSTOP is answered, and what waits for the slot takes it. -/
def State.leftSlot (s : State) (key sk : Nat) : State :=
  let c := s.ctx key
  let t := c.task
  let s1 := match c.keeper with
    | some id => (s.setKeeper id { s.keeper id with at_ := none }).freeCtx key
    | none =>
      let s2 := (s.modTask t fun x => { x with resume := .image sk, h := c.h, dbg := none }).freeCtx key
      let s3 := match (s.task t).dbg with
        | some (q, i, compl) => s2.packetEnd q i 8 compl false (sk % 2 ^ 32)
        | none => s2
      if (s.task t).st = TaskSt.preempted then s3.readyAgain t .preempted else s3
  (match c.heir with | some e => s1.placeEntry key e | none => s1).movesOn
/-- The image of the context or the keeper in SAVE is written, and the slot becomes FREE (R113, R120). A missing page is told once
and waited for. -/
def State.saved (s : State) (key : Nat) : State :=
  let c := s.ctx key
  match c.image with
  | none => s
  | some sk =>
    if c.slot != .save then s
    else
      let p := sk / 2 ^ 32
      let side := (SMap.get? s.saves sk).getD (SaveSlot.empty p)
      let d := s.savingCtx key
      match s.writeImage p (sk % 2 ^ 32) key d (pobjOf side.objs d.k) with
      | .error (.fault e) =>
        if e.cause = 0x20 || e.cause = 0x24 then
          if c.stall = some (.page e.tval) then s
          else (s.modCtx key fun c => { c with stall := some (.page e.tval) }).partEvent p (dieOf (coreOf key)) e.cause.toNat 0
            (coreOf key) e.tval 0
        else s.saveFails key e
      | .error _ => s
      | .ok s1 => s1.leftSlot key sk
def execImageSaveComplete (core slot : Nat) (s : State) : Host.Outcome State Fault Refusal := .next (s.saved (core * 4 + slot))

/-- R93: the other instances of a gang that have slots park with the one that cannot be loaded, each as soon as it can. -/
def State.parkMates (s : State) (t : Nat) (page : Word) : State :=
  (((s.instances t).filter (· != t)).filterMap s.slotOfTask).foldl (fun s k => s.parkSlot page k) s
/-- A slot that was loading becomes FREE, and its task is PARKED on a page with its gang, or is cancelled with a cause and an
event. -/
def State.loadFailed (s : State) (key : Nat) (a : Word) (e : Exc) (event : Bool) : State :=
  let c := s.ctx key
  let s1 := if event then s.partEvent c.part (dieOf (coreOf key)) e.cause.toNat 0 (coreOf key) a 0 else s
  (if e.cause = 0x20 then
    ((s1.freeCtx key).modTask c.task fun x => { x with st := .parked, page := some e.tval }).parkMates c.task e.tval
  else State.work (s1, [.cancel c.task e.cause.toNat true])).movesOn

/-- What is read of an image: its base, its accumulators, the address of its lane slices with what it holds of them, OVF, and
KOBJ; and the places of its poisoned bytes, those of the accumulators as `Ctx.bad` counts them (R43). -/
structure ImageRead where
  base : List Byte
  acc : List Byte
  lxAt : Word
  lx : List Byte
  ovf : List Byte
  kobj : List Byte
  bad : List Nat
  deriving DecidableEq, Repr
/-- An image read from its slot of a save area (R112, R113). -/
def State.readImage (s : State) (sk : Nat) : Except Tr (State × ImageRead) := do
  let p := sk / 2 ^ 32
  let a := s.saveAddr p (sk % 2 ^ 32)
  let (s1, b) ← s.gvRead p a 0xD000 true
  let accs := popcount 16 (slice b 8 8 / 2 ^ 16 % 2 ^ 16)
  let lxAt := a + word (0xD000 + 16384 * accs)
  let (s2, acc) ← s1.gvRead p (a + 0xD000) (16384 * accs) true
  let (s3, lx) ← s2.gvRead p lxAt (if bit (slice b 8 8) 15 then 131072 else 0) true
  let (s4, ovf) ← s3.gvRead p (a + 0x6E000) (if accs = 0 then 0 else 8) true
  let (s5, tr) ← s4.gvRead p (a + 0x6F000) 32 true
  let present := (List.range 16).filter fun i => bit (slice b 8 8) (16 + i)
  let bad := s.gvBad p a 0xD000 ++ (s.gvBad p (a + 0xD000) (16384 * accs)).map (fun o => accCell (present.getD (o / 16384) 0) 0 + o % 16384) ++
    (s.gvBad p (a + 0x6E000) (if accs = 0 then 0 else 8)).map (0x6E000 + ·) ++ (s.gvBad p (a + 0x6F000) 32).map (0x6F000 + ·)
  pure (s5, ⟨b, acc, lxAt, lx, ovf, tr, bad⟩)
/-- R113, R406: an image with a reserved bit, in its base or in the word of OVF. -/
def ImageRead.broken (r : ImageRead) : Bool := imageBad r.base || leNat r.ovf / 2 ^ 16 != 0
/-- R43: a poisoned byte of an image that its load consumes: one of no word of a register, an accumulator or a lane; s0 is not
read. -/
def ImageRead.consumed (r : ImageRead) : Option Nat := r.bad.find? fun o => (cellOf o).isNone && !(0x100 ≤ o && o < 0x108)
/-- The context that an image gives, its words poisoned as those of the image are; the OVF of an accumulator that is absent from ACCMAP is 0 (R406). -/
def ImageRead.ctx (r : ImageRead) (c : Ctx) (side : SaveSlot) : Ctx :=
  Ctx.ofImage { c with slot := .res, bad := (r.bad.filterMap cellOf).eraseDups, ovf := BitVec.ofNat 16 (leNat r.ovf) &&& BitVec.ofNat 16 (slice r.base 8 8 / 2 ^ 16), image := none } r.base r.acc (fun i => slice r.kobj (2 * i) 2) side

/-- A field instruction with its operands. -/
def fieldOf (i : Instr) : Option (FieldOp × FieldO × Sync) :=
  match i with
  | .mma _ y o => some (.mma, o, y)
  | .mmaq _ y o => some (.mmaq, o, y)
  | .mma3 _ y o => some (.mma3, o, y)
  | .bsmm _ y o => some (.bsmm, o, y)
  | .gmm _ y o => some (.gmm, o, y)
  | _ => none
/-- R121: a valid entry of MXRES as a job of the context that runs in `s`: what it read at its start, where its instruction is the
one that was saved, or what its operands hold now (log entry 32). -/
def State.mxEntry (s : State) (b : List Byte) (side : SaveSlot) (i : Nat) : Option MxJob :=
  let dw (o : Nat) : Nat := slice b (0xA00 + 32 * i + o) 8
  let at_ (j : MxJob) : MxJob := { j with pc := word (dw 16), done := slice b (0xA18 + 32 * i) 4 }
  let afresh : Option MxJob := match decodeNat (dw 0 + dw 8 * 2 ^ 64) with
    | .ok i => (fieldOf i).bind fun x => match fieldSetup i x.1 x.2.1 x.2.2 none s with
      | .ok (j, _) => some (at_ j)
      | .error _ => none
    | .error _ => none
  match side.mx[i]? with
  | some j => if j.img0.toNat = dw 0 && j.img1.toNat = dw 8 then some (at_ j) else afresh
  | none => afresh
/-- The valid entries of MXRES. -/
def mxValid (b : List Byte) : List Nat := (List.range 8).filter fun i => slice b (0xA1C + 32 * i) 4 / 2 % 2 = 1
/-- R113: the k-step count of an entry that is no field instruction, or that counts more k-steps than its instruction has. -/
def mxBad (b : List Byte) (f : Nat → Option MxJob) : Option Nat :=
  ((mxValid b).find? fun i => (f i).all fun j => total j < j.done).map fun i => slice b (0xA18 + 32 * i) 4
/-- The pins of the saved matrix jobs pass to those that go on (R152). -/
def State.repin (s : State) (old new : List MxJob) : State :=
  (old.flatMap (·.pins)).foldl State.unpin ((new.flatMap (·.pins)).foldl State.pin s)

/-- The image of a task is in its slot (R113, R121, R313). -/
def State.taskLoaded (s : State) (key sk : Nat) : State :=
  let c := s.ctx key
  match s.readImage sk with
  | .error (.fault e) => s.loadFailed key e.tval e false
  | .error _ => s
  | .ok (s1, r) =>
    let side := (SMap.get? s.saves sk).getD (SaveSlot.empty c.part)
    let d := r.ctx c side
    let job := State.mxEntry { s1.setCtx key { d with mx := [] } with cur := key, jobs := [] } r.base side
    if s.objsMoving c.part || (s.task c.task).pend.isSome then s
    else match mxBad r.base job, s.startFault c.task with
    | some n, _ => s1.loadFailed key (word n) (exc 0x56) true
    | none, some a => (s1.readEach c.part (s.startObjs c.task)).cancelWith c.task (coreOf key) (exc 0x58 a.toNat)
    | none, none =>
      let s1 := s1.readEach c.part (s.startObjs c.task)
      if let some o := r.consumed then
        let a := s.saveAddr (sk / 2 ^ 32) (sk % 2 ^ 32) + word o
        s1.loadFailed key a (exc 0x5B a.toNat) true
      else if r.broken then s1.loadFailed key (s.saveAddr (sk / 2 ^ 32) (sk % 2 ^ 32)) (exc 0x01) true
      else
        let x := s.task c.task
        let mx := (mxValid r.base).filterMap job
        let s2 := if r.lx = [] then s1 else (s1.store (lxKey key 0 0) r.lx).poisonIn c.part r.lxAt (lxKey key 0 0) 131072
        let s3 := ((s2.freeSave sk).repin side.mx mx).setCtx key { d with
          mx := mx, launch := s.launchReg (s.task (taskNo d.taskR)), since := s.bclk, wd := s.bclk, wdFired := x.warned,
          started := s.bclk, heir := none }
        let s4 := (s3.modTask c.task fun y => { y with resume := .fresh }).promote (coreOf key)
        (if c.heir.isSome then s4.runNow key else s4).movesOn
/-- The image of a keeper is in its slot; its references are released (R188, R309, R313). -/
def State.keeperLoaded (s : State) (key sk id : Nat) : State :=
  let c := s.ctx key
  let x := s.keeper id
  if s.objsMoving c.part then s
  else match s.keeperDead id, s.readImage sk with
  | some a, _ => s.keeperFails id (coreOf key) 0x58 a
  | none, .error (.fault e) =>
    if e.cause = 0x20 then (s.setKeeper id { x with at_ := none }).freeCtx key else s.keeperFails id (coreOf key) e.cause.toNat e.tval
  | none, .error _ => s
  | none, .ok (s1, r) =>
    let side := (SMap.get? s.saves sk).getD (SaveSlot.empty c.part)
    if let some o := r.consumed then
      s1.keeperFails id (coreOf key) 0x5B (s.saveAddr (sk / 2 ^ 32) (sk % 2 ^ 32) + word o)
    else if r.broken then s1.keeperFails id (coreOf key) 0x01 (s.saveAddr (sk / 2 ^ 32) (sk % 2 ^ 32))
    else
      let d := r.ctx c side
      let s2 := s1.dropRefs sk
      let s3 : State := { s2 with saves := SMap.put s2.saves sk { side with objs := [] } }
      ((s3.setKeeper id { x with
          status := d.modes, special := d.special, fpc := d.fpc, fps := d.fps, f := d.f, k := d.k, acc := d.acc, ovf := d.ovf,
          bad := x.bad.filter (· < 0x80000) ++ d.bad.filter (0x80000 ≤ ·), lastFire := s.bclk }).setCtx key
        { c with slot := .res, image := none, heir := none, since := s.bclk, wd := s.bclk, started := s.bclk }).movesOn
/-- An image is read into the slot in LOAD. -/
def State.imageLoaded (s : State) (key : Nat) : State :=
  let c := s.ctx key
  if c.slot != .load then s
  else match c.keeper, (s.task c.task).resume with
    | some id, _ => s.keeperLoaded key (saveKey c.part (s.keeper id).save) id
    | none, .image sk => s.taskLoaded key sk
    | none, _ => s
def execImageLoadComplete (core slot : Nat) (s : State) : Host.Outcome State Fault Refusal := .next (s.imageLoaded (core * 4 + slot))

/-- R97: the context of a record's 256 bytes; FPC and FPS without their reserved bits (R6). -/
def State.recordCtx (s : State) (c : Ctx) (b : List Byte) : Ctx :=
  let x := s.task c.task
  let w (o : Nat) := word (slice b o 8)
  let live := slice b 0x40 4
  { Ctx.empty with
    slot := .res, task := c.task, taskR := w 0x38, part := c.part, prio := x.prio, pc := w 0x00, pred := BitVec.ofNat 12 (slice b 0x08 2),
    ph := bit (slice b 0x0D 1) 0, lc := (List.range 4).map fun i => (i, BitVec.ofNat 32 (slice b (0x10 + 4 * i) 4)),
    etb := w 0x20, ptb := w 0x28, ltb := w 0x30, stamp := w 0x58, fpc := w 0x60 &&& 0x1F07, fps := w 0x68 &&& 0x1F,
    tvec := ((s.objAt c.part (w 0x00)).map (·.tvec)).getD 0, launch := s.launchReg (s.task (taskNo (w 0x38))),
    s := (List.range 16).filterMap (fun i => (liveRegs live)[i]?.map fun n => (n, w (0x80 + 8 * i))),
    h := x.h, since := s.bclk, wd := s.bclk, wdFired := x.warned, started := s.bclk }
/-- A continuation record is read into the slot in LOAD (R97). -/
def State.resumed (s : State) (key : Nat) : State :=
  let c := s.ctx key
  match (s.task c.task).resume with
  | .record a =>
    if c.slot != .load || s.objsMoving c.part || (s.task c.task).pend.isSome then s
    else match s.gvRead c.part a 256 true with
      | .error (.fault e) => s.loadFailed key a e true
      | .error _ => s
      | .ok (s1, b) =>
        match recordBad b, s.startFault c.task with
        | some e, _ => s1.loadFailed key a e true
        | none, some t => s1.cancelWith c.task (coreOf key) (exc 0x58 t.toNat)
        | none, none =>
          if let some o := (s.gvBad c.part a 256).head? then s1.loadFailed key a (exc 0x5B (a + word o).toNat) true
          else
          let s1 := (s1.readEach c.part (s.startObjs c.task)).readObjs c.part ((s1.objAt c.part (word (slice b 0 8))).map (·.idx))
          let s2 := match (s1.task c.task).recObj with | some o => s1.addRef c.part o false | none => s1
          let s3 := s2.modTask c.task fun x => { x with
            resume := .fresh, restart := some a, restartH := x.h, recObj := none, restartObj := x.recObj.or x.restartObj }
          let s4 := (s3.setCtx key (s1.recordCtx c b)).promote (coreOf key)
          (if c.heir.isSome then s4.runNow key else s4).movesOn
  | _ => s
def execContinuationResume (core slot : Nat) (s : State) : Host.Outcome State Fault Refusal := .next (s.resumed (core * 4 + slot))

/-- R72, R117, R118: the page of a parked task, or of one that an abort requeued, is there. -/
def execParkWake (t : Nat) (s : State) : Host.Outcome State Fault Refusal :=
  .next (match (s.task t).st with
    | .parked => s.readyAgain t .parked
    | .waiting => if (s.task t).page.isSome then State.work (s, [.ready t]) else s
    | _ => s)

/-! Watchdog, switches, asynchronous traps. -/

/-- R98. -/
def State.watchdog (s : State) (key : Nat) : State :=
  let c := s.ctx key
  let limit := (s.part c.part).wdog
  if !c.inSlot || c.keeper.isSome || limit = 0 || s.bclk - c.wd < limit || c.stall = some .cancelled then s
  else if c.wdFired then
    State.work (s.partEvent c.part (dieOf (coreOf key)) 0x5A 0 (coreOf key) (word limit) 0, [.cancel c.task 0x5A true])
  else s.modCtx key fun c => { c with async := c.async ++ [exc 0x5A limit], wd := s.bclk, wdFired := true }
def execWatchdogTimeout (core slot : Nat) (s : State) : Host.Outcome State Fault Refusal := .next (s.watchdog (core * 4 + slot))

/-- The stalls that give up RUN after 64 bclk (R110). -/
def Stall.switches : Stall → Bool
  | .sem _ _ | .bar _ | .barw _ _ | .mon _ _ | .rsyn _ _ | .alloc => true
  | _ => false
def execStallSwitch (core : Nat) (s : State) : Host.Outcome State Fault Refusal :=
  .next (match (slotsOf core).find? fun k => (s.ctx k).slot = .run with
    | none => s
    | some key =>
      let c := s.ctx key
      if (match c.stall with | some w => w.switches && !s.waitOver key w | none => false) && max c.stallAt c.since + 64 ≤ s.bclk then s.switch core else s)

/-- R126: the oldest pending trap, at the boundary before the instruction at the pc. -/
def State.asyncTrap (s : State) (key : Nat) : State :=
  let c := s.ctx key
  match c.async with
  | [] => s
  | e :: r =>
    if !c.inSlot || c.ending || c.th || c.stall = some .cancelled || s.objsMoving c.part then s
    else
      let s1 := (s.giveBack key).modCtx key fun c => { c with async := r }
      let (ec, s2) := s1.fetchedClass key
      s2.trapEnter key e ec false c.pc
def execAsyncTrapDelivery (core slot : Nat) (s : State) : Host.Outcome State Fault Refusal := .next (s.asyncTrap (core * 4 + slot))

end Sys2Proof.Machine
end

