-- ==== Sys2Proof/Machine/Queues.lean ====
section
/-! DEFINITION. Work queues: taking a packet and its checks (R49 to R52), and the packets that act for a partition (R53 to R58):
LAUNCH, COPY, SIGNAL, WAITF, QBAR, UNLOAD, MIGRATE, VOID; and the end of a migration (R226). -/

namespace Sys2Proof.Machine
open Sys2Proof

/-! Packets (R50). -/

/-- `n` bytes at an offset of a packet of eight doublewords. -/
def pk (w : List Word) (off n : Nat) : Nat := slice (w.flatMap fun x => leBytes 8 x.toNat) off n
/-- `n` bytes at an offset of its payload. -/
def pay (w : List Word) (off n : Nat) : Nat := pk w (16 + off) n
def pkType (w : List Word) : Nat := pk w 7 1
def pchk (w : List Word) : Nat := pk w 5 1
def pkTs (w : List Word) : Word := word (pk w 8 8)
/-- COMPL. -/
def compl (w : List Word) : Word := word (pay w 40 8)

/-- The payload bytes in use of each type, as (offset, bytes); every other is reserved (R53). -/
def payloadUse (type : Nat) : List (Nat × Nat) :=
  match type with
  | 1 => [(0, 22), (40, 8)]
  | 2 => [(0, 24), (40, 8)]
  | 3 => [(0, 14), (16, 8)]
  | 4 => [(0, 8)]
  | 5 => [(40, 8)]
  | 6 => [(0, 9), (40, 8)]
  | 7 => [(0, 17), (40, 8)]
  | 8 => [(0, 4), (8, 16), (40, 8)]
  | 9 => [(0, 24), (40, 8)]
  | _ => []
/-- R51 order 2: a reserved bit or byte of the payload. -/
def payloadBad (w : List Word) : Bool :=
  let use := payloadUse (pkType w)
  (List.range 48).any (fun o => pay w o 1 != 0 && !use.any fun x => x.1 ≤ o && o < x.1 + x.2) ||
  (pkType w = 1 && 8 ≤ pay w 18 1) || (pkType w = 6 && 2 ≤ pay w 8 1) ||
  (pkType w = 3 && (3 ≤ pay w 8 1 || (pay w 8 1 = 2 && pay w 12 2 = 0)))

/-- R51 order 5, R39, R60: a feature that the packet needs and that is masked: SHAREQ for a shared queue, HOSTQ to enable a queue
whose ring lies in host memory, health monitors. -/
def State.packetMasked (s : State) (w : List Word) : Bool :=
  (pkType w = 9 && !s.feature 11) ||
  (pkType w = 8 && pay w 0 1 = 7 && pay w 8 1 != 0xFF && !s.feature 10) ||
  (pkType w = 8 && pay w 0 1 = 8 && pay w 8 8 = 1 && pay w 2 2 != 0 && pay w 2 2 < 4096 &&
    bit (s.qcbField (pay w 2 2) 0x08 8) 63 && !s.feature 8)
/-- R51: the first check that fails. -/
def State.packetFault (s : State) (q i : Nat) (w : List Word) : Option Nat :=
  let hdr := pk w 0 8
  let ty := pkType w
  if ty = 0 || 0x0B ≤ ty then some 0x5E
  else if bits hdr 55 49 != 0 || bits hdr 38 32 != 0 || hdr % 2 ^ 32 != i % 2 ^ 32 || payloadBad w then some 0x5E
  else if (if q = 0 then pchk w != 0xFF else !(s.owners q).contains (pchk w)) then some 0x5E
  else if (ty = 8 || ty = 9) && q != 0 then some 0x5E
  else if s.packetMasked w then some 0x59
  else none

/-- The 64 bytes of a slot of the ring; poison in them faults the queue, and so does a host that refuses the read (log entry
28). -/
def State.ringRead (s : State) (q i : Nat) : Except Tr (State × List Byte) :=
  let base := s.qcbField q 0x08 8
  let a := bits base 62 12 * 4096 + 64 * (i % 2 ^ s.qcbField q 0x10 1)
  let plain (k : Nat) : Except Tr (State × List Byte) :=
    if s.poisoned k 64 then .error (.fault (exc 0x5B a)) else .ok (s, Mem.readL s.mem k 64)
  if bit base 63 then if s.hostRefuses a then .error (.fault (exc 0x2B a)) else plain (hostKey a)
  else if q = 0 then plain a
  else
    let p := s.qcbField q 0x11 1
    if s.gvPoisoned p (word a) 64 then .error (.fault (exc 0x5B a)) else s.gvRead p (word a) 64 true

/-- The index of the packet taken, which no packet taken before a reset of the queue has. -/
def State.index (s : State) (q : Nat) : Nat := (s.eng q).era * 2 ^ 64 + s.qcbField q 0x80 8
/-- Accepted, and not yet complete (R53). -/
def State.accepted (s : State) (q : Nat) : State :=
  let i := s.index q
  let s1 := s.queueNext q
  s1.setEng q { s1.eng q with open_ := (s1.eng q).open_ ++ [i] }
/-- Accepted and complete: COMPL resolved or failed. -/
def State.settled (s : State) (q : Nat) (w : List Word) (failed : Bool) (v : Nat) : State :=
  State.work (s.queueNext q, [.resolve (pchk w) (compl w) failed v])
/-- A PART packet whose OP is no row of R60. -/
def partUnknown (w : List Word) : Bool := pkType w = 8 && (pay w 0 1 = 0 || 12 ≤ pay w 0 1)
/-- R49 to R52: the packet at RIDX, once its header is valid. An operation that R60 does not have fails COMPL (R60). -/
def State.queueTake (s : State) (q : Nat) : State :=
  if s.qstate q != 1 || (s.eng q).taken.isSome || 4096 ≤ q then s
  else
    let i := s.qcbField q 0x80 8
    match s.ringRead q i with
    | .error (.fault e) => s.queueFault q e.cause.toNat 0
    | .error _ => s
    | .ok (s1, b) =>
      let w := (List.range 8).map fun n => word (slice b (8 * n) 8)
      if b2n (bit (pk w 0 8) 39) != (i / 2 ^ s.qcbField q 0x10 1 + 1) % 2 then s
      else match s1.packetFault q i w with
        | some c => s1.queueFault q c (pkTs w)
        | none => if partUnknown w then s1.settled q w true 0x5E else s1.setEng q { s1.eng q with taken := some w }
def execQueueTake (q : Nat) (s : State) : Host.Outcome State Fault Refusal := .next (s.queueTake q)

/-- A taken packet of a type, when its queue runs. -/
def State.packet (s : State) (q : Nat) (p : List Word → Bool) (f : List Word → State) : Host.Outcome State Fault Refusal :=
  .next (match (s.eng q).taken with
    | some w => if s.qstate q = 1 && p w then f w else s
    | none => s)
/-! LAUNCH (R54, R91). -/

/-- What a LAUNCH creates its root as. -/
def launchSpawner (w : List Word) (cl id : Nat) : Spawner :=
  let tsv := bit (pk w 0 8) 48
  { part := pchk w, die := cl / 12, core := cl * 12, ptb := word (pay w 8 8), stamp := if tsv then pkTs w else 0, launch := some id,
    gang := pay w 16 2 != 0xFFFF, root := true, prio := pay w 18 1 % 8, group := pay w 16 2, late := !tsv }
/-- The root is created from its descriptor, after the checks of R77 and R91 in their order, and the group table as this LAUNCH
finds it is the partition's from now on; COMPL fails with what forbids it. `none` while no record is free or a page moves. -/
def State.launchRoot (s : State) (q : Nat) (w : List Word) : State × Except Exc (Option (State × Nat)) :=
  let p := pchk w
  let root := word (pay w 0 8)
  let lo := pay w 20 1
  let hi := pay w 21 1
  if 8 ≤ p || pay w 19 1 != p || pay w 8 8 % 8 != 0 || (lo != 0xFF && (96 < lo || hi < lo || 96 < hi)) then (s, .error (exc 0x5E))
  else match (s.clustersOf p).head? with
    | none => (s, .error (exc 0x5E))
    | some cl =>
      if root.toNat % 256 != 0 then (s, .error (exc 0x22 root.toNat))
      else if s.objsMoving p then (s, .ok none)
      else match s.gvRead p root 256 true with
        | .error .moving => (s, .ok none)
        | .error t => (s, .error t.exc)
        | .ok (s0, b) =>
          if s0.gvPoisoned p root 256 then (s0, .error (exc 0x5B root.toNat))
          else
            let id := s0.nextId
            let from_ := launchSpawner w cl id
            let s1 := s0.descLook { from_ with group := 0xFFFF } root b
            let lim : Nat × Nat := if lo != 0xFF then (lo, hi) else match s1.findObj p fun o => o.text.toNat = slice b 0 8 with
              | some o => (if o.spmin = 0xFF then 16 else o.spmin, if o.spmax = 0xFF then 96 else o.spmax)
              | none => (16, 96)
            let l : Launch := ⟨cl / 12, p, compl w, q, s.index q, 0, none, lim.1, lim.2⟩
            (s1, match s1.groupTable p with
            | .error e => .error ((s1.descFault { from_ with group := 0xFFFF } root b).getD e)
            | .ok g =>
              let s2 := { s1.setPart p { s1.part p with groups := g } with
                launches := SMap.put s1.launches id l, nextId := id + 1 }
              match s2.create from_ root b with
              | .fail e => .error e
              | .wait _ => .ok none
              | .ok s3 t work => .ok (some (State.work (s3, work), t)))
/-- The record of a root of a generation, which R81 may have transferred. -/
def State.rootNow (s : State) (t : Nat) (g : BitVec 16) : Option Nat :=
  s.recordNamed (word (t / 65536 * 2 ^ 32 + g.toNat * 2 ^ 16 + t % 65536))
/-- A root, or its gang, waits for its inputs and edges, or its entry still waits outside the Pithead (R84). -/
def State.outside (s : State) (t : Nat) (g : BitVec 16) : Bool :=
  (s.rootNow t g).any fun u => (s.task u).st = .waiting || s.pithead.any fun e => !e.inside && (s.entTasks e.ent).contains u
/-- R54: a LAUNCH is accepted when its root enters the Pithead. -/
def State.launchPacket (s : State) (q : Nat) (w : List Word) : State :=
  let enter (s : State) (t : Nat) (g : BitVec 16) : State := if s.outside t g then s else s.queueNext q
  match (s.eng q).root with
  | some (t, g) => enter s t g
  | none => match s.launchRoot q w with
    | (s1, .error e) => s1.settled q w true e.cause.toNat
    | (_, .ok none) => s
    | (_, .ok (some (s1, t))) =>
      let g := (s1.task t).gen
      enter (s1.setEng q { s1.eng q with root := some (t, g), open_ := (s1.eng q).open_ ++ [s.index q] }) t g
/-- A LAUNCH whose root waits goes on also when its queue is disabled meanwhile (R47, log entry 28). -/
def execLaunch (q : Nat) (s : State) : Host.Outcome State Fault Refusal :=
  match (s.eng q).root, (s.eng q).taken with
  | some _, some w => .next (if s.qstate q = 0 then s.launchPacket q w else match s.packet q (pkType · = 1) (s.launchPacket q) with
    | .next s1 => s1
    | _ => s)
  | _, _ => s.packet q (pkType · = 1) (s.launchPacket q)

/-! COPY (R55). -/

/-- The job runs on the first core of the partition's lowest cluster (log entry 28). -/
def State.copyPacket (s : State) (q : Nat) (w : List Word) : State :=
  let p := pchk w
  let n := pay w 16 8
  match (s.clustersOf p).head? with
  | none => s.settled q w true 0x5E
  | some cl =>
    if 8 ≤ p || n = 0 || 2 ^ 40 < n then s.settled q w true 0x5E
    else if 8 ≤ (s.jobsOn (cl * 12)).length then s
    else
      let j : Job := { Job.empty with
        core := cl * 12, part := p, op := .copy, d := .gv (word (pay w 0 8)), a := .gv (word (pay w 8 8)), len := n,
        fut := if compl w = 0 then none else some (compl w), qn := q, img := s.index q,
        stamp := if bit (pk w 0 8) 48 then pkTs w else 0 }
      match s.accept j with
      | .error _ => s
      | .ok s1 => s1.accepted q
def execCopy (q : Nat) (s : State) : Host.Outcome State Fault Refusal := s.packet q (pkType · = 2) (s.copyPacket q)

/-! SIGNAL (R56). -/

/-- The future that a packet names at offset 0 lies on a page under migration, for which the packet waits (R226). -/
def State.sigMoving (s : State) (w : List Word) : Bool := s.futMoving (pchk w) (word (pay w 0 8))

def State.signalFuture (s : State) (q : Nat) (w : List Word) (failed : Bool) : State :=
  if s.sigMoving w then s
  else match s.futSet (pchk w) (word (pay w 0 8)) failed (pay w 16 8) with
  | .ok x => (State.work x).queueNext q
  | .error e => s.queueFault q e.cause.toNat (pkTs w)
def execSignalResolve (q : Nat) (s : State) : Host.Outcome State Fault Refusal :=
  s.packet q (fun w => pkType w = 3 && pay w 8 1 = 0) fun w => s.signalFuture q w false
def execSignalFail (q : Nat) (s : State) : Host.Outcome State Fault Refusal :=
  s.packet q (fun w => pkType w = 3 && pay w 8 1 = 1) fun w => s.signalFuture q w true
def execSignalSemaphore (q : Nat) (s : State) : Host.Outcome State Fault Refusal :=
  s.packet q (fun w => pkType w = 3 && pay w 8 1 = 2) fun w =>
    let core := pay w 10 2
    if 576 ≤ core || !s.owns (pchk w) (clusterOf core) then s.queueFault q 0x4D (pkTs w)
    else (s.semAdd core (pay w 9 1) (pay w 12 2)).queueNext q

/-! WAITF and QBAR (R57). -/

def State.waitPacket (s : State) (q : Nat) (w : List Word) : State :=
  let a := word (pay w 0 8)
  if s.sigMoving w then s
  else match s.futKey (pchk w) a with
  | .error e => s.queueFault q e.cause.toNat (pkTs w)
  | .ok (k, s1) =>
    if s.poisoned k 8 then s1.queueFault q 0x5B (pkTs w)
    else match Mem.readN s.mem k 8 % 4 with
    | 0 => { (s1.setQcb q 0x88 1 2).setQcb q 0x90 8 a.toNat with futs := SMap.put s1.futs k (SMap.getD s1.futs k [] ++ [.queue q]) }
    | 1 => s1.queueNext q
    | 2 => s1.queueFault q 0x49 (pkTs w)
    | _ => s.queueFault q 0x4C (pkTs w)
def execWaitf (q : Nat) (s : State) : Host.Outcome State Fault Refusal := s.packet q (pkType · = 4) (s.waitPacket q)
/-- Every earlier packet is complete, or the queue waits in STATE 3. -/
def execQbar (q : Nat) (s : State) : Host.Outcome State Fault Refusal :=
  .next (match (s.eng q).taken with
    | some w =>
      if pkType w != 5 || !(s.qstate q = 1 || s.qstate q = 3) then s
      else if (s.eng q).open_ = [] then s.settled q w false 0
      else s.setQcb q 0x88 1 3
    | none => s)

/-! UNLOAD (R58, R310 to R312). -/

/-- A context refers to an object (R311): its pc, its exit table, a frame or a rule; a keeper's ETB is in its SPECIAL (R187). -/
def State.refers (s : State) (key : Nat) (o : Obj) : Bool :=
  let c := s.ctx key
  (match c.keeper with
    | none => o.has c.pc || o.has c.etb
    | some id => o.has ((s.keeper id).special.getD 0 0)) ||
  (List.range c.depth).any (fun i => match SMap.get? c.calls i with | some f => o.has f.1 | none => false) ||
  (s.rulesOf c.ruleOwner).any fun x => x.2.obj = o.idx
def State.referring (s : State) (p : Nat) (o : Obj) : List Nat :=
  (s.ctxs.filter fun x => x.2.inSlot && x.2.part = p && s.refers x.1 o).map (·.1)
def State.setObjState (s : State) (p i v : Nat) : State := (s.gvWrite p (s.objAddr p i) (leBytes 1 v)).toOption.getD s
def State.lref (s : State) (p i : Nat) : Nat := (s.peek p (s.objAddr p i + 4) 4).getD 0
/-- The entry's STATE changes, and the text leaves the instruction caches (R311, R312). -/
def State.unloaded (s : State) (p : Nat) (o : Obj) (v : Nat) : State := (s.setObjState p o.idx v).dropText p o.text o.tlen
def State.unloadPacket (s : State) (q : Nat) (w : List Word) : State :=
  let p := pchk w
  if 8 ≤ p then s.settled q w true 0x5E
  else if s.objsMoving p then s
  else match s.findObj p fun o => o.text.toNat = pay w 0 8 with
    | none => (s.readObjs p none).settled q w true 0x58
    | some o =>
      let s := s.readObjs p (some o.idx)
      let busy := s.referring p o
      if pay w 8 1 = 0 then
        if 0 < s.lref p o.idx || busy != [] then s.settled q w false 1
        else (s.unloaded p o 0).settled q w false 0
      else if busy != [] then
        busy.foldl (fun s k => if !(s.ctx k).inSlot then s else match (s.ctx k).keeper with
          | some id => s.saveKeeper id
          | none => (s.preempt k).getD s) s
      else (s.unloaded p o (if s.lref p o.idx = 0 then 0 else 2)).settled q w false 0
def execUnload (q : Nat) (s : State) : Host.Outcome State Fault Refusal := s.packet q (pkType · = 6) (s.unloadPacket q)

/-! MIGRATE (R58, R226). -/

/-- log2 of a page size code; no leaf has the size of any other code. -/
def pageBits (c : Nat) : Nat := match c with | 0 => 16 | 1 => 21 | 2 => 30 | _ => 0
def State.migratePacket (s : State) (q : Nat) (w : List Word) : State :=
  let p := pchk w
  let a := word (pay w 0 8)
  let new := pay w 8 8
  if 8 ≤ p then s.settled q w true 0x5E
  else if !gvForm a then s.settled q w true 0x29
  else match s.walkFrom p a [(39, 13), (30, 9), (21, 9), (16, 5)] (s.part p).ptroot with
    | .error e => s.settled q w true e.cause.toNat
    | .ok l =>
      if bits l.ent 7 6 = 2 then s
      else if bits l.ent 7 6 = 1 then s.settled q w true 0x24
      else if l.size != pageBits (pay w 16 1) || new % 2 ^ l.size != 0 || bit l.ent 63 then s.settled q w true 0x5E
      else if !s.granted p new (2 ^ l.size) then s.settled q w true 0x23
      else
        let m : Mig := ⟨p, l.key, entAddr l.ent, new, 2 ^ l.size, compl w, q, s.index q⟩
        (({ s with
          mem := Mem.write s.mem l.key (BitVec.ofNat 8 (insertField (Mem.read s.mem l.key).toNat 6 2 2))
          migs := SMap.put s.migs s.nextId m
          nextId := s.nextId + 1 } : State).accepted q)
def execMigrate (q : Nat) (s : State) : Host.Outcome State Fault Refusal := s.packet q (pkType · = 7) (s.migratePacket q)

/-- A matrix job that will write its bias steps to other frames. -/
def MxJob.rekey (f : Nat → Nat) (j : MxJob) : MxJob := { j with bias := j.bias.map f }
/-- R226 steps 3 to 6: the bytes, the poison, the registered futures, the monitors and the bias steps to come (R243) of the page go
with it, and the leaf names the new frame. -/
def State.migrated (s : State) (id : Nat) (m : Mig) : State :=
  let inOld (k : Nat) : Bool := m.old ≤ k && k < m.old + m.size
  let dest (k : Nat) : Nat := if inOld k then m.new + (k - m.old) else k
  let line (l : Nat) : Nat := lineOf (dest (l * 256))
  let bytes := s.mem.filter fun x => inOld x.1
  let mem := bytes.foldl (fun mm x => Mem.write mm (dest x.1) x.2) (Mem.clear s.mem m.new m.size)
  let e := Mem.readN s.mem m.leaf 8
  let e1 := insertField (insertField e 8 48 (m.new / 256)) 6 2 0
  let futs := s.futs.filter fun x => !inOld x.1
  let s1 : State := { s with
    mem := Mem.writeN mem m.leaf 8 e1
    poison := (s.poison.filter fun k => k < m.new || m.new + m.size ≤ k) ++ (s.poison.filter inOld).map dest
    futs := (s.futs.filter fun x => inOld x.1).foldl (fun f x => SMap.put f (dest x.1) x.2) futs
    watch := s.watch.map fun x => (x.1, line x.2)
    ctxs := s.ctxs.map fun x =>
      let c := { x.2 with mx := x.2.mx.map (MxJob.rekey dest) }
      match c.stall with
      | some (.mon l t) => (x.1, { c with stall := some (.mon (line l) t) })
      | _ => (x.1, c)
    saves := s.saves.map fun x => (x.1, { x.2 with mx := x.2.mx.map (MxJob.rekey dest) })
    migs := SMap.del s.migs id }
  State.heldOn (State.work (s1.packetDone m.q m.idx, [.resolve m.part m.compl false 0]))
def execMigrationComplete (id : Nat) (s : State) : Host.Outcome State Fault Refusal :=
  .next (match SMap.get? s.migs id with
    | some m => s.migrated id m
    | none => s)

/-! VOID (R51). -/

def execVoid (q : Nat) (s : State) : Host.Outcome State Fault Refusal := s.packet q (pkType · = 0x0A) fun _ => s.queueNext q

end Sys2Proof.Machine
end

