-- ==== Sys2Proof/Machine/Parts.lean ====
section
/-! DEFINITION. Partitions and what the driver does to them: the PART operations (R59 to R62, R64), the end of a reset, and health
monitors (R67, R68). -/

namespace Sys2Proof.Machine
open Sys2Proof

/-! Arguments (R60). -/

def pid (w : List Word) : Nat := pay w 1 1
def arg16 (w : List Word) : Nat := pay w 2 2
def argA (w : List Word) : Nat := pay w 8 8
def argB (w : List Word) : Nat := pay w 16 8
/-- A PART packet of an operation. -/
def State.partOp (s : State) (q op : Nat) (f : List Word → State) : Host.Outcome State Fault Refusal :=
  s.packet q (fun w => pkType w = 8 && pay w 0 1 = op) f
/-- The operation done, or refused with a cause. -/
def State.orFail (s : State) (q : Nat) (w : List Word) (cause : Option Nat) (done : State) : State :=
  match cause with
  | some c => s.settled q w true c
  | none => done.settled q w false 0
def State.active (s : State) (p : Nat) : Bool := p < 8 && (s.part p).st = .active

/-! CREATE (R59, R131). -/

/-- A descriptor with a reserved byte that is not zero, or a CPOOL that R131 does not allow. -/
def State.descriptorBad (s : State) (a : Nat) : Bool :=
  let z (o n : Nat) := Mem.readN s.mem (a + o) n != 0
  let c := Mem.readN s.mem (a + 92) 2
  !inHbm a || z 33 7 || z 94 2 || z 104 152 || c % 64 != 0 || c < 64 || 448 < c
def State.partOfDesc (s : State) (a : Nat) : Part :=
  let d (o n : Nat) := Mem.readN s.mem (a + o) n
  { Part.empty with
    st := .active, desc := a, ptroot := d 0 8, ttbase := word (d 8 8), gtbase := word (d 16 8), evring := word (d 24 8),
    evsize := d 32 1, hvec := word (d 56 8), wdog := d 64 8, savebase := word (d 80 8), saven := d 88 4, otbase := word (d 96 8) }
/-- A set bit of ARGA above bit 47 fails (log entry 28). -/
def execPartCreate (q : Nat) (s : State) : Host.Outcome State Fault Refusal :=
  s.partOp q 1 fun w =>
    let p := pid w
    let cl := (List.range 48).filter (bit (argA w))
    let bad : Bool := 8 ≤ p || (s.part p).st != .unused || 2 ^ 48 ≤ argA w || cl.any (fun c => (s.ownerOf c).isSome) ||
      s.descriptorBad (argB w)
    let s1 := s.setPart p (s.partOfDesc (argB w))
    s.orFail q w (if bad then some 0x5E else none) (cl.foldl (fun s c => s.passCluster c (some p)) s1)

/-! RESET (R62, R163, R184). -/

/-- The rules of an owner end without a trace. -/
def State.wipeRules (s : State) (o : RuleOwner) : State :=
  let l := s.holds.filter fun x => match x.1 with | .rule o' _ => o' = o | _ => false
  let s1 := l.foldl (fun s x => s.dropHold x.1 x.2 true) s
  let s2 := (s1.rulesOf o).foldl (fun s x => if x.2.sub = 0 then s else s.unpin x.2.sub) s1
  { s2.setRules o [] with reqs := s2.reqs.filter fun r => match r.who with | .rule o' _ => o' != o | _ => true }
/-- A keeper goes. -/
def State.wipeKeeper (s : State) (id : Nat) : State :=
  let x := s.keeper id
  let s1 := match x.at_ with | some key => s.setCtx key Ctx.empty | none => s
  ({ s1 with keepers := SMap.del s1.keepers id } : State).freeSave (saveKey x.part x.save)
/-- A job is cancelled with its partition (R447). -/
def State.wipeJob (s : State) (id : Nat) : State :=
  let j := s.job id
  let x := s.dropLandings id
  let s1 := j.tiles.foldl (fun s h => s.dropHold (.job id) h true) x.1
  State.work (andThen (s1, x.2) fun s => s.endJob id (.error (exc 0x5F)))
/-- A queue stops taking packets (R47, R60). The packet in hand is not accepted, and is taken again when the queue is enabled; but a
LAUNCH whose root has been created goes on (log entry 28). A faulted queue leaves its fault, with RIDX still at the faulting
packet, so that a later enable takes that packet again (log entry 28). -/
def State.stopQueue (s : State) (q : Nat) : State :=
  let s1 := (s.setQcb q 0x88 1 0).setQcb q 0x90 8 0
  { s1.setEng q (if (s1.eng q).root.isSome then s1.eng q else { s1.eng q with taken := none }) with
    futs := (s1.futs.map fun x => (x.1, x.2.filter (· != Waiter.queue q))).filter (·.2 != []) }
/-- The rules of a partition that fire, as (context key, rule slot). -/
def State.firingsOf (s : State) (p : Nat) : List (Nat × Nat) :=
  (s.resident.filter fun key => (s.ctx key).inSlot && (s.ctx key).part = p).flatMap fun key =>
    ((s.rulesOf (s.ctx key).ruleOwner).filter (·.2.st = .firing)).map fun x => (key, x.1)
/-- R62: everything of the partition is cancelled, and its queues are disabled. -/
def State.resetPart (s : State) (p : Nat) : State :=
  let s1 := (s.ruleOwners p).foldl State.wipeRules s
  let s2 := ((s1.keepers.filter (·.2.part = p)).map (·.1)).foldl State.wipeKeeper s1
  let s3 := (s2.subs.filter (·.2.part = p)).foldl (fun s x => s.endSub x.1 x.2) s2
  let s4 := ((s3.jobs.filter (·.2.part = p)).map (·.1)).foldl State.wipeJob s3
  let s5 := ((s4.tasks.filter fun x => x.2.part = p && x.2.live?).map (·.1)).foldl (fun s t => State.work (s, [.cancel t 0x5F true])) s4
  let s6 := ((SMap.keys s5.qs).filter fun q => (s5.owners q).contains p).foldl State.stopQueue s5
  let s7 := (s6.moves.filter fun m => m.from_ = p || m.dest = p).foldl (fun s m => (s.dropMove m).packetEnd m.q m.idx 8 m.compl true 0x5E) s6
  let s8 := (s7.migs.filter (·.2.part = p)).foldl (fun s x => { s.packetEnd x.2.q x.2.idx p x.2.compl true 0x5F with migs := SMap.del s.migs x.1 }) s7
  { s8 with tileMoves := s8.tileMoves.filter fun m => (s8.tile m.key).part != p, reqs := s8.reqs.filter (·.part != p) }
/-- A firing in flight comes to its end first (R179); while a tile of it moves, the packet waits. -/
def execPartReset (q : Nat) (s : State) : Host.Outcome State Fault Refusal :=
  s.partOp q 2 fun w =>
    let p := pid w
    if !s.active p then s.settled q w true 0x5E
    else
      let i := s.index q
      let s0 := (s.firingsOf p).foldl (fun s x => s.endFiring x.1 x.2) s
      if s0.firingsOf p != [] then s0
      else ((s0.setPart p { s0.part p with st := .resetting, reset := some (q, i, compl w) }).resetPart p).accepted q

/-- R163, R62: its tiles are free, the reads that other partitions had left on them abandoned and the tasks of others that wait for
an uncommitted one cancelled (R155); its clusters, pool pages and HBM ranges unowned, and zeroed where nobody else holds them (R63); the number
is unused. -/
def State.resetDone (s : State) (p : Nat) : State :=
  let mine := s.tiles.filter (·.2.part = p)
  let names := mine.flatMap fun x => (handlesOf (x.1 / 8192) (x.1 % 8192) x.2.gen) ++
    (s.moved.filter fun m => m.2 = x.1 * 2048 + x.2.gen).map fun m => BitVec.ofNat 32 m.1
  let s0 := mine.foldl (fun s x => if x.2.st = .free then s else s.abandonEvent x.1 { x.2 with abn := x.2.abn + x.2.rem }) s
  let undone := (s.tasks.filter fun x => x.2.st = .waiting && x.2.ins.any fun y => match s.tileOf y.2 with
    | some tk => (s.tile tk).part = p && (s.tile tk).st = .alloc
    | none => false).map (·.1)
  let gone (k : Nat) : Bool := s.grants.any fun g => g.p0 = p && g.p1 = 0xFF && g.base ≤ k && k < g.base + g.len
  let s1 : State := { s0 with
    mem := s0.mem.filter fun x => !gone x.1
    poison := s0.poison.filter fun k => !gone k
    tiles := s.tiles.map fun x => if x.2.part = p then (x.1, { Tile.empty with gen := x.2.gen }) else x
    holds := s.holds.filter fun x => !names.contains x.2
    moved := s.moved.filter fun m => !names.contains (BitVec.ofNat 32 m.1)
    streams := s.streams.filter fun x => x.1 / 65536 != p
    quotas := s.quotas.filter fun x => x.1 % 8 != p
    saves := s.saves.filter fun x => x.2.part != p
    grants := s.grants.filterMap fun g =>
      if g.p0 = p then (if g.p1 = 0xFF then none else some { g with p0 := g.p1, p1 := 0xFF })
      else some (if g.p1 = p then { g with p1 := 0xFF } else g)
    pages := s0.pages.filter fun x => x.2 != p + 1
    held := s0.held.filter fun h => match h with
      | .resolve o _ _ _ | .event o _ _ _ _ _ _ _ => o != p
      | _ => true
    dead := s.dead.filter fun x => x.1 / 4 != p }
  let s2 := (s1.clustersOf p).foldl (fun s c => s.passCluster c none) s1
  let s3 := State.work ({ s2.dropText p 0 0 with parts := SMap.del s2.parts p }, undone.map fun t => .cancel t 0x5F true)
  match (s.part p).reset with
  | some (q, i, c) => s3.packetEnd q i 8 c false 0
  | none => s3
def execPartitionResetComplete (p : Nat) (s : State) : Host.Outcome State Fault Refusal :=
  .next (if (s.part p).st = .resetting && !(s.ctxs.any fun x => x.2.slot != .free && x.2.part = p) &&
      !(s.jobs.any (·.2.part = p)) then s.resetDone p else s)

/-! MOVE (R61). -/

/-- What waits in the deques of a cluster goes back to the Pithead, with its outputs. -/
def State.emptyDeques (s : State) (c : Nat) : State :=
  (coresOf c).foldl (fun s core =>
    let l := (s.deque core).reverse
    l.foldl (fun s e => match e with
      | .task t => let x := s.task t
        (s.setTask t { x with st := .ready }).enqueue x.die x.part x.prio e
      | .keeper id => s.keeperEnter id
      | .gang _ => s) (s.setDeque core [])) s
def State.movePart (s : State) (q : Nat) (w : List Word) : State :=
  let c := arg16 w
  let dest := pid w
  if 48 ≤ c || !(dest = 0xFF || s.active dest) || (dest != 0xFF && s.descriptorBad (s.part dest).desc) then s.settled q w true 0x5E
  else if s.moves.any (·.cluster = c) then s
  else match s.ownerOf c with
    | none => (if dest = 0xFF then s else s.passCluster c (some dest)).settled q w false 0
    | some p =>
      let keys := ((coresOf c).flatMap slotsOf).filter fun k => (s.ctx k).slot != .free && (s.ctx k).part = p
      let n := (keys.filter fun k => (s.ctx k).keeper.isNone && (s.ctx k).slot != .save).length
      if p = dest then s.settled q w false 0
      else if ((s.clustersOf p).filter fun k => !s.leaving p k).length ≤ 1 || (s.freeSaves p).length < n then s.settled q w true 0x5E
      else if keys.any fun k => (s.rulesOf (s.ctx k).ruleOwner).any (·.2.st = .firing) then s
      else
        let m : Move := ⟨c, p, dest, (s.freeSaves p).take n, [], compl w, q, s.index q⟩
        (({ s.emptyDeques c with moves := s.moves ++ [m] } : State).accepted q).movesOn
def execPartMove (q : Nat) (s : State) : Host.Outcome State Fault Refusal := s.partOp q 3 (s.movePart q)

/-! WEIGHT, QUOTA, HBM (R60, R63). -/

def execPartWeight (q : Nat) (s : State) : Host.Outcome State Fault Refusal :=
  s.partOp q 4 fun w =>
    let p := pid w
    s.orFail q w (if s.active p && 1 ≤ arg16 w && arg16 w ≤ 255 then none else some 0x5E)
      (s.setPart p { s.part p with weight := arg16 w })

/-- ARG16[14:12] must be zero (log entry 28). -/
def execPartQuota (q : Nat) (s : State) : Host.Outcome State Fault Refusal :=
  s.partOp q 5 fun w =>
    let p := pid w
    let die := bit (arg16 w) 15
    let i := arg16 w % 2 ^ 12
    let pool := if die then 576 + i else i
    let g := bits (argA w) 31 0
    let c := bits (argA w) 63 32
    let others := ((List.range 8).filter (· != p)).foldl (fun n o => n + (s.quota pool o).g) 0
    let bad : Option Nat :=
      if !s.active p || bits (arg16 w) 14 12 != 0 || (if die then 4 ≤ i else 576 ≤ i) then some 0x5E
      else if c < g || s.poolPages pool < c || s.poolPages pool < others + g then some 0x35
      else none
    s.orFail q w bad { s with quotas := SMap.put s.quotas (pool * 8 + p) ⟨g, c⟩ }

/-- The parts of a grant outside a range. -/
def Grant.outside (g : Grant) (lo n : Nat) : List Grant :=
  ([{ g with len := min (g.base + g.len) lo - g.base }, { g with base := max g.base (lo + n), len := g.base + g.len - max g.base (lo + n) }]).filter
    (0 < ·.len)
/-- A grant is held by exactly these owners (0xFF: no second one). -/
def Grant.heldBy (g : Grant) (p p2 : Nat) : Bool := (g.p0 = p && g.p1 = p2) || (g.p0 = p2 && g.p1 = p)
/-- A range of HBM passes to its owners; what was not held by exactly these is zeroed (R60, R63). -/
def State.grantRange (s : State) (p p2 lo n : Nat) : State :=
  let kept (k : Nat) : Bool := s.grants.any fun g => g.heldBy p p2 && g.base ≤ k && k < g.base + g.len
  let gone (k : Nat) : Bool := lo ≤ k && k < lo + n && !kept k
  { s with
    mem := s.mem.filter fun x => !gone x.1
    poison := s.poison.filter fun k => !gone k
    grants := s.grants.flatMap (·.outside lo n) ++ [⟨lo, n, p, p2⟩] }
/-- ARG16 names one owner in its low byte, active and not PID itself; set bits above it fail (log entry 28). -/
def execPartHbm (q : Nat) (s : State) : Host.Outcome State Fault Refusal :=
  s.partOp q 6 fun w =>
    let p := pid w
    let p2 := arg16 w % 256
    let lo := argA w
    let n := argB w
    let bad : Bool := !(s.active p || p = 0xFE) || !(p2 = 0xFF || (s.active p2 && p2 != p)) || 256 ≤ arg16 w || lo % 2 ^ 30 != 0 ||
      n % 2 ^ 30 != 0 || n = 0 || !inHbm lo || stackBytes < lo % 2 ^ 37 + n
    s.orFail q w (if bad then some 0x5E else none) (s.grantRange p p2 lo n)

/-! QASSIGN and QSTATE (R46, R47, R52, R60). -/

/-- ARGA names one owner in its low byte, active and not PID itself; set bits above it fail (log entry 28). -/
def execPartQassign (q : Nat) (s : State) : Host.Outcome State Fault Refusal :=
  s.partOp q 7 fun w =>
    let p := pid w
    let n := arg16 w
    let o := argA w % 256
    let bad : Option Nat :=
      if !s.active p || n = 0 || 4096 ≤ n || 256 ≤ argA w || s.qstate n != 0 then some 0x5E
      else if o != 0xFF && !s.feature 10 then some 0x59
      else if o != 0xFF && (!s.active o || o = p) then some 0x5E
      else none
    s.orFail q w bad (((s.setQcb n 0x11 1 p).setQcb n 0x12 1 o).setEng n (s.eng n))

/-- R46: why a queue cannot be enabled; a shared ring in memory of OWN0 alone is no reason (R60; log entry 28). -/
def State.qcbBad (s : State) (q : Nat) : Option Nat :=
  let z (o n : Nat) := s.qcbField q o n != 0
  let r := s.qcbField q 0x10 1
  if z 0x13 13 || z 0x20 96 || z 0x98 104 || r < 6 || 16 < r || s.qcbField q 0x08 8 % 4096 != 0 then some 0x5E
  else if bit (s.qcbField q 0x08 8) 63 && !s.feature 8 then some 0x59
  else none
/-- A queue is enabled; from a fault it goes on past the faulting packet (R52), but not from a fault that a DISABLE has ended (log
entry 28). -/
def State.enableQueue (s : State) (q : Nat) : State :=
  let s1 := if s.qstate q = 4 then s.setQcb q 0x80 8 (s.qcbField q 0x80 8 + 1) else s
  (s1.setQcb q 0x88 1 1).setQcb q 0x90 8 0
/-- A ring in HBM has a page under migration, for which a reset waits (R226). -/
def State.ringMoving (s : State) (q : Nat) : Bool :=
  !bit (s.qcbField q 0x08 8) 63 && q != 0 &&
    s.gvMoving (s.qcbField q 0x11 1) (word (bits (s.qcbField q 0x08 8) 62 12 * 4096)) (64 * 2 ^ s.qcbField q 0x10 1)
/-- A LAUNCH that has not been accepted goes with a reset of its queue: its root is cancelled (log entry 28). -/
def State.dropRoot (s : State) (q : Nat) : State :=
  match (s.eng q).root with
  | none => s
  | some (t, g) => if s.outside t g then State.work (s, (s.rootNow t g).toList.map fun u => .cancel u 0x5F true) else s
/-- A disabled queue is reset: its indices are 0, and every header of its ring reads LAP 0. -/
def State.resetQueue (s : State) (q : Nat) : Except Exc State :=
  let s1 := s.dropRoot q
  let s2 := s1.setEng q { s1.eng q with taken := none, root := none, era := (s1.eng q).era + 1 }
  (List.range (2 ^ s.qcbField q 0x10 1)).foldlM (fun s i => s.ringWrite q i 0 (leBytes 8 0))
    ((s2.setQcb q 0 8 0).setQcb q 0x80 8 0)
/-- The queue that a QSTATE packet of a kind names; 0x5E for queue 0, for code 3 and for set bits above the code (log entry 28). -/
def State.queueOp (s : State) (q op : Nat) (f : List Word → Nat → State) : Host.Outcome State Fault Refusal :=
  s.packet q (fun w => pkType w = 8 && pay w 0 1 = 8 && (argA w = op || (op = 0 && (4 ≤ argA w || argA w = 3)))) fun w =>
    if arg16 w = 0 || 4096 ≤ arg16 w || 3 ≤ argA w then s.settled q w true 0x5E else f w (arg16 w)
def execQstateDisable (q : Nat) (s : State) : Host.Outcome State Fault Refusal :=
  s.queueOp q 0 fun w n => (s.stopQueue n).settled q w false 0
def execQstateEnable (q : Nat) (s : State) : Host.Outcome State Fault Refusal :=
  s.queueOp q 1 fun w n =>
    if s.qstate n != 0 && s.qstate n != 4 then s.settled q w false 0
    else s.orFail q w (s.qcbBad n) (s.enableQueue n)
/-- With RSIZE outside 6 to 16 the reset fails with 0x5E (log entry 28). -/
def execQstateReset (q : Nat) (s : State) : Host.Outcome State Fault Refusal :=
  s.queueOp q 2 fun w n =>
    if s.qstate n != 0 || s.qcbField n 0x10 1 < 6 || 16 < s.qcbField n 0x10 1 then s.settled q w true 0x5E
    else if s.ringMoving n then s
    else match s.resetQueue n with
      | .error e => s.settled q w true e.cause.toNat
      | .ok s1 => s1.settled q w false 0

/-! Debugging (R64). -/

/-- The save-area slot that a context has gone to. -/
def State.slotNo (s : State) (key : Nat) : Nat := ((s.ctx key).image.getD 0) % 2 ^ 32
/-- DBGSTOP (R64); ARGA over 2 fails, and so does a slot that holds a keeper (log entry 28). -/
def State.debugStop (s : State) (q : Nat) (w : List Word) : State :=
  let p := pid w
  let core := arg16 w
  let key := core * 4 + argA w % 4
  let c := s.ctx key
  if !s.active p || 576 ≤ core || !s.owns p (clusterOf core) || 3 ≤ argA w || c.slot = .free || c.part != p || c.keeper.isSome then
    s.settled q w true 0x5E
  else
    let all := (s.instances c.task).filterMap s.slotOfTask
    if (s.freeSaves p).length < all.length then s.settled q w true 0x5E
    else match s.stopTask c.task .held true with
      | none => s
      | some s1 =>
        let s2 := if (s.task c.task).gang.isSome then all.foldl (fun s k =>
          s.partEvent p (dieOf (coreOf k)) 0x0D 0 (coreOf k) (word (s.slotNo k)) (word (coreOf k))) s1 else s1
        (s2.modTask c.task fun x => { x with dbg := some (q, s.index q, compl w) }).accepted q
def execDbgstop (q : Nat) (s : State) : Host.Outcome State Fault Refusal := s.partOp q 9 (s.debugStop q)

/-- DBGRES (R64); a bit of ARG16 above bit 0 fails (log entry 28). -/
def State.debugGo (s : State) (q : Nat) (w : List Word) : State :=
  let p := pid w
  let held := if s.active p && argA w < 2 ^ 32 && arg16 w < 2 then SMap.get? s.saves (saveKey p (argA w)) else none
  match (held.filter (·.held)).bind (·.task) with
  | none => s.settled q w true 0x5E
  | some t =>
    let all := (s.instances t).filter fun i => (s.task i).live?
    if all.any fun i => (s.slotOfTask i).isSome then s
    else
      let s1 := all.foldl (fun s i => s.modTask i fun x => { x with st := .preempted, stepping := bit (arg16 w) 0 }) s
      let freed (x : Nat × SaveSlot) : Nat × SaveSlot :=
        if (x.2.task.any fun i => all.contains i) then (x.1, { x.2 with held := false }) else x
      let s2 := { s1 with saves := s1.saves.map freed }
      (s2.readyAgain t .preempted).settled q w false 0
def execDbgres (q : Nat) (s : State) : Host.Outcome State Fault Refusal := s.partOp q 10 (s.debugGo q)

/-- DBGBRK (R64); ARG16 over 3 fails (log entry 28). -/
def execDbgbrk (q : Nat) (s : State) : Host.Outcome State Fault Refusal :=
  s.partOp q 11 fun w =>
    let p := pid w
    let x := s.part p
    s.orFail q w (if s.active p && arg16 w < 4 && argA w % 8 = 0 then none else some 0x5E)
      (s.setPart p { x with brk := if argA w = 0 then SMap.del x.brk (arg16 w) else SMap.put x.brk (arg16 w) (word (argA w)) })

/-! Health monitors (R67, R68). -/

/-- R67 names 0x5E for SRC; the other limits fail with it too, and MODE 0 leaves WIN and OUT unchecked (log entry 28). -/
def execMoncfg (q : Nat) (s : State) : Host.Outcome State Fault Refusal :=
  s.packet q (pkType · = 9) fun w =>
    let die := pay w 0 1
    let mon := pay w 1 1
    let src := pay w 2 1
    let mode := pay w 3 1
    let win := pay w 8 8
    let out := pay w 16 8
    let bad : Bool := 4 ≤ die || 32 ≤ mon || src = 0 || 7 ≤ src || 3 ≤ mode || (mode != 0 && (win < 1000 || !inHbm out))
    s.orFail q w (if bad then some 0x5E else none) { s with
      monitors := SMap.put s.monitors (die * 32 + mon) { Monitor.empty with
        on := mode != 0, src := src, mode := mode, sel := pay w 4 4, win := win, out := out, start := s.dtime.toNat, last := s.bclk } }

/-- The value that a periodic source has. -/
def State.periodic (s : State) (m : Monitor) : Option Nat :=
  match m.src with
  | 4 => some ((word (s.qcbField m.sel 0 8) - word (s.qcbField m.sel 0x80 8)).toNat)
  | 5 =>
    let pool := if bit m.sel 15 then 576 + m.sel % 2 ^ 12 else m.sel % 2 ^ 12
    some (s.poolPages pool - s.freePages pool)
  | _ => none
def execMonitorPeriodicSample (die mon : Nat) (s : State) : Host.Outcome State Fault Refusal :=
  .next (match SMap.get? s.monitors (die * 32 + mon) with
    | none => s
    | some m => match s.periodic m with
      | some v => if m.on && m.last + 1024 ≤ s.bclk then
          { s with monitors := SMap.put s.monitors (die * 32 + mon) { m.take v with last := s.bclk } } else s
      | none => s)

/-- The result record of a window. -/
def Monitor.record (m : Monitor) : List Byte :=
  ([m.start, m.start + m.win, m.count, m.sum, m.min_, m.max_].flatMap (leBytes 8)) ++ leBytes 16 0 ++
  places 32 4 (fun i => SMap.getD m.bins i 0) ++ leBytes 64 0
/-- R68. SRCID of the event is die × 32 + the monitor's number, INFO0 is OUT (log entry 34). -/
def execMonitorWindowEnd (die mon : Nat) (s : State) : Host.Outcome State Fault Refusal :=
  .next (match SMap.get? s.monitors (die * 32 + mon) with
    | none => s
    | some m =>
      if !m.on || s.dtime.toNat < m.start + m.win then s
      else
        let next := { Monitor.empty with
          on := m.mode = 2, src := m.src, mode := m.mode, sel := m.sel, win := m.win, out := m.out, start := m.start + m.win, last := m.last }
        ({ s.store m.out m.record with monitors := SMap.put s.monitors (die * 32 + mon) next } : State).devEvent 0 8 0xFF (die * 32 + mon)
          (word m.out) 0)

end Sys2Proof.Machine
end

