-- ==== Sys2Proof/Machine/Package.lean ====
section
/-! DEFINITION. The package: secure boot (R27 to R32), power and heat (R14), the host's port and registers (R15, R69), the feature
lock and queue 0 (R38, R47), attestation (R34 to R36), the die split (R244), scrubbers (R41 to R43). -/

namespace Sys2Proof.Machine
open Sys2Proof

/-! Images and module reset. -/

/-- Bytes 0x000 to 0x04F of the header (R28). -/
def Image.head (i : Image) : List Byte :=
  leBytes 4 i.magic.toNat ++ leBytes 2 i.hver.toNat ++ leBytes 2 i.itype.toNat ++ leBytes 4 i.svn.toNat ++ leBytes 4 i.blen.toNat ++
  leBytes 8 i.build.toNat ++ leBytes 48 i.bdig.toNat ++ [i.eks, i.lks] ++ leBytes 6 i.rsvd.toNat
/-- The whole image: its header of 2,048 bytes, then its body. -/
def Image.bytes (i : Image) : List Byte :=
  i.head ++ leBytes 96 i.esig.toNat ++ leBytes 1772 i.lsig.toNat ++ leBytes 100 i.rsvd2.toNat ++ i.body
/-- R29, R32: the cause of the rejection of an image for a type; 0 when it is accepted. Which cause an image reports that fails
several checks, and the cause of a key slot above 3, are the model's choices (log entry 25). -/
def Sec.verify (x : Sec) (ty : Nat) (i : Image) : Nat :=
  let e := i.eks.toNat
  let l := i.lks.toNat
  if i.magic != 0x57465A4C then 1
  else if i.hver != 1 || i.itype.toNat != ty || 4 ≤ e || 4 ≤ l || i.rsvd != 0 || i.rsvd2 != 0 then 2
  else if i.bdig != Config.sha384 (i.body.take i.blen.toNat) then 3
  else if !Config.ecdsaVerify (SMap.getD x.ecdsaFuse e 0) (Config.sha384 i.head) (leBytes 96 i.esig.toNat) then 4
  else if !Config.lmsVerify (SMap.getD x.lmsFuse l 0) i.head (leBytes 1772 i.lsig.toNat) then 5
  else if x.ecdsaRevoked.contains e || x.lmsRevoked.contains l then 6
  else if i.svn.toNat < SMap.getD x.rollback ty 0 then 7
  else 0
/-- What one slot gives: the image, or the cause; an empty slot has no MAGIC. -/
def Sec.slot (x : Sec) (ty ab : Nat) : Except Nat Image :=
  match SMap.get? x.flash (ty * 2 + ab) with
  | none => .error 1
  | some i => if x.verify ty i = 0 then .ok i else .error (x.verify ty i)
/-- What the loader found: types that booted from slot B, types that failed, the first cause, the images. -/
structure Boot where
  fallbk : List Nat
  failed : List Nat
  cause : Nat
  ok : List (Nat × Image)
  deriving DecidableEq, Repr
/-- R30: slot A, then slot B. -/
def Sec.load (x : Sec) (b : Boot) (ty : Nat) : Boot :=
  let first (b : Boot) (c : Nat) : Boot := if b.cause = 0 then { b with cause := c } else b
  match x.slot ty 0 with
  | .ok i => { b with ok := b.ok ++ [(ty, i)] }
  | .error c => match x.slot ty 1 with
    | .ok i => { first b c with fallbk := b.fallbk ++ [ty], ok := b.ok ++ [(ty, i)] }
    | .error _ => { first b c with failed := b.failed ++ [ty] }
/-- The types whose images are verified: SPFW first, and the others only when SPFW is accepted. -/
def Sec.boot (x : Sec) : Boot :=
  let b := x.load ⟨[], [], 0, []⟩ 1
  if b.failed = [] then [2, 3, 4, 5, 6].foldl x.load b else b
/-- R30: STAGE of an outcome. -/
def Boot.stage (b : Boot) : Nat :=
  if b.failed.contains 1 then 15
  else if b.failed.any (· != 6) then (if b.failed.contains 6 then 15 else 4)
  else 3
/-- The types that run in a stage. -/
def Boot.runs (b : Boot) : List Nat := match b.stage with | 3 => [1, 2, 3, 4, 5] | 4 => [1, 6] | _ => []
def maskOf (l : List Nat) : Nat := l.foldl (fun n t => n + 2 ^ (t - 1)) 0
/-- BOOTSTAT (R32). -/
def Boot.stat (b : Boot) : Word := word (maskOf b.fallbk * 2 ^ 42 + maskOf b.failed * 2 ^ 36 + b.stage * 2 ^ 32 + b.cause)

/-- R27 to R32: the module after a reset. What is not volatile stays: the flash and the fuses, EPOCH, the serial number, the leaf
counter, what the module offers; and host memory, and the model's own agenda and counter. -/
def State.rebooted (s : State) : State :=
  let r := State.reset
  let b := s.sec.boot
  { r with
    mem := s.mem.filter fun x => hostKey 0 ≤ x.1 && x.1 < lsKey 0 0
    mgmt := { r.mgmt with
      bootstat := b.stat, foffer := s.mgmt.foffer, epoch := s.mgmt.epoch, modsn := s.mgmt.modsn, leaf := s.mgmt.leaf }
    sec := { s.sec with
      running := (b.ok.filter fun x => b.runs.contains x.1).map fun x => (x.1, x.2.svn.toNat, Config.sha384 x.2.bytes) }
    hostOut := s.hostOut
    spdm := s.spdm
    refused := s.refused
    freeCtr := s.freeCtr
    agenda := s.agenda }
def execModuleReset (s : State) : Host.Outcome State Fault Refusal := .next s.rebooted
/-- R69 MGRST. -/
def State.writeMgrst (s : State) (v : Word) : State := if v.toNat % 2 ^ 16 = 0x5254 then s.rebooted else s
def execMgrst (v : Word) (s : State) : Host.Outcome State Fault Refusal := .next (s.writeMgrst v)
/-- STAGE of BOOTSTAT. -/
def State.stage (s : State) : Nat := bits s.mgmt.bootstat.toNat 35 32

/-- R31. -/
def execAntiRollbackAdvance (ty : Nat) (s : State) : Host.Outcome State Fault Refusal :=
  .next (match SMap.get? s.sec.running ty with
    | some (svn, _) =>
      { s with sec := { s.sec with rollback := SMap.put s.sec.rollback ty (max svn (SMap.getD s.sec.rollback ty 0)) } }
    | none => s)

/-! Power and heat (R14). -/

/-- A limit of the end of throttling is exceeded: the 10 ms start anew. -/
def State.uneasy (s : State) : State := { s with power := { s.power with calm := none } }
/-- Power and a junction temperature that reach a limit start throttling; while it lasts, they interrupt its end. -/
def execFieldThrottleStart (watts temp : Nat) (s : State) : Host.Outcome State Fault Refusal :=
  .next (if s.power.throttled then (if 1440 < watts || 100 < temp then s.uneasy else s)
    else if 1500 ≤ watts || 105 ≤ temp then
      ({ s with power := { s.power with throttled := true, calm := none } } : State).devEventAny 0 1 0
    else s)
def execFieldThrottleEnd (watts temp : Nat) (s : State) : Host.Outcome State Fault Refusal :=
  .next (if !s.power.throttled then s
    else if 1440 < watts || 100 < temp then s.uneasy
    else match s.power.calm with
      | none => { s with power := { s.power with calm := some s.dtime.toNat } }
      | some t =>
        if t + 10000000 ≤ s.dtime.toNat then
          ({ s with power := { s.power with throttled := false, calm := none } } : State).devEventAny 0 2 0
        else s)
def execThermalShutdown (temp : Nat) (s : State) : Host.Outcome State Fault Refusal :=
  .next (if 115 ≤ temp then { s with power := { s.power with halted := true, cxlUp := false } } else s)

/-! The host port (R15, R243). -/

/-- The device address that a decoder gives a host address. -/
def State.decoded (s : State) (a : Nat) : Option Nat :=
  (s.hdm.find? fun x => x.1 ≤ a && a < x.1 + x.2.1).map fun x => x.2.2 + (a - x.1)
/-- The HBM that the driver writes although it is granted to no one: the queue table, and the ring of queue 0 that QCB 0 names
(R45 to R47; log entry 24). -/
def State.hostNamed (s : State) (a : Nat) : Bool :=
  let has (lo n : Nat) : Bool := lo ≤ a && a < lo + n
  has s.mgmt.qtbase.toNat (2 ^ 20) ||
  (!bit (s.qcbField 0 0x08 8) 63 && s.qcbField 0 0x10 1 ≤ 16 && has (bits (s.qcbField 0 0x08 8) 62 12 * 4096) (64 * 2 ^ s.qcbField 0 0x10 1))
/-- R15: HBM that is not granted to the host, but for what R45 to R47 have the driver write. -/
def State.hostBarred (s : State) (a : Nat) : Bool :=
  let within (g : Grant) : Bool := g.base ≤ a && a < g.base + g.len
  !s.grants.any (fun g => g.p0 = 0xFE && within g) && (s.grants.any within || !s.hostNamed a)
def State.answer (s : State) (x : Option Word) : State := { s with hostOut := s.hostOut ++ [x] }
/-- R15: eight bytes through CXL.mem. In STAGE 15 only CXL.io is up (R30). Poisoned data reads as a value that the manual does not
give (log entry 24). -/
def State.hostAccess (s : State) (wr : Bool) (addr data : Word) : State :=
  let keys := (List.range 8).filterMap fun i => (s.decoded (addr.toNat + i)).filter inHbm
  if s.stage = 15 || keys.length < 8 then s.answer none
  else match keys.find? s.hostBarred with
    | some a =>
      let s1 := s.devEventAny 0 7 (word a)
      if wr then s1 else s1.answer (some (BitVec.allOnes 64))
    | none =>
      if wr then (keys.zip (leBytes 8 data.toNat)).foldl (fun s x => s.store x.1 [x.2]) s
      else if keys.any s.poison.contains then
        let (v, s1) := s.fresh
        s1.answer (some (word v))
      else s.answer (some (word (leNat (keys.map (Mem.read s.mem)))))
def execHostCxlMemAccess (wr : Bool) (addr data : Word) (s : State) : Host.Outcome State Fault Refusal :=
  .next (if s.power.cxlUp then s.hostAccess wr addr data else s)
/-- R15: the host sets its decoders: two at most, in units of 256 MiB, 384 GB together. -/
def State.setHdm (s : State) (l : List (Nat × Nat × Nat)) : State :=
  let unit (n : Nat) : Bool := n % 2 ^ 28 = 0
  if !s.power.cxlUp || 2 < l.length || !l.all (fun x => unit x.1 && unit x.2.1 && unit x.2.2) ||
      384 * 10 ^ 9 < l.foldl (fun n x => n + x.2.1) 0 then s
  else { s with hdm := l }

/-! The feature lock and queue 0 (R38, R40, R47). -/

/-- Indices and the LAP of every header of queue 0 zero. -/
def State.zeroQueue0 (s : State) : State := (s.resetQueue 0).toOption.getD s
/-- The checks of R46 on QCB 0 failed. -/
def State.refuseQueue0 (s : State) : State := s.setQcb 0 0x88 8 0x5E00
/-- R47: QCB 0 at the lock. In recovery no queue is enabled (R30). -/
def State.lockQueue0 (s : State) : State :=
  let s1 := (s.setQcb 0 0x11 1 0xFF).setQcb 0 0x12 1 0xFF
  if s1.stage = 3 && (s1.qcbBad 0).isNone then
    (((s1.setQcb 0 0 8 0).setQcb 0 0x80 8 0).setQcb 0 0x88 8 1).setEng 0 QEng.empty
  else s1.refuseQueue0
def State.writeFlock (s : State) (v : Word) : State :=
  let m := s.mgmt
  if !bit v.toNat 0 || m.flock || m.epoch = 0xFFFFFF || !(s.stage = 3 || s.stage = 4) then s
  else State.lockQueue0 { s with
    mgmt := { m with faccept := (m.faccept &&& m.foffer) ||| 1, flock := true, epoch := m.epoch + 1 } }
def execFlock (v : Word) (s : State) : Host.Outcome State Fault Refusal := .next (s.writeFlock v)

/-- R47: a write of Q0EN. A queue 0 in fault whose QCB fails the checks stays in its fault, and a reset with RSIZE outside 6 to 16
is ignored (log entry 28). -/
def State.queue0 (s : State) (v : Nat) : State :=
  if !s.mgmt.flock then s
  else match v with
    | 0 => s.stopQueue 0
    | 1 =>
      if s.stage != 3 || (s.qstate 0 != 0 && s.qstate 0 != 4) then s
      else if (s.qcbBad 0).isSome then (if s.qstate 0 = 0 then s.refuseQueue0 else s) else s.enableQueue 0
    | 2 => if s.qstate 0 = 0 && 6 ≤ s.qcbField 0 0x10 1 && s.qcbField 0 0x10 1 ≤ 16 then s.zeroQueue0 else s
    | _ => s
def execQ0Disable (s : State) : Host.Outcome State Fault Refusal := .next (s.queue0 0)
def execQ0Enable (s : State) : Host.Outcome State Fault Refusal := .next (s.queue0 1)
def execQ0Reset (s : State) : Host.Outcome State Fault Refusal := .next (s.queue0 2)

/-! Device time (R25). -/

def State.writeDtset (s : State) (v : Word) : State :=
  if s.mgmt.flock || s.mgmt.dtset || s.stage = 15 then s else { s with mgmt := { s.mgmt with dtime := v, dtset := true } }
def execDtset (v : Word) (s : State) : Host.Outcome State Fault Refusal := .next (s.writeDtset v)

/-! Attestation (R34 to R36). -/

def State.writeAttgo (s : State) (v : Word) : State :=
  if v != 1 || s.mgmt.attst = 1 || s.stage = 15 then s else { s with mgmt := { s.mgmt with attst := 1 } }
def execAttgo (v : Word) (s : State) : Host.Outcome State Fault Refusal := .next (s.writeAttgo v)

/-- Bytes 0x000 to 0x19F of the report; before the lock FMASK is zero (log entry 25). -/
def State.reportHead (s : State) (nonce : List Byte) : List Byte :=
  leBytes 4 0x54415A4C ++ leBytes 4 1 ++ fit 32 nonce ++ leBytes 8 s.fver.toNat ++
  leBytes 16 (if s.mgmt.flock then s.mgmt.faccept.toNat else 0) ++ leBytes 8 s.dtime.toNat ++
  leBytes 4 (s.mgmt.leaf / 2 ^ 20) ++ leBytes 4 (s.mgmt.leaf % 2 ^ 20) ++
  [1, 2, 3, 4, 5, 6].flatMap (fun t => match SMap.get? s.sec.running t with
    | some (_, d) => leBytes 48 d.toNat
    | none => leBytes 48 0) ++
  leBytes 48 (Config.sha384 (Config.partitionConfig s.freeCtr)).toNat
/-- R34 to R36: the report; the poison of the nonce goes with it (R43). -/
def State.report (s : State) : State :=
  let m := s.mgmt
  let a := m.attaddr.toNat
  if m.attst != 1 then s
  else if a % 4096 != 0 || !inHbm a then { s with mgmt := { m with attst := 4 } }
  else if 2 ^ 23 ≤ m.leaf then { s with mgmt := { m with attst := 3 } }
  else
    let h := s.reportHead (Mem.readL s.mem a 32)
    let r := h ++ fit 96 (Config.ecdsaSign (Config.sha384 h)) ++ fit 1772 (Config.lmsSign (m.leaf / 2 ^ 20) (m.leaf % 2 ^ 20) h)
    let bad := (List.range 32).filter fun i => s.poison.contains (a + i)
    let s1 := s.store a r
    { s1 with
      poison := s1.poison ++ bad.map (a + 8 + ·)
      mgmt := { m with leaf := m.leaf + 1, attst := 2 }
      freeCtr := s.freeCtr + 1 }
def execAttestationReport (s : State) : Host.Outcome State Fault Refusal := .next s.report

/-! The register block (R69). -/

/-- R42: a field written with 0 is cleared; any other value is ignored. -/
def rasWrite (old : Nat) (v : Nat) : Nat :=
  (if v / 2 ^ 32 = 0 then 0 else old / 2 ^ 32) * 2 ^ 32 + (if v % 2 ^ 32 = 0 then 0 else old % 2 ^ 32)
def State.ras (s : State) (i : Nat) : Nat := (SMap.getD s.mgmt.rascnt i 0).toNat
def State.setRas (s : State) (i n : Nat) : State := { s with mgmt := { s.mgmt with rascnt := SMap.put s.mgmt.rascnt i (word n) } }
/-- An address with its low bits zero. -/
def alignedTo (n : Nat) (v : Word) : Word := word (v.toNat / 2 ^ n * 2 ^ n)
/-- A write of the host to the block. In STAGE 15 nothing but the ROM runs (R30): only MGRST acts. -/
def State.regWrite (s : State) (off : Nat) (v : Word) : State :=
  let m := s.mgmt
  let put (m : Mgmt) : State := { s with mgmt := m }
  let open_ (m : Mgmt) : State := if s.mgmt.flock then s else put m
  if off = 0x0008 then s.writeMgrst v
  else if s.stage = 15 then s
  else match off with
    | 0x0118 => open_ { m with faccept := BitVec.ofNat 128 (m.faccept.toNat / 2 ^ 64 * 2 ^ 64 + v.toNat) }
    | 0x0120 => open_ { m with faccept := BitVec.ofNat 128 (v.toNat * 2 ^ 64 + m.faccept.toNat % 2 ^ 64) }
    | 0x0128 => s.writeFlock v
    | 0x0140 => s.writeDtset v
    | 0x0180 => if m.attst = 1 then s else put { m with attaddr := v }
    | 0x0188 => s.writeAttgo v
    | 0x01A0 => s.setRas 0 (rasWrite (s.ras 0) v.toNat)
    | 0x01A8 => s.setRas 1 (rasWrite (s.ras 1) v.toNat)
    | 0x01B0 => s.setRas 2 (rasWrite (s.ras 2) v.toNat)
    | 0x01B8 => s.setRas 3 (rasWrite (s.ras 3) v.toNat)
    | 0x01C0 => s.setRas 4 (rasWrite (s.ras 4) v.toNat)
    | 0x0200 => open_ { m with qtbase := alignedTo 20 v }
    | 0x0208 => open_ { m with evbase := alignedTo 12 v }
    | 0x0210 => open_ { m with evsize := BitVec.ofNat 4 v.toNat }
    | 0x0220 => put { m with evridx := v }
    | 0x0228 => if v.toNat % 2 ^ 32 = 0 then put { m with evdrop := 0 } else s
    | 0x0230 => s.queue0 (v.toNat % 4)
    | _ => s
def execRegisterWrite (off : Nat) (v : Word) (s : State) : Host.Outcome State Fault Refusal :=
  .next (if s.power.cxlUp then s.regWrite off v else s)

/-- PSTAT of a partition. -/
def State.pstat (s : State) (p : Nat) : Nat :=
  (s.clustersOf p).foldl (fun n c => n + 2 ^ c) 0 * 2 ^ 16 + (match (s.part p).st with | .unused => 0 | .active => 1 | .resetting => 2)
/-- What a read of the block returns; a write-only register and an offset that is not listed read as zero. -/
def State.regRead (s : State) (off : Nat) : Word :=
  let m := s.mgmt
  match off with
  | 0x0000 => word (0x4C5A * 2 ^ 48 + 0x00D4 * 2 ^ 32 + Config.stepping.toNat)
  | 0x0100 => m.bootstat
  | 0x0108 => word (m.foffer.toNat % 2 ^ 64)
  | 0x0110 => word (m.foffer.toNat / 2 ^ 64)
  | 0x0118 => word (m.faccept.toNat % 2 ^ 64)
  | 0x0120 => word (m.faccept.toNat / 2 ^ 64)
  | 0x0128 => word (b2n m.flock)
  | 0x0130 => s.fver
  | 0x0138 => m.dtime
  | 0x0180 => m.attaddr
  | 0x0190 => word m.attst.toNat
  | 0x0200 => m.qtbase
  | 0x0208 => m.evbase
  | 0x0210 => word m.evsize.toNat
  | 0x0218 => m.evwidx
  | 0x0220 => m.evridx
  | 0x0228 => word m.evdrop.toNat
  | _ =>
    if 0x01A0 ≤ off && off ≤ 0x01C0 && off % 8 = 0 then word (s.ras ((off - 0x01A0) / 8))
    else if 0x0300 ≤ off && off ≤ 0x0338 && off % 8 = 0 then word (s.pstat ((off - 0x0300) / 8))
    else 0

/-! The split of a die's memory (R244). -/

/-- Which way the boundary moves: 1 up, 2 down, 0 not at all; where the sampling sets saw no access, a value that the manual does
not give. -/
def splitWay (hits shadow total free : Nat) : Nat :=
  if total = 0 then free % 3
  else if 64 * ((hits : Int) - shadow) < total then 1
  else if (total : Int) ≤ 16 * ((hits : Int) - shadow) then 2
  else 0
def State.adjust (s : State) (die hits shadow total : Nat) : State :=
  let n := SMap.getD s.splits die 0
  if 4 ≤ die || s.bclk < (n + 1) * 2 ^ 20 then s
  else
    let (free, s0) := s.fresh
    let s1 : State := { (if total = 0 then s0 else s) with splits := SMap.put s.splits die (n + 1) }
    match s1.limitsOf die with
    | none => s1
    | some (lo, hi) =>
      let x := s1.scratchOf die
      let way := splitWay hits shadow total free
      if way = 1 && x < hi then s1.setSplit die (x + 1)
      else if way = 2 && lo < x then s1.setSplit die (x - 1)
      else s1
def execSplitAdjust (die hits shadow total : Nat) (s : State) : Host.Outcome State Fault Refusal := .next (s.adjust die hits shadow total)

/-! Scrubbers (R41 to R43). -/

/-- R42: one more corrected error, saturating. -/
def State.corrected (s : State) (i : Nat) (hbm : Bool) : State :=
  let n := s.ras i
  let up (x : Nat) : Nat := min (x + 1) (2 ^ 32 - 1)
  s.setRas i (if hbm then up (n / 2 ^ 32) * 2 ^ 32 + n % 2 ^ 32 else n / 2 ^ 32 * 2 ^ 32 + up (n % 2 ^ 32))
/-- The bytes of the line or the word of an error in an array: 256 bytes of HBM (R2), 8 of die memory. The IOD's arrays hold no
addressed data. -/
def scrubbed (array : Nat) (hbm : Bool) (addr : Nat) : List Nat :=
  if hbm then (List.range 256).map (addr / 256 * 256 + ·)
  else if array < 4 then (List.range 8).map (dxKey array (addr / 8 * 8) + ·)
  else []
/-- R43: bytes become poisoned. -/
def State.poisonAll (s : State) (l : List Nat) : State := { s with poison := s.poison ++ l.filter fun k => !s.poison.contains k }
def State.scrub (s : State) (array : Nat) (hbm : Bool) (addr : Nat) (bad : Bool) : State :=
  let here : Bool := if hbm then array < 4 && inHbm addr && addr / 2 ^ 37 = array
    else array = 4 || (array < 4 && addr < 96 * 2 ^ 20)
  if !here || s.stage = 15 then s
  else if !bad then s.corrected array hbm
  else
    let stack := if hbm then 2 * array + addr / 256 % 2 else array
    (s.poisonAll (scrubbed array hbm addr)).devEvent 0x5B 3 0xFF stack (word addr) 0
def execPatrolScrub (array : Nat) (hbm : Bool) (addr : Nat) (bad : Bool) (s : State) : Host.Outcome State Fault Refusal :=
  .next (s.scrub array hbm addr bad)
/-- The die of a memory key; 4 for what lies on none. -/
def keyDie (k : Nat) : Nat :=
  if k < 2 ^ 39 then k / 2 ^ 37
  else if k < lsKey 0 0 then 4
  else if k < dxKey 0 0 then dieOf ((k - lsKey 0 0) / 2 ^ 20)
  else if k < lxKey 0 0 0 then (k - dxKey 0 0) / 2 ^ 27
  else dieOf (coreOf ((k - lxKey 0 0 0) / 2 ^ 17))
/-- The die of a place where a soft error is met, 4 for the IOD, if it is one of the machine. -/
def State.upsetDie (s : State) : Upset → Option Nat
  | .mem k => if k < 2 ^ 39 && !inHbm k then none else some (keyDie k)
  | .ctx key _ => if key < 2304 then some (dieOf (coreOf key)) else none
  | .tile k => if k / 8192 < 580 then some (poolDie (k / 8192)) else none
  | .job id => (SMap.get? s.jobs id).map fun j => dieOf j.core
  | .queue q => if q < 4096 then some 4 else none
  | .array => none
/-- R43: an uncorrectable error in a place. A line of HBM or a word of eight bytes of memory is poisoned, and so are a word of a
context in its slot and the header of a tile, until they are written; a word that every instruction reads is consumed by the next one; a
job fails with it; a queue engine faults its queue (log entry 12). -/
def State.upsetAt (s : State) : Upset → State
  | .mem k =>
    let n := if inHbm k then 256 else 8
    s.poisonAll ((List.range n).map (k / n * n + ·))
  | .ctx key o =>
    if !(s.ctx key).inSlot then s
    else match (s.ctx key).keeper, cellOf o with
      | some id, some w => s.setKeeper id { s.keeper id with bad := w :: (s.keeper id).bad }
      | none, some w => s.modCtx key fun c => { c with bad := w :: c.bad }
      | none, none => s.modCtx key fun c => { c with upset := true }
      | some _, none => s
  | .tile k => s.modTile k fun t => { t with bad := t.st != .free }
  | .job id => match SMap.get? s.jobs id with
    | some j => s.setJob id { j with fail := j.fail.or (some (exc 0x5B)) }
    | none => s
  | .queue q => if s.qstate q = 1 && (s.eng q).root.isNone then s.queueFault q 0x5B ((s.eng q).taken.elim 0 pkTs) else s
  | .array => s
/-- R41 to R43: a soft error that an access meets in HBM or in an SRAM. A corrected one is counted (log entry 12). -/
def State.upset (s : State) (die : Nat) (k : Upset) (bad : Bool) : State :=
  if 5 ≤ die || s.stage = 15 || (s.upsetDie k).any (· != die) || (k != .array && (s.upsetDie k).isNone) then s
  else if bad then s.upsetAt k
  else s.corrected die (match k with | .mem k => inHbm k | _ => false)
/-- R31: a firmware update goes to the slot from which its type did not boot, or to slot A when the type booted from none. -/
def State.writeFlash (s : State) (ty : Nat) (i : Image) : State :=
  let b := s.mgmt.bootstat.toNat
  let ab := if bit b (41 + ty) || bit b (35 + ty) then 0 else 1
  if ty = 0 || 6 < ty || s.stage = 15 then s else { s with sec := { s.sec with flash := SMap.put s.sec.flash (ty * 2 + ab) i } }

end Sys2Proof.Machine
end

