-- ==== Sys2Proof/Machine/Links.lean ====
section
/-! DEFINITION. Dornil links (R16 to R22, R26): training, flits, the loss of a link and of a pair, and the packets of a pair, each
applied once and in order. -/

namespace Sys2Proof.Machine
open Sys2Proof

/-! Links (R16, R17, R21, R26). -/

/-- R30: the link firmware runs, in the full module; in STAGE 15 nothing does, and in recovery only RECOV. -/
def State.linksRun (s : State) : Bool := s.stage != 15 && s.stage != 4
/-- R26: the module has a path to the time source while it is the source, or a link that has brought a TIME packet is up. The loss
of the path is an event, and the module's own clock then runs freely. -/
def State.timePath (s : State) : State :=
  if s.net.source || s.net.timeLinks.any fun l => (s.link l).up then { s with net := { s.net with path := true } }
  else if s.net.path then ({ s with net := { s.net with path := false, ppm := 0 } } : State).devEventAny 0 4 0
  else s
/-- Of the packets to a node that are not acknowledged, those whose last link satisfies `which` are sent again, with their PSN
(R21). -/
def State.resend (s : State) (which : Option Nat → Bool) (node : Nat) : State :=
  let l := s.linkTo node
  let t := s.tx node
  let kept := t.unacked.map fun x => if which x.2.1 then (x.1, l, x.2.2) else x
  (t.unacked.filter fun x => which x.2.1).foldl (fun s x => s.sendPkt x.2.2)
    { s with net := { s.net with tx := SMap.put s.net.tx node { t with unacked := kept } } }
/-- R22: the lost pairs that can be reached again are lost no more; the sequence state of this side went when the pair was lost. -/
def State.clearLost (s : State) : State :=
  { s with net := { s.net with lost := s.net.lost.filter fun n => (s.linkTo n).isNone } }

/-- R16: a link whose four lanes are sound comes up; what found no link before is sent. -/
def State.train (s : State) (l : Nat) (lanes : BitVec 4) : State :=
  if 16 ≤ l || (s.link l).up || !s.linksRun then s
  else if lanes != 0xF then s.setLink l { Link.empty with bad := true }
  else
    let s1 := (s.setLink l { Link.empty with up := true }).clearLost
    ((SMap.keys s1.net.tx).filter fun n => (s1.linkTo n).isSome).foldl (State.resend · Option.isNone) s1
def execLinkTraining (l : Nat) (lanes : BitVec 4) (s : State) : Host.Outcome State Fault Refusal := .next (s.train l lanes)

/-- R21: a link goes down, and every packet that is not acknowledged is sent again, on the next alternative. -/
def State.lose (s : State) (l : Nat) : State :=
  if !(s.link l).up then s
  else
    let s1 := s.setLink l Link.empty
    let s2 : State := { s1 with net := { s1.net with timeLinks := s1.net.timeLinks.filter (· != l) } }
    ((SMap.keys s2.net.tx).foldl (State.resend · fun _ => true) s2).timePath
def execLinkDown (l : Nat) (s : State) : Host.Outcome State Fault Refusal := .next (s.lose l)

/-- The header of R18 and the payload, from the bytes of the flits; the partition that R449 needs has no place there (log
entry 11). -/
def pktOf (b : List Byte) (part : Nat) : Pkt :=
  let h := slice b 0 16
  { src := BitVec.ofNat 12 (bits h 127 116), dst := BitVec.ofNat 12 (bits h 115 104), psn := BitVec.ofNat 32 (bits h 103 72),
    ptype := BitVec.ofNat 8 (bits h 71 64), plen := BitVec.ofNat 12 (bits h 63 52), pscope := BitVec.ofNat 4 (bits h 51 48),
    paddr := BitVec.ofNat 48 (bits h 47 0), part := BitVec.ofNat 3 part, payload := (b.drop 16).take (bits h 63 52 + 1) }
/-- The arrival of a packet; a TIME packet of unknown content tells nothing. -/
def pktArrival (p : Pkt) : List Instr :=
  if 2 ≤ p.pscope.toNat && p.ptype != 7 && p.ptype != 8 then [.reservedPacketDiscard p]
  else match p.ptype.toNat with
    | 1 => [.write p]
    | 2 => [.rdreq p]
    | 3 => [.rdrsp p]
    | 4 => [.atomic p]
    | 5 => [.relflag p]
    | 6 => [.qappend p]
    | 7 => [.ack p]
    | 8 => []
    | _ => [.reservedPacketDiscard p]
/-- R18: a packet occupies whole flits; one whose bytes are all there arrives next. Every packet has PLEN + 1 bytes of payload, a
RDREQ too, whose tag is then cut or filled with zeros (log entry 23). -/
def State.assemble (s : State) (l : Nat) : State :=
  let x := s.link l
  let h := slice x.pay 0 16
  if x.pay.length < 240 * ((16 + bits h 63 52 + 1 + 239) / 240) || x.pay = [] then s
  else
    let (v, s1) := s.fresh
    let s2 := s1.setLink l { x with pay := [] }
    { s2 with agenda := (pktArrival (pktOf x.pay (v % 8))).map .event ++ s2.agenda }
/-- R17: a sound flit in sequence is taken; a bad one is retried, and after eight retries the link goes down. What a flit of kind
"time" says is not given (R26, log entry 11). -/
def State.flit (s : State) (l : Nat) (f : Flit) : State :=
  let x := s.link l
  let h := f.fhdr.toNat
  if 16 ≤ l || !x.up || !s.linksRun then s
  else if !f.crcOk || bits h 15 14 = 3 || bits h 13 12 != 0 then
    if 8 ≤ x.retries then s.lose l else s.setLink l { x with retries := x.retries + 1 }
  else if bits h 11 0 != x.rxSeq.toNat then s
  else
    let y := { x with rxSeq := x.rxSeq + 1, retries := 0 }
    match bits h 15 14 with
    | 0 => (s.setLink l { y with pay := x.pay ++ fit 240 f.pay }).assemble l
    | 2 =>
      let (v, s1) := (s.setLink l y).fresh
      { s1 with agenda := .event (.time l (v % 2 = 1) (v / 2)) :: s1.agenda }
    | _ => s.setLink l y
def execFlitReceive (l : Nat) (f : Flit) (s : State) : Host.Outcome State Fault Refusal := .next (s.flit l f)

/-! A lost pair (R22). -/

/-- A job waits for the pair to a node. -/
def Job.toPeer (j : Job) (node : BitVec 12) : Bool :=
  match j.d with
  | .peer n _ => n = node && j.st = .running && j.fail.isNone
  | _ => false
/-- No route is left to a node that the module has named as a destination, or a packet is unacknowledged for 1 ms. -/
def State.pairDue (s : State) (node : Nat) : Bool :=
  ((SMap.getD s.net.route node [] != [] || (s.tx node).unacked != [] || s.jobs.any fun x => x.2.toPeer (BitVec.ofNat 12 node)) &&
    (s.linkTo node).isNone && !s.net.lost.contains node) ||
  (s.tx node).unacked.any fun x => x.1 + 1000000 ≤ s.dtime.toNat
/-- Pending operations fail with 0x5C, and their partitions are told; later operations start from PSN 0. -/
def State.losePair (s : State) (node : BitVec 12) : State :=
  let n := node.toNat
  if !s.pairDue n then s
  else
    let jobs := (s.jobs.filter (·.2.toPeer node)).map (·.1)
    let parts := (jobs.map fun id => (s.job id).part).eraseDups
    let s1 := jobs.foldl (fun s id => s.setJob id { s.job id with fail := some (exc 0x5C n), psns := [] }) s
    let s2 : State := { s1 with net := { s1.net with tx := SMap.put s1.net.tx n Tx.empty, lost := n :: s1.net.lost } }
    let die (p : Nat) : Nat := dieOf ((jobs.find? fun id => (s.job id).part = p).elim 0 fun id => (s.job id).core)
    (parts.foldl (fun s p => s.partEventAny p (die p) 0x5C 5 (word n)) s2).clearLost
def execPairLost (node : BitVec 12) (s : State) : Host.Outcome State Fault Refusal := .next (s.losePair node)

/-! Packets of a pair (R18 to R20). -/

def State.rxOf (s : State) (src : Nat) : Rx := SMap.getD s.net.rx src Rx.empty
def State.setRx (s : State) (src : Nat) (x : Rx) : State := { s with net := { s.net with rx := SMap.put s.net.rx src x } }
/-- An ACK with the applied mark; it takes no PSN and is not kept. -/
def State.ackTo (s : State) (src : BitVec 12) : State :=
  s.sendPkt ⟨s.net.node, src, (s.rxOf src.toNat).mark, 7, 0, 0, 0, 0, []⟩
/-- The GV address of PADDR: the header holds its bits [47:0]; those above are zero. -/
def pktAddr (p : Pkt) : Word := p.paddr.setWidth 64
/-- What the partition of the destination is told of a packet that could not act. -/
def State.pktFault (s : State) (p : Pkt) (e : Exc) (a : Word) : State := s.partEventAny p.part.toNat 0 e.cause.toNat 0 a
/-- Bytes written at PADDR in the partition of the packet (R449). -/
def State.pktWrite (s : State) (p : Pkt) (b : List Byte) : State :=
  match s.gvWrite p.part.toNat (pktAddr p) b with
  | .ok s' => s'
  | .error t => s.pktFault p t.exc (pktAddr p)
/-- PLEN + 1 bytes of the payload. -/
def pktData (p : Pkt) : List Byte := fit (p.plen.toNat + 1) p.payload
/-- The bytes that a read request names; 0x5B where poison lies. -/
def State.pktRead (s : State) (p : Pkt) (n : Nat) : Except Exc (State × List Byte) :=
  match s.mapRange p.part.toNat (pktAddr p) n .rd with
  | .error t => .error t.exc
  | .ok (s', ps) =>
    if ps.any fun x => !x.2.2.2 && s'.poisoned x.2.1 x.2.2.1 then .error (exc 0x5B (pktAddr p).toNat)
    else .ok (s', ps.flatMap fun x => if x.2.2.2 then List.replicate x.2.2.1 0 else Mem.readL s'.mem x.2.1 x.2.2.1)
/-- RDREQ: the data goes back with the tag; `none` while the window to the requester is full. -/
def State.pktRequest (s : State) (p : Pkt) : Option State :=
  if 4096 ≤ (s.tx p.src.toNat).unacked.length then none
  else match s.pktRead p (p.plen.toNat + 1) with
    | .error e => some (s.pktFault p e (pktAddr p))
    | .ok (s1, b) => some (s1.sendNext p.src 3 0 (BitVec.ofNat 48 (slice p.payload 0 8)) p.part.toNat b).1
/-- ATOMIC: the eight bytes at PADDR, read and written in one step. -/
def State.pktAtomic (s : State) (p : Pkt) : State :=
  if (pktAddr p).toNat % 8 != 0 then s.pktFault p (exc 0x22) (pktAddr p)
  else match s.pktRead p 8 with
    | .error e => s.pktFault p e (pktAddr p)
    | .ok (s1, b) => s1.pktWrite p (leBytes 8 (Config.peerAtomic p.payload (word (slice b 0 8))).toNat)
/-- QAPPEND: R48 on the queue whose number PADDR holds; `none` while the ring is full. -/
def State.pktAppend (s : State) (p : Pkt) : Option State :=
  let q := p.paddr.toNat
  if q = 0 || 4096 ≤ q || s.qstate q = 0 || !(s.owners q).contains p.part.toNat then some (s.pktFault p (exc 0x5E) (word q))
  else
    let i := s.qcbField q 0 8
    let h := slice p.payload 0 8
    if !s.ringRoom q i || s.slotMoving q i then none
    else match (s.setQcb q 0 8 (i + 1)).publish q i (bits h 63 56 * 2 ^ 56 + bits h 48 40 * 2 ^ 40) (fit 56 (p.payload.drop 8)) with
      | .ok s' => some s'
      | .error e => some (s.pktFault p e (word q))
/-- The header bits [127:64] of a packet. -/
def pktHead (p : Pkt) : Word := word (p.src.toNat * 2 ^ 52 + p.dst.toNat * 2 ^ 40 + p.psn.toNat * 2 ^ 8 + p.ptype.toNat)
/-- A packet acts on a page under migration (R226). -/
def State.pktMoving (s : State) (p : Pkt) : Bool :=
  [1, 2, 4, 5].contains p.ptype.toNat &&
    s.gvMoving p.part.toNat (pktAddr p) (if p.ptype = 4 then 8 else p.plen.toNat + 1)
/-- The effect of a packet; `none` while it has to wait. -/
def State.pktEffect (s : State) (p : Pkt) : Option State :=
  if 2 ≤ p.pscope.toNat then some (s.devEventAny 0x01 0 (pktHead p))
  else if s.pktMoving p then none
  else match p.ptype.toNat with
    | 1 => some (s.pktWrite p (pktData p))
    | 2 => s.pktRequest p
    | 3 => some s
    | 4 => some (s.pktAtomic p)
    | 5 => some (s.pktWrite p (pktData p))
    | 6 => s.pktAppend p
    | _ => some (s.devEventAny 0x01 0 (pktHead p))
/-- A packet that is next in its pair is applied, and acknowledged. -/
def State.applyNext (s : State) (p : Pkt) : Option State :=
  (s.pktEffect p).map fun s1 =>
    (s1.setRx p.src.toNat ⟨p.psn, (s1.rxOf p.src.toNat).held.filter fun x => x.psn != p.psn⟩).ackTo p.src
/-- R18 to R20: a packet arrives. -/
def State.arrive (s : State) (p : Pkt) : State :=
  let x := s.rxOf p.src.toNat
  let ahead := (p.psn - x.mark).toNat
  if p.dst != s.net.node then s.sendPkt p
  else if ahead = 0 || 4096 < ahead || x.held.any fun y => y.psn = p.psn then s.ackTo p.src
  else
    let kept := s.setRx p.src.toNat { x with held := x.held ++ [p] }
    if ahead = 1 then (s.applyNext p).getD kept else kept
/-- The arrival of a packet of one type, where the link firmware runs (R30). -/
def State.receive (s : State) (ty : Nat) (p : Pkt) : Host.Outcome State Fault Refusal :=
  .next (if s.linksRun && p.ptype.toNat = ty && p.pscope.toNat < 2 then s.arrive p else s)
def execWrite (p : Pkt) (s : State) : Host.Outcome State Fault Refusal := s.receive 1 p
def execRdreq (p : Pkt) (s : State) : Host.Outcome State Fault Refusal := s.receive 2 p
def execRdrsp (p : Pkt) (s : State) : Host.Outcome State Fault Refusal := s.receive 3 p
def execAtomic (p : Pkt) (s : State) : Host.Outcome State Fault Refusal := s.receive 4 p
def execRelflag (p : Pkt) (s : State) : Host.Outcome State Fault Refusal := s.receive 5 p
def execQappend (p : Pkt) (s : State) : Host.Outcome State Fault Refusal := s.receive 6 p
def execReservedPacketDiscard (p : Pkt) (s : State) : Host.Outcome State Fault Refusal :=
  .next (if s.linksRun && (p.ptype = 0 || 9 ≤ p.ptype.toNat || (2 ≤ p.pscope.toNat && p.ptype != 7 && p.ptype != 8)) then s.arrive p
    else s)
/-- R19: the gap before a held packet has filled. -/
def execHeldPacketApply (src : BitVec 12) (s : State) : Host.Outcome State Fault Refusal :=
  .next (let x := s.rxOf src.toNat
    match x.held.find? fun p => p.psn = x.mark + 1 with
    | some p => if s.linksRun then (s.applyNext p).getD s else s
    | none => s)

/-- R21: what the ACK covers is freed, and the jobs that waited for it go on. -/
def State.takeAck (s : State) (p : Pkt) : State :=
  let n := p.src.toNat
  let covers (psn : BitVec 32) : Bool := (p.psn - psn).toNat < 2 ^ 31
  if p.dst != s.net.node then s.sendPkt p
  else
    let t := s.tx n
    let jobs := (s.jobs.filter (·.2.toPeer p.src)).map (·.1)
    let s1 : State := { s with net := { s.net with tx := SMap.put s.net.tx n { t with unacked := t.unacked.filter fun x => !covers x.2.2.psn } } }
    jobs.foldl (fun s id => State.sendOn 4096 (s.setJob id { s.job id with psns := (s.job id).psns.filter fun x => !covers x }) id) s1
def execAck (p : Pkt) (s : State) : Host.Outcome State Fault Refusal := .next (if s.linksRun && p.ptype = 7 then s.takeAck p else s)

/-! Device time among modules (R26). -/

/-- A TIME packet comes over a link: the rate slews towards the source by at most 200 ppm; how far, the manual does not say. -/
def State.slew (s : State) (l : Nat) (ahead : Bool) (delta : Nat) : State :=
  if !(s.link l).up || s.net.source || !s.linksRun then s
  else
    let (v, s1) := s.fresh
    let rate : Int := if delta = 0 then 0 else (v % 200 + 1 : Nat)
    ({ s1 with net := { s1.net with
        ppm := if ahead then rate else -rate
        timeLinks := l :: s1.net.timeLinks.filter (· != l) } } : State).timePath
def execTime (l : Nat) (ahead : Bool) (delta : Nat) (s : State) : Host.Outcome State Fault Refusal := .next (s.slew l ahead delta)
/-- R26: a TIME packet goes out over a link, with PSN 0 and contents that the manual does not give. -/
def State.timeOut (s : State) (l : Nat) : State :=
  if !(s.link l).up || !s.linksRun then s
  else
    let (v, s1) := s.fresh
    s1.sendOver l 2 ⟨s.net.node, BitVec.ofNat 12 v, 0, 8, 0, 0, BitVec.ofNat 48 (v / 2 ^ 12), 0, [BitVec.ofNat 8 (v / 2 ^ 60)]⟩

/-! What the world outside does (log entry 12). -/

/-- R17: the peer asks again for what it has not had, from a sequence on; after eight times in a row the link goes down. -/
def State.retrySent (s : State) (l : Nat) (seq : BitVec 12) : State :=
  let x := s.link l
  let sent := x.sent.dropWhile fun f => f.fhdr.toNat % 4096 != seq.toNat
  let again := if sent.length = x.sent.length then x.again + 1 else 1
  if !x.up || sent = [] || !s.linksRun then s
  else if 8 < again then s.lose l
  else
    let s1 := s.setLink l { x with sent := sent, again := again }
    { s1 with net := { s1.net with wire := s1.net.wire ++ sent.map (l, ·) } }
/-- Management sets the node number and the routes, of up to four alternatives each, while no link is up (R18), and marks the time
source (R26). In STAGE 15 nothing runs that it could reach (R30). -/
def State.manage (s : State) (node : BitVec 12) (r : SMap (List Nat)) (source : Bool) : State :=
  let s1 : State := if s.net.links.any (·.2.up) then s
    else { s with net := { s.net with node := node, route := r.map fun x => (x.1, x.2.take 4) } }
  if s.stage = 15 then s else ({ s1 with net := { s1.net with source := source } } : State).timePath
/-- One act of the world outside. -/
def State.env (s : State) (e : Env) : State :=
  match e with
  | .hdm l => s.setHdm l
  | .hostWrite a b => if a + b.length ≤ 2 ^ 64 then s.store (hostKey a) b else s
  | .hostRefuse l => { s with refused := l }
  | .route node r source => s.manage node r source
  | .flash ty i => s.writeFlash ty i
  | .upset die k bad => s.upset die k bad
  | .spdm => if s.stage = 15 then s else { s with spdm := s.spdm ++ [s.sec.chain] }
  | .retry l seq => s.retrySent l seq
  | .pairCleared node => { s with net := { s.net with rx := SMap.del s.net.rx node.toNat } }
  | .timeOut l => s.timeOut l

end Sys2Proof.Machine
end

