-- ==== Sys2Proof/Machine/Scalar.lean ====
section
/-! DEFINITION. The SC engine's arithmetic, moves, compares and predicates (R318 to R325). -/

namespace Sys2Proof.Machine
open Sys2Proof

/-- No effect of its own. -/
def execNop (q : Seqn) (s : State) : Host.Outcome State Fault Refusal := plain (.nop q) (pure ()) s

/-! R319, R320. -/

def execAdd (q : Seqn) (o : Alu) (s : State) : Host.Outcome State Fault Refusal :=
  plain (.add q o) (aluM o fun _ _ x y => x + y) s
def execSub (q : Seqn) (o : Alu) (s : State) : Host.Outcome State Fault Refusal :=
  plain (.sub q o) (aluM o fun _ _ x y => x - y) s
def execMul (q : Seqn) (o : Alu) (s : State) : Host.Outcome State Fault Refusal :=
  plain (.mul q o) (aluM o fun _ _ x y => x * y) s
def execMulh (q : Seqn) (o : Alu) (s : State) : Host.Outcome State Fault Refusal :=
  plain (.mulh q o) (aluM o fun n u x y => asU n u x * asU n u y / 2 ^ n) s
def execDiv (q : Seqn) (o : Alu) (s : State) : Host.Outcome State Fault Refusal := plain (.div q o) (divM o quotient) s
def execRem (q : Seqn) (o : Alu) (s : State) : Host.Outcome State Fault Refusal := plain (.rem q o) (divM o remainder) s
def execAnd (q : Seqn) (o : Alu) (s : State) : Host.Outcome State Fault Refusal :=
  plain (.and q o) (aluM o fun _ _ x y => (x &&& y : Nat)) s
def execOr (q : Seqn) (o : Alu) (s : State) : Host.Outcome State Fault Refusal :=
  plain (.or q o) (aluM o fun _ _ x y => (x ||| y : Nat)) s
def execXor (q : Seqn) (o : Alu) (s : State) : Host.Outcome State Fault Refusal :=
  plain (.xor q o) (aluM o fun _ _ x y => (x ^^^ y : Nat)) s
def execAndn (q : Seqn) (o : Alu) (s : State) : Host.Outcome State Fault Refusal :=
  plain (.andn q o) (aluM o fun n _ x y => (x &&& (2 ^ n - 1 - y) : Nat)) s
def execShl (q : Seqn) (o : Alu) (s : State) : Host.Outcome State Fault Refusal :=
  plain (.shl q o) (aluM o fun n _ x y => (x * 2 ^ (y % n) : Nat)) s
def execShr (q : Seqn) (o : Alu) (s : State) : Host.Outcome State Fault Refusal :=
  plain (.shr q o) (aluM o fun n _ x y => (x / 2 ^ (y % n) : Nat)) s
def execSar (q : Seqn) (o : Alu) (s : State) : Host.Outcome State Fault Refusal :=
  plain (.sar q o) (aluM o fun n _ x y => asInt n x / 2 ^ (y % n)) s
def execRot (q : Seqn) (o : Alu) (s : State) : Host.Outcome State Fault Refusal :=
  plain (.rot q o) (aluM o fun n _ x y => (x * 2 ^ (y % n) + x / 2 ^ (n - y % n) : Nat)) s
def execMin (q : Seqn) (o : Alu) (s : State) : Host.Outcome State Fault Refusal :=
  plain (.min q o) (aluM o fun n u x y => Min.min (asU n u x) (asU n u y)) s
def execMax (q : Seqn) (o : Alu) (s : State) : Host.Outcome State Fault Refusal :=
  plain (.max q o) (aluM o fun n u x y => Max.max (asU n u x) (asU n u y)) s

/-! R321 to R323. -/

/-- The number of leading zeros of an n-bit number. -/
def leadingZeros (n x : Nat) : Nat := if x = 0 then n else n - 1 - Nat.log2 x

def execClz (q : Seqn) (o : CntO) (s : State) : Host.Outcome State Fault Refusal :=
  plain (.clz q o) (do wrS o.d (word (leadingZeros (widthOf o.w) (low (widthOf o.w) (← rdS o.a))))) s
def execPopc (q : Seqn) (o : CntO) (s : State) : Host.Outcome State Fault Refusal :=
  plain (.popc q o) (do wrS o.d (word (popcount (widthOf o.w) (low (widthOf o.w) (← rdS o.a))))) s

/-- Bits [bit:0] extended from bit `bit`. -/
def extendFrom (x : Nat) (bit_ : Nat) (zero : Bool) : Word :=
  let v := x % 2 ^ (bit_ + 1)
  if zero then word v else BitVec.ofInt 64 (asInt (bit_ + 1) v)
def execSext (q : Seqn) (o : SextO) (s : State) : Host.Outcome State Fault Refusal :=
  plain (.sext q o) (do wrS o.d (extendFrom (← rdS o.a).toNat o.bit.toNat o.z)) s

/-- R322: LEN is 1 to 64. -/
def lenOk (i : Instr) (o : BfO) : M Unit := check (o.len != 0 && o.len.toNat ≤ 64) 0x01 (dw0 i)
def execBfx (q : Seqn) (o : BfO) (s : State) : Host.Outcome State Fault Refusal :=
  plain (.bfx q o) (do
    lenOk (.bfx q o) o
    wrS o.d (extendFrom ((← rdS o.a).toNat / 2 ^ o.pos.toNat) (o.len.toNat - 1) !o.sx)) s
def execBfi (q : Seqn) (o : BfO) (s : State) : Host.Outcome State Fault Refusal :=
  plain (.bfi q o) (do
    lenOk (.bfi q o) o
    wrS o.d (word (insertField (← rdS o.d).toNat o.pos.toNat (Min.min o.len.toNat (64 - o.pos.toNat)) (← rdS o.a).toNat))) s

def execSel (q : Seqn) (o : SelO) (s : State) : Host.Outcome State Fault Refusal :=
  plain (.sel q o) (do
    check (o.ps.toNat < 12) 0x01 (dw0 (.sel q o))
    let c ← getC
    wrS o.d (if c.prd o.ps.toNat then c.reg o.a else c.reg o.b)) s

def execMovi (q : Seqn) (o : MoviO) (s : State) : Host.Outcome State Fault Refusal :=
  plain (.movi q o) (do
    if o.p then wrS o.d (← immS o.p o.imm)
    else if o.kp then wrS o.d (word (insertField (← rdS o.d).toNat (16 * o.hw.toNat) 16 o.imm.toNat))
    else wrS o.d ((if o.z then o.imm.zeroExtend 64 else o.imm.signExtend 64) <<< (16 * o.hw.toNat))) s

def execLea (q : Seqn) (o : LeaO) (s : State) : Host.Outcome State Fault Refusal :=
  plain (.lea q o) (do
    let a ← rdS o.a
    let b ← rdS o.b
    let i ← immS o.p o.imm
    wrS o.d (a + (b <<< o.sh.toNat) + i)) s

/-! R324, R325. -/

/-- The condition CC on two n-bit operands. -/
def condition (cc n x y : Nat) : Bool :=
  match cc with
  | 0 => x == y
  | 1 => x != y
  | 2 => asInt n x < asInt n y
  | 3 => asInt n y ≤ asInt n x
  | 4 => x < y
  | 5 => y ≤ x
  | 6 => asInt n y < asInt n x
  | 7 => asInt n x ≤ asInt n y
  | 8 => y < x
  | 9 => x ≤ y
  | 10 => x &&& y != 0
  | _ => x &&& y == 0

/-- CMB. -/
def combine (cmb : Nat) (old c : Bool) : Bool :=
  match cmb with
  | 0 => c
  | 1 => old && c
  | 2 => old || c
  | _ => old && !c

def execCmp (q : Seqn) (o : CmpO) (s : State) : Host.Outcome State Fault Refusal :=
  plain (.cmp q o) (do
    check (o.cc.toNat < 12) 0x01 (dw0 (.cmp q o))
    let x ← rdS o.a
    let y ← secondOp o.i o.p o.imm o.b
    let n := widthOf o.w
    modC fun c => c.setPrd o.d.toNat (combine o.cmb.toNat (c.prd o.d.toNat) (condition o.cc.toNat n (low n x) (low n y)))) s

def execPlog (q : Seqn) (o : PlogO) (s : State) : Host.Outcome State Fault Refusal :=
  plain (.plog q o) (modC fun c =>
    c.setPrd o.d.toNat (o.tt.getLsbD (2 * b2n (c.prd o.a.toNat) + b2n (c.prd o.b.toNat)))) s

def execPmov (q : Seqn) (o : PmovO) (s : State) : Host.Outcome State Fault Refusal :=
  plain (.pmov q o) (modC fun c =>
    match o.dir.toNat with
    | 0 => c.setReg o.d (c.pred.zeroExtend 64)
    | 1 => { c with pred := (c.reg o.a).setWidth 12 }
    | 2 => c.setPrd o.d.toNat (c.reg o.a != 0)
    | _ => c.setReg o.d (word (b2n (c.prd o.a.toNat)))) s

/-- R328. -/
def execLoopset (q : Seqn) (o : LoopsetO) (s : State) : Host.Outcome State Fault Refusal :=
  plain (.loopset q o) (do
    let n ← if o.i then immZ o.p o.imm else rdS o.a
    check (n != 0 && n.toNat < 2 ^ 32) 0x1C o.lcn.toNat
    modC fun c => c.setLoopc o.lcn.toNat (n.setWidth 32)) s

end Sys2Proof.Machine
end

