-- ==== Sys2Proof/Machine/Dispatch.lean ====
section
/-! DEFINITION. One arm for each row of the opcode table. -/

namespace Sys2Proof.Machine
open Sys2Proof

/-- What an instruction does: one direct call of its meaning. -/
def exec (i : Instr) (s : State) : Host.Outcome State Fault Refusal :=
  match i with
  | .nop q => Sys2Proof.Machine.execNop q s
  | .add q o => Sys2Proof.Machine.execAdd q o s
  | .sub q o => Sys2Proof.Machine.execSub q o s
  | .mul q o => Sys2Proof.Machine.execMul q o s
  | .mulh q o => Sys2Proof.Machine.execMulh q o s
  | .div q o => Sys2Proof.Machine.execDiv q o s
  | .rem q o => Sys2Proof.Machine.execRem q o s
  | .and q o => Sys2Proof.Machine.execAnd q o s
  | .or q o => Sys2Proof.Machine.execOr q o s
  | .xor q o => Sys2Proof.Machine.execXor q o s
  | .andn q o => Sys2Proof.Machine.execAndn q o s
  | .shl q o => Sys2Proof.Machine.execShl q o s
  | .shr q o => Sys2Proof.Machine.execShr q o s
  | .sar q o => Sys2Proof.Machine.execSar q o s
  | .rot q o => Sys2Proof.Machine.execRot q o s
  | .clz q o => Sys2Proof.Machine.execClz q o s
  | .popc q o => Sys2Proof.Machine.execPopc q o s
  | .min q o => Sys2Proof.Machine.execMin q o s
  | .max q o => Sys2Proof.Machine.execMax q o s
  | .sext q o => Sys2Proof.Machine.execSext q o s
  | .bfx q o => Sys2Proof.Machine.execBfx q o s
  | .bfi q o => Sys2Proof.Machine.execBfi q o s
  | .sel q o => Sys2Proof.Machine.execSel q o s
  | .movi q o => Sys2Proof.Machine.execMovi q o s
  | .lea q o => Sys2Proof.Machine.execLea q o s
  | .cmp q o => Sys2Proof.Machine.execCmp q o s
  | .plog q o => Sys2Proof.Machine.execPlog q o s
  | .pmov q o => Sys2Proof.Machine.execPmov q o s
  | .jmpr o => Sys2Proof.Machine.execJmpr o s
  | .callr o => Sys2Proof.Machine.execCallr o s
  | .callx o => Sys2Proof.Machine.execCallx o s
  | .loopset q o => Sys2Proof.Machine.execLoopset q o s
  | .ld q o => Sys2Proof.Machine.execLd q o s
  | .st q o => Sys2Proof.Machine.execSt q o s
  | .amo q o => Sys2Proof.Machine.execAmo q o s
  | .cas q o => Sys2Proof.Machine.execCas q o s
  | .red q o => Sys2Proof.Machine.execRed q o s
  | .fence q o => Sys2Proof.Machine.execFence q o s
  | .waita q o => Sys2Proof.Machine.execWaita q o s
  | .pref q o => Sys2Proof.Machine.execPref q o s
  | .sems q o => Sys2Proof.Machine.execSems q o s
  | .semw q o => Sys2Proof.Machine.execSemw q o s
  | .semr q o => Sys2Proof.Machine.execSemr q o s
  | .bar q o => Sys2Proof.Machine.execBar q o s
  | .barw q o => Sys2Proof.Machine.execBarw q o s
  | .futi q o => Sys2Proof.Machine.execFuti q o s
  | .futw q o => Sys2Proof.Machine.execFutw q o s
  | .futs q o => Sys2Proof.Machine.execFuts q o s
  | .futf q o => Sys2Proof.Machine.execFutf q o s
  | .ldt q o => Sys2Proof.Machine.execLdt q o s
  | .stt q o => Sys2Proof.Machine.execStt q o s
  | .vld q o => Sys2Proof.Machine.execVld q o s
  | .vst q o => Sys2Proof.Machine.execVst q o s
  | .vgat q o => Sys2Proof.Machine.execVgat q o s
  | .vsct q o => Sys2Proof.Machine.execVsct q o s
  | .vldl q o => Sys2Proof.Machine.execVldl q o s
  | .vstl q o => Sys2Proof.Machine.execVstl q o s
  | .vadd q o => Sys2Proof.Machine.execVadd q o s
  | .vsub q o => Sys2Proof.Machine.execVsub q o s
  | .vmul q o => Sys2Proof.Machine.execVmul q o s
  | .vfma q o => Sys2Proof.Machine.execVfma q o s
  | .vmin q o => Sys2Proof.Machine.execVmin q o s
  | .vmax q o => Sys2Proof.Machine.execVmax q o s
  | .vabs q o => Sys2Proof.Machine.execVabs q o s
  | .vneg q o => Sys2Proof.Machine.execVneg q o s
  | .vrcp q o => Sys2Proof.Machine.execVrcp q o s
  | .vrsq q o => Sys2Proof.Machine.execVrsq q o s
  | .vex2 q o => Sys2Proof.Machine.execVex2 q o s
  | .vlg2 q o => Sys2Proof.Machine.execVlg2 q o s
  | .vcis q o => Sys2Proof.Machine.execVcis q o s
  | .vcvt q o => Sys2Proof.Machine.execVcvt q o s
  | .vand q o => Sys2Proof.Machine.execVand q o s
  | .vor q o => Sys2Proof.Machine.execVor q o s
  | .vxor q o => Sys2Proof.Machine.execVxor q o s
  | .vshl q o => Sys2Proof.Machine.execVshl q o s
  | .vshr q o => Sys2Proof.Machine.execVshr q o s
  | .vcmp q o => Sys2Proof.Machine.execVcmp q o s
  | .vsel q o => Sys2Proof.Machine.execVsel q o s
  | .vred q o => Sys2Proof.Machine.execVred q o s
  | .vscan q o => Sys2Proof.Machine.execVscan q o s
  | .vperm q o => Sys2Proof.Machine.execVperm q o s
  | .vbc q o => Sys2Proof.Machine.execVbc q o s
  | .vins q o => Sys2Proof.Machine.execVins q o s
  | .vext q o => Sys2Proof.Machine.execVext q o s
  | .vcntge q o => Sys2Proof.Machine.execVcntge q o s
  | .vidx q o => Sys2Proof.Machine.execVidx q o s
  | .lnop q y o => Sys2Proof.Machine.execLnop q y o s
  | .aclr q y o => Sys2Proof.Machine.execAclr q y o s
  | .mma q y o => Sys2Proof.Machine.execMma q y o s
  | .mmaq q y o => Sys2Proof.Machine.execMmaq q y o s
  | .mma3 q y o => Sys2Proof.Machine.execMma3 q y o s
  | .scacc q y o => Sys2Proof.Machine.execScacc q y o s
  | .adrn q y o => Sys2Proof.Machine.execAdrn q y o s
  | .ald q y o => Sys2Proof.Machine.execAld q y o s
  | .arow q y o => Sys2Proof.Machine.execArow q y o s
  | .bsmm q y o => Sys2Proof.Machine.execBsmm q y o s
  | .gmm q y o => Sys2Proof.Machine.execGmm q y o s
  | .ast q y o => Sys2Proof.Machine.execAst q y o s
  | .cpy q y o => Sys2Proof.Machine.execCpy q y o s
  | .cpym q y o => Sys2Proof.Machine.execCpym q y o s
  | .cpyq q y o => Sys2Proof.Machine.execCpyq q y o s
  | .fill q y o => Sys2Proof.Machine.execFill q y o s
  | .disc q y o => Sys2Proof.Machine.execDisc q y o s
  | .cpyt q y o => Sys2Proof.Machine.execCpyt q y o s
  | .talloc q o => Sys2Proof.Machine.execTalloc q o s
  | .tcmt q o => Sys2Proof.Machine.execTcmt q o s
  | .tabt q o => Sys2Proof.Machine.execTabt q o s
  | .tcon q o => Sys2Proof.Machine.execTcon q o s
  | .tinf q o => Sys2Proof.Machine.execTinf q o s
  | .tts q o => Sys2Proof.Machine.execTts q o s
  | .slput q o => Sys2Proof.Machine.execSlput q o s
  | .sleos q o => Sys2Proof.Machine.execSleos q o s
  | .sopen q o => Sys2Proof.Machine.execSopen q o s
  | .pump q o => Sys2Proof.Machine.execPump q o s
  | .rqry q o => Sys2Proof.Machine.execRqry q o s
  | .rres q o => Sys2Proof.Machine.execRres q o s
  | .rskp q o => Sys2Proof.Machine.execRskp q o s
  | .rrev q o => Sys2Proof.Machine.execRrev q o s
  | .rsyn q o => Sys2Proof.Machine.execRsyn q o s
  | .spawn q y o => Sys2Proof.Machine.execSpawn q y o s
  | .spawng q y o => Sys2Proof.Machine.execSpawng q y o s
  | .mfs q o => Sys2Proof.Machine.execMfs q o s
  | .mts q o => Sys2Proof.Machine.execMts q o s
  | .trap q o => Sys2Proof.Machine.execTrap q o s
  | .eret => Sys2Proof.Machine.execEret s
  | .suspend q o => Sys2Proof.Machine.execSuspend q o s
  | .yield q => Sys2Proof.Machine.execYield q s
  | .cmt q o => Sys2Proof.Machine.execCmt q o s
  | .fchk q o => Sys2Proof.Machine.execFchk q o s
  | .cwb q o => Sys2Proof.Machine.execCwb q o s
  | .cinv q o => Sys2Proof.Machine.execCinv q o s
  | .moduleReset => Sys2Proof.Machine.execModuleReset s
  | .mgrst v => Sys2Proof.Machine.execMgrst v s
  | .fieldThrottleStart watts temp => Sys2Proof.Machine.execFieldThrottleStart watts temp s
  | .fieldThrottleEnd watts temp => Sys2Proof.Machine.execFieldThrottleEnd watts temp s
  | .thermalShutdown temp => Sys2Proof.Machine.execThermalShutdown temp s
  | .hostCxlMemAccess write addr data => Sys2Proof.Machine.execHostCxlMemAccess write addr data s
  | .linkTraining link lanes => Sys2Proof.Machine.execLinkTraining link lanes s
  | .flitReceive link f => Sys2Proof.Machine.execFlitReceive link f s
  | .linkDown link => Sys2Proof.Machine.execLinkDown link s
  | .pairLost node => Sys2Proof.Machine.execPairLost node s
  | .write p => Sys2Proof.Machine.execWrite p s
  | .rdreq p => Sys2Proof.Machine.execRdreq p s
  | .rdrsp p => Sys2Proof.Machine.execRdrsp p s
  | .atomic p => Sys2Proof.Machine.execAtomic p s
  | .relflag p => Sys2Proof.Machine.execRelflag p s
  | .qappend p => Sys2Proof.Machine.execQappend p s
  | .ack p => Sys2Proof.Machine.execAck p s
  | .time link ahead delta => Sys2Proof.Machine.execTime link ahead delta s
  | .reservedPacketDiscard p => Sys2Proof.Machine.execReservedPacketDiscard p s
  | .heldPacketApply src => Sys2Proof.Machine.execHeldPacketApply src s
  | .dtset v => Sys2Proof.Machine.execDtset v s
  | .flock v => Sys2Proof.Machine.execFlock v s
  | .attgo v => Sys2Proof.Machine.execAttgo v s
  | .attestationReport => Sys2Proof.Machine.execAttestationReport s
  | .antiRollbackAdvance ty => Sys2Proof.Machine.execAntiRollbackAdvance ty s
  | .q0Disable => Sys2Proof.Machine.execQ0Disable s
  | .q0Enable => Sys2Proof.Machine.execQ0Enable s
  | .q0Reset => Sys2Proof.Machine.execQ0Reset s
  | .registerWrite off v => Sys2Proof.Machine.execRegisterWrite off v s
  | .queueTake q => Sys2Proof.Machine.execQueueTake q s
  | .launch q => Sys2Proof.Machine.execLaunch q s
  | .copy q => Sys2Proof.Machine.execCopy q s
  | .signalResolve q => Sys2Proof.Machine.execSignalResolve q s
  | .signalFail q => Sys2Proof.Machine.execSignalFail q s
  | .signalSemaphore q => Sys2Proof.Machine.execSignalSemaphore q s
  | .waitf q => Sys2Proof.Machine.execWaitf q s
  | .qbar q => Sys2Proof.Machine.execQbar q s
  | .unload q => Sys2Proof.Machine.execUnload q s
  | .migrate q => Sys2Proof.Machine.execMigrate q s
  | .void q => Sys2Proof.Machine.execVoid q s
  | .partCreate q => Sys2Proof.Machine.execPartCreate q s
  | .partReset q => Sys2Proof.Machine.execPartReset q s
  | .partMove q => Sys2Proof.Machine.execPartMove q s
  | .partWeight q => Sys2Proof.Machine.execPartWeight q s
  | .partQuota q => Sys2Proof.Machine.execPartQuota q s
  | .partHbm q => Sys2Proof.Machine.execPartHbm q s
  | .partQassign q => Sys2Proof.Machine.execPartQassign q s
  | .qstateDisable q => Sys2Proof.Machine.execQstateDisable q s
  | .qstateEnable q => Sys2Proof.Machine.execQstateEnable q s
  | .qstateReset q => Sys2Proof.Machine.execQstateReset q s
  | .dbgstop q => Sys2Proof.Machine.execDbgstop q s
  | .dbgres q => Sys2Proof.Machine.execDbgres q s
  | .dbgbrk q => Sys2Proof.Machine.execDbgbrk q s
  | .moncfg q => Sys2Proof.Machine.execMoncfg q s
  | .monitorPeriodicSample die mon => Sys2Proof.Machine.execMonitorPeriodicSample die mon s
  | .monitorWindowEnd die mon => Sys2Proof.Machine.execMonitorWindowEnd die mon s
  | .dispatch die => Sys2Proof.Machine.execDispatch die s
  | .dequeTake core => Sys2Proof.Machine.execDequeTake core s
  | .steal core => Sys2Proof.Machine.execSteal core s
  | .pitheadAging die => Sys2Proof.Machine.execPitheadAging die s
  | .priorityPreemption die part => Sys2Proof.Machine.execPriorityPreemption die part s
  | .inputHomeMove task => Sys2Proof.Machine.execInputHomeMove task s
  | .taskEnd core slot => Sys2Proof.Machine.execTaskEnd core slot s
  | .continuationResume core slot => Sys2Proof.Machine.execContinuationResume core slot s
  | .watchdogTimeout core slot => Sys2Proof.Machine.execWatchdogTimeout core slot s
  | .stallSwitch core => Sys2Proof.Machine.execStallSwitch core s
  | .imageSaveComplete core slot => Sys2Proof.Machine.execImageSaveComplete core slot s
  | .imageLoadComplete core slot => Sys2Proof.Machine.execImageLoadComplete core slot s
  | .parkWake task => Sys2Proof.Machine.execParkWake task s
  | .asyncTrapDelivery core slot => Sys2Proof.Machine.execAsyncTrapDelivery core slot s
  | .semaphoreWaitPass core slot => Sys2Proof.Machine.execSemaphoreWaitPass core slot s
  | .matrixChunk core slot => Sys2Proof.Machine.execMatrixChunk core slot s
  | .allocationGrant pool => Sys2Proof.Machine.execAllocationGrant pool s
  | .poolDeadlock part die => Sys2Proof.Machine.execPoolDeadlock part die s
  | .multicastGrant core => Sys2Proof.Machine.execMulticastGrant core s
  | .landingComplete job => Sys2Proof.Machine.execLandingComplete job s
  | .loaderSlice sub => Sys2Proof.Machine.execLoaderSlice sub s
  | .storerSlice sub => Sys2Proof.Machine.execStorerSlice sub s
  | .pumpRetry sub => Sys2Proof.Machine.execPumpRetry sub s
  | .ruleFire core slot k => Sys2Proof.Machine.execRuleFire core slot k s
  | .firingEnd core slot k => Sys2Proof.Machine.execFiringEnd core slot k s
  | .keeperDispatch keeper => Sys2Proof.Machine.execKeeperDispatch keeper s
  | .keeperIdleSave keeper => Sys2Proof.Machine.execKeeperIdleSave keeper s
  | .driftAccept core => Sys2Proof.Machine.execDriftAccept core s
  | .driftJobStart core => Sys2Proof.Machine.execDriftJobStart core s
  | .canaryPass job page => Sys2Proof.Machine.execCanaryPass job page s
  | .driftJobEnd job => Sys2Proof.Machine.execDriftJobEnd job s
  | .splitAdjust die hits shadow total => Sys2Proof.Machine.execSplitAdjust die hits shadow total s
  | .patrolScrub array hbm addr bad => Sys2Proof.Machine.execPatrolScrub array hbm addr bad s
  | .waitaRecheck core slot => Sys2Proof.Machine.execWaitaRecheck core slot s
  | .waitaTimeout core slot => Sys2Proof.Machine.execWaitaTimeout core slot s
  | .barwTimeout core slot => Sys2Proof.Machine.execBarwTimeout core slot s
  | .migrationComplete job => Sys2Proof.Machine.execMigrationComplete job s
  | .tileMoveComplete tile => Sys2Proof.Machine.execTileMoveComplete tile s
  | .partitionResetComplete part => Sys2Proof.Machine.execPartitionResetComplete part s

end Sys2Proof.Machine
end

