-- ==== Sys2Proof/Machine/Schedule.lean ====
section
/-! DEFINITION. The agents that may move while the agenda names nobody (log entry 1): the steps that the state makes possible,
as candidates; those that would change nothing are not taken. -/

namespace Sys2Proof.Machine
open Sys2Proof

/-- The steps of a rule that a context slot holds. -/
def ruleDue (key : Nat) (x : Nat × Rule) : List Instr :=
  match x.2.st with
  | .armed => [.ruleFire (key / 4) (key % 4) x.1]
  | .firing => [.firingEnd (key / 4) (key % 4) x.1]
  | .faulted => []

/-- The steps of a context. -/
def Ctx.due (key : Nat) (c : Ctx) : List Instr :=
  let n := key / 4
  let l := key % 4
  (match c.slot with
   | .free => []
   | .load => [.imageLoadComplete n l, .continuationResume n l]
   | .save => [.imageSaveComplete n l]
   | .run | .res =>
     c.k.flatMap (ruleDue key) ++ (if c.mx = [] then [] else [.matrixChunk n l]) ++ (if c.ending then [.taskEnd n l] else []) ++
     (if c.async = [] then [] else [.asyncTrapDelivery n l]) ++
     (match c.stall with
      | some .engine => [.driftAccept n]
      | some .alloc => [.multicastGrant n]
      | some (.mon _ _) => [.waitaRecheck n l, .waitaTimeout n l]
      | some (.sem _ _) => [.semaphoreWaitPass n l]
      | some (.barw _ _) => [.barwTimeout n l]
      | _ => []))

/-- The steps of a keeper (R188). -/
def Keeper.due (id : Nat) (x : Keeper) : List Instr :=
  match x.at_ with
  | some key => x.k.flatMap (ruleDue key) ++ [.keeperIdleSave id]
  | none => [.keeperDispatch id]

/-- The steps of a drift job (R446, R447, R159). -/
def Job.due (id : Nat) (j : Job) : List Instr :=
  match j.st with
  | .accepted => [.driftJobStart j.core]
  | .running => (if j.land = [] then [] else [.landingComplete id]) ++ [.driftJobEnd id]

/-- The steps of a queue with the packet its engine has taken (R49, R51). -/
def QEng.due (q : Nat) (e : QEng) : List Instr :=
  match e.taken with
  | none => [.queueTake q]
  | some _ => [.launch q, .copy q, .signalResolve q, .signalFail q, .signalSemaphore q, .waitf q, .qbar q, .unload q, .migrate q,
      .partCreate q, .partReset q, .partMove q, .partWeight q, .partQuota q, .partHbm q, .partQassign q, .qstateDisable q,
      .qstateEnable q, .qstateReset q, .dbgstop q, .dbgres q, .dbgbrk q, .moncfg q, .void q]

/-- The steps that time makes possible (R85, R90, R98, R110, R161, R22, R67). -/
def State.timed (s : State) : List Instr :=
  (s.pithead.map (·.die)).eraseDups.map .pitheadAging ++
  (s.pithead.map fun e => (e.die, e.part)).eraseDups.map (fun x => .priorityPreemption x.1 x.2) ++
  s.resident.map (fun k => .watchdogTimeout (k / 4) (k % 4)) ++
  (s.resident.map coreOf).eraseDups.map .stallSwitch ++
  s.dead.map (fun x => .poolDeadlock (x.1 / 4) (x.1 % 4)) ++
  (SMap.keys s.net.tx ++ SMap.keys s.net.route).eraseDups.map (fun n => .pairLost (BitVec.ofNat 12 n)) ++
  s.monitors.flatMap fun x => [.monitorPeriodicSample (x.1 / 32) (x.1 % 32), .monitorWindowEnd (x.1 / 32) (x.1 % 32)]

/-- The candidates, in a fixed order. -/
def State.due (s : State) : List Instr :=
  s.timed ++
  s.ctxs.flatMap (fun x => Ctx.due x.1 x.2) ++
  s.jobs.flatMap (fun x => Job.due x.1 x.2) ++
  (s.reqs.map (·.pool)).eraseDups.map .allocationGrant ++
  s.tileMoves.map (fun m => .tileMoveComplete m.key) ++
  (SMap.keys s.migs).map .migrationComplete ++
  s.parts.filterMap (fun x => if x.2.st = .resetting then some (.partitionResetComplete x.1) else none) ++
  s.net.rx.filterMap (fun x => if x.2.held = [] then none else some (.heldPacketApply (BitVec.ofNat 12 x.1))) ++
  s.subs.map (fun x => if x.2.retry.isSome then .pumpRetry x.1 else if x.2.loader then .loaderSlice x.1 else .storerSlice x.1) ++
  s.keepers.flatMap (fun x => Keeper.due x.1 x.2) ++
  s.tasks.flatMap (fun x => match x.2.st with
    | .waiting => .inputHomeMove x.1 :: (if x.2.page.isSome then [.parkWake x.1] else [])
    | .parked => [.parkWake x.1]
    | _ => []) ++
  s.deques.filterMap (fun x => if x.2 = [] then none else some (.dequeTake x.1)) ++
  (if s.deques.any (·.2 != []) then (s.clusters.flatMap fun x => coresOf x.1).map .steal else []) ++
  (s.pithead.map (·.die)).eraseDups.map .dispatch ++
  (if s.mgmt.attst = 1 then [.attestationReport] else []) ++
  s.qs.flatMap fun x => QEng.due x.1 x.2

/-- A context that can execute: running, not ending, not about to be cancelled, held or parked, and not stalled on a page that is
still missing (R113). -/
def State.canRun (s : State) (key : Nat) : Bool :=
  let c := s.ctx key
  c.slot = .run && !c.ending && match c.stall with
    | some .cancelled | some .debug | some (.parking _) => false
    | some (.page a) => s.pagePresent c.part a
    | _ => true

/-- The limits of `waita` and `barw` that pass before `b` bclk have: each wait ends in the bclk in which its limit expires, where the
condition may still hold (R356, R362). -/
def State.expire (s : State) (b : Nat) : State :=
  (SMap.keys s.ctxs).foldl (fun u key => match (u.ctx key).stall.bind Stall.till with
    | none => u
    | some t =>
      if t < s.bclk || s.bclk + b ≤ t then u
      else match execWaitaTimeout (key / 4) (key % 4) { u with bclk := t } with
        | .next v => match execBarwTimeout (key / 4) (key % 4) v with
          | .next w => w
          | _ => v
        | _ => u) s
/-- Time passes: counts of bclk, and of ns of the module's clock, which DTIME counts at the rate of R26 (R23). Waits end whose limits
pass, and what every bclk brings comes before: entries pass into the Pithead (R84), rules ask for their result tiles (R177), contexts
that are to park leave their slots (R118), keepers that have become READY enter the Pithead (R188), moves of clusters go on (R61),
deadlocks are looked for (R160). -/
def State.pass (s : State) (b n : Nat) : State :=
  let s1 := (s.expire b).takeIn.askAll.parkAll.keepersIn.movesOn.watchDead
  let millionths := s.net.frac + n * (1000000 + s.net.ppm).toNat
  { s1 with
    bclk := s.bclk + b
    mgmt := { s1.mgmt with dtime := s.mgmt.dtime + word (millionths / 1000000) }
    net := { s1.net with frac := millionths % 1000000 }
    agenda := s.agenda }

/-- The module has stopped at 115 °C, and the next agent does not reset it (R14). -/
def State.stuck (s : State) : Bool :=
  s.power.halted && !(match s.agenda with | .event .moduleReset :: _ => true | _ => false)

/-- A context that would go on: it can execute, and what it waits for is there. -/
def State.goesOn (s : State) (key : Nat) : Bool :=
  s.canRun key && match (s.ctx key).stall with
    | none => true
    | some w => s.waitOver key w
/-- The context to run when nothing is due: the current one, or the first that would go on. -/
def State.nextCtx (s : State) : Option Nat :=
  if s.goesOn s.cur then some s.cur
  else ((s.ctxs.map (·.1)).find? s.goesOn).or (if s.canRun s.cur then some s.cur else (s.ctxs.map (·.1)).find? s.canRun)

end Sys2Proof.Machine
end

