-- ==== Sys2Proof/Machine/Turn.lean ====
section
/-! DEFINITION. The turns of the agents: the next instruction of a context, one agent in a bclk of its own, several that share a bclk
(log entry 1), and what a step keeps of the text that it stores to (R248). -/

namespace Sys2Proof.Machine
open Sys2Proof

/-- A trap is pending and may be delivered: the boundary before the next instruction is the next one (R126, R336). -/
def Ctx.trapDue (c : Ctx) : Bool := c.async != [] && !c.th
/-- R43: a word that every instruction reads has an uncorrectable error, and the context's next one takes 0x5B, with a TVAL that the
manual does not give (log entry 12). -/
def State.upsetTrap (s : State) (key : Nat) : State :=
  let (v, s1) := s.fresh
  let (ec, s2) := ((s1.modCtx key fun c => { c with upset := false }).giveBack key).fetchedClass key
  s2.trapEnter key (exc 0x5B v) ec false (s.ctx key).pc
/-- The next instruction of the context `key`: fetched, then executed, once the firings of its core that precede it have entered
its engine (R178). A trap that is due comes instead, and so does the 0x5B of a word with an uncorrectable error that the instruction
would consume (R43); while the object table of its partition is under migration, the context stalls (R226). -/
def runOr (due : Bool) (key : Nat) (s : State) : Host.Outcome State Fault Refusal :=
  if !s.canRun key || s.objsMoving (s.ctx key).part then .next s
  else if due then .next (s.asyncTrap key)
  else if (s.ctx key).upset then .next (s.upsetTrap key)
  else match ({ s with cur := key } : State).fetched with
    | .inl (s', i) => if s'.hurt key i then .next (s'.hurtTrap key i) else exec i (s'.fireFirst (coreOf key) (ecOf i))
    | .inr s' => .next s'
def runCtx (key : Nat) (s : State) : Host.Outcome State Fault Refusal := runOr (s.ctx key).trapDue key s

/-! Several acts in one bclk (R137, R142, R468; log entry 1). -/

/-- An act: a step of the module, or the next instruction of a context, which takes a pending trap only if it was due when the bclk
began: a synchronous one of the same bclk comes first (R126). -/
inductive Act where
  | event (i : Instr)
  | ctx (due : Bool) (key : Nat)
  deriving DecidableEq, Repr

/-- The context whose next instruction an act is would execute it, as the bclk begins. -/
def Act.instr (s : State) : Act → Option Instr
  | .event i => some i
  | .ctx _ key => match ({ s with cur := key } : State).fetched with
    | .inl (_, i) => some i
    | .inr _ => none
/-- The place of an act in its bclk. R137: allocations and commits, then consumptions, then abandonments, then holds that are acquired,
then acts that may also release one, the return of pages last of all. R142: a dispatch comes after the grants. R87, R356, R362: an owner
comes before a thief, and a condition before its limit. `tinf` reads what the others leave. -/
def Act.rank (s : State) (a : Act) : Nat :=
  match a.instr s with
  | some (.talloc _ _) | some (.tcmt _ _) | some (.cmt _ _) | some (.allocationGrant _) | some (.multicastGrant _) => 0
  | some (.tcon _ _) | some (.tabt _ _) => 2
  | some (.spawn _ _ _) | some (.spawng _ _ _) | some (.pump _ _) | some (.driftAccept _) => 3
  | some (.slput _ _) | some (.sleos _ _) | some (.loaderSlice _) | some (.storerSlice _) | some (.firingEnd _ _ _)
  | some (.driftJobEnd _) | some (.landingComplete _) | some (.taskEnd _ _) | some (.suspend _ _) | some (.futw _ _) => 4
  | some (.steal _) | some (.dispatch _) | some (.barwTimeout _ _) | some (.waitaTimeout _ _) | some (.watchdogTimeout _ _) => 5
  | some (.tinf _ _) => 6
  | _ => 1
/-- The core and slot from which an act comes, and there a pump before a rule before a context (R137, R166). -/
def Act.place (s : State) : Act → Nat × Nat
  | .ctx _ key => (key, 2)
  | .event (.loaderSlice k) | .event (.storerSlice k) => (4 * ((SMap.get? s.subs k).elim 0 (·.core)), 0)
  | .event (.ruleFire n l _) | .event (.firingEnd n l _) => (4 * n + l, 1)
  | .event (.taskEnd n l) | .event (.matrixChunk n l) => (4 * n + l, 2)
  | .event (.driftJobEnd id) | .event (.landingComplete id) => (4 * ((SMap.get? s.jobs id).elim 0 (·.core)), 2)
  | _ => (0, 0)
def Act.before (s : State) (a b : Act) : Bool :=
  let x := (a.rank s, a.place s)
  let y := (b.rank s, b.place s)
  x.1 < y.1 || (x.1 = y.1 && (x.2.1 < y.2.1 || (x.2.1 = y.2.1 && x.2.2 < y.2.2)))
/-- The acts of a bclk in their order; those that the manual does not order, as the agenda lists them. -/
def inOrder (s : State) (l : List Act) : List Act :=
  l.foldl (fun r a => r.filter (fun b => !a.before s b) ++ [a] ++ r.filter (a.before s ·)) []
/-- One after another. -/
def acts : List Act → State → Host.Outcome State Fault Refusal
  | [], s => .next s
  | a :: r, s =>
    match (match a with | .event i => exec i s | .ctx due key => runOr due key s) with
    | .next s1 => acts r s1
    | x => x
/-- The acts of one bclk; then the pages return (R137). -/
def together (l : List Act) (s : State) : Host.Outcome State Fault Refusal :=
  match acts (inOrder s l) { s with shared := some [] } with
  | .next s1 => .next ((SMap.keys s1.tiles).foldl State.settle { s1 with shared := none })
  | x => x

/-! The next turn. -/

/-- A candidate that would move. -/
def moves (s : State) (i : Instr) : Bool :=
  match exec i s with
  | .next s' => s' != s
  | _ => false
/-- The next bclk, in which one turn is taken. -/
def State.tick (s : State) : State := s.pass 1 0
/-- The turn that is next: what the agenda names, or else a step that is due, or the next instruction of a context. -/
def turn (s : State) : Host.Outcome State Fault Refusal :=
  match s.agenda with
  | .event i :: r => exec i (State.tick { s with agenda := r })
  | .ctx k :: r => runCtx k (State.tick { s with agenda := r })
  | .together es ks :: r =>
    let s1 := State.tick { s with agenda := r }
    together (es.map .event ++ ks.map fun k => .ctx (s1.ctx k).trapDue k) s1
  | .pass b n :: r => .next (State.pass { s with agenda := r } b n)
  | .env e :: r => .next (State.env (State.tick { s with agenda := r }) e)
  | [] =>
    let s1 := s.tick
    match s1.due.find? (moves s1) with
    | some i => exec i s1
    | none =>
      match s1.nextCtx with
      | some k => runCtx k s1
      | none => .next s1
/-- R248: what a step answers, with the text that it stores to on record. -/
def State.kept (s : State) : Host.Outcome State Fault Refusal → Host.Outcome State Fault Refusal
  | .next t => .next (s.keepText t)
  | x => x

end Sys2Proof.Machine
end

