-- ==== Sys2Proof/Machine/Step.lean ====
section
/-! DEFINITION. One step of the module: the next turn (log entry 1). -/

namespace Sys2Proof.Machine
open Sys2Proof

/-- One step: time passes, or one turn is taken in a bclk of its own. -/
def step (s : State) : Host.Outcome State Fault Refusal :=
  if s.stuck then .fault .halted else s.kept (turn s)

/-- The address of the instruction that `withFetchWord` places. -/
def fetchBase : Nat := 0x10000

/-- `s` with an instruction of up to four doublewords where the next step fetches (log entry 1): context 0 runs task 0 of
partition 0 at `fetchBase`, in a page that may be read, written and executed, and is the next agent. -/
def State.withFetchWord (s : State) (nbits w : Nat) : State :=
  let mem := Mem.writeN s.mem fetchBase 32 (w % 2 ^ nbits)
  let mem := Mem.writeN mem 0x200000 8 0x0F
  let mem := Mem.writeN mem 0x100000 8 0x200001
  { s with
    mem := mem
    poison := []
    power := { s.power with halted := false }
    parts := SMap.put s.parts 0 { s.part 0 with st := .active, ptroot := 0x100000 }
    grants := ⟨0, 2 ^ 31, 0, 0xFF⟩ :: s.grants
    ctxs := SMap.put s.ctxs 0 { Ctx.empty with
      slot := .run, pc := word fetchBase, etb := word (fetchBase - 32), exits := List.replicate 8 (word fetchBase) }
    icache := []
    cur := 0
    agenda := .ctx 0 :: s.agenda }

end Sys2Proof.Machine
end

