-- ==== Sys2Proof/Safety.lean ====
section
/-! DEFINITION. What the statements speak of: reaching a state in steps, what an instruction leaves when it has retired, what
holds of a context that may run, and the invariants of a state. -/

namespace Sys2Proof.Machine
open Sys2Proof

/-- `n` steps lead from one state to another without a fault or a refusal. -/
inductive Steps : Nat → State → State → Prop where
  | refl (s : State) : Steps 0 s s
  | tail {n : Nat} {a b c : State} : Steps n a b → step b = .next c → Steps (n + 1) a c

/-- The memory keeps its canonical form. -/
def State.MemWf (s : State) : Prop := Mem.wf s.mem

/-- The running context. -/
def State.me (s : State) : Ctx := s.ctx s.cur
/-- The registers of the running context changed. -/
def State.regs (s : State) (f : Ctx → Ctx) : State := s.modCtx s.cur f
/-- Instruction `i` of the running context of `s` has had its effect, which left `t`, and retires: its sequencing (R258)
follows. -/
def State.retired (s : State) (i : Instr) (t : State) : State := t.finish i s.cur s.me.pc true
/-- Instruction `i` of the running context raises a cause at its own address (R122, R123). -/
def State.raises (s : State) (i : Instr) (e : Exc) : State := s.trapEnter s.cur e (ecOf i) false s.me.pc
/-- No debug stop follows an instruction of a context: TH is set, or its task is not stepped and no breakpoint stands (R64). -/
def State.quiet (s : State) (key : Nat) : Prop :=
  (s.ctx key).th = true ∨ ((s.task (s.ctx key).task).stepping = false ∧ (s.part (s.ctx key).part).brk = [])

/-! What a vector instruction leaves. -/

/-- Lane `e` is active (R371). -/
def Ctx.on (c : Ctx) (masked : Bool) (vm : BitVec 5) (e : Nat) : Bool := !masked || (c.lane vm.toNat e).getLsbD 0
/-- Context `c'` is `c` with flags added to FPS and, of the vector registers, with the lanes of register `d` that `f` gives, which
thereby lose their poison (R43). -/
def Ctx.Gets (c c' : Ctx) (d : Nat) (fl : Fl) (f : Nat → Option (BitVec 32)) : Prop :=
  c' = { c with v := c'.v, bad := c'.bad, fps := c.fps ||| fl.setWidth 64 } ∧
  (∀ w, w ∈ c'.bad ↔ w ∈ c.bad ∧ ¬∃ e < 64, (f e).isSome = true ∧ w = laneCell d e) ∧
  ∀ n e, e < 64 → c'.lane n e = if n = d then (f e).getD (c.lane n e) else c.lane n e
/-- Instruction `i`, whose other effects left `t`, fills lanes of register `d` and retires. -/
def State.fills (s : State) (i : Instr) (t : State) (d : Nat) (fl : Fl) (f : Nat → Option (BitVec 32)) : Prop :=
  ∃ c, exec i s = .next (s.retired i (t.setCtx s.cur c)) ∧ (t.ctx s.cur).Gets c d fl f
/-- Feature 1 is on where an FP8 type is used (R370). -/
def State.fp8Ok (s : State) (t : BitVec 4) : Prop := t = 9 ∨ t = 10 → s.feature 1 = true

/-! What an instruction needs to complete, where a step that retries it from its wait needs the same. -/

/-- R446: in `s`, where its checks have passed, the running context's command becomes the job `j`, which leaves `t`: an irrevocable
one in DIRECT mode; the engine, which holds eight, and the footprint domain have room; nothing older overlaps it. -/
def State.takesJob (s : State) (irrevocable : Prop) (j : Job) (t : State) : Prop :=
  (irrevocable → s.me.direct = true) ∧ (s.jobsOn (s.cur / 4)).length < 8 ∧
  (∀ d, (s.task s.me.task).launch = some d → j.regions ≠ [] → (s.members.filter fun m => m.dom = d).length < 4096) ∧
  ordered j.rng s = .ok ((), s) ∧ s.accept j = .ok t
/-- R158, R450: in `s`, `cpym` finds every receiver's pool able to grant its landing, and becomes a job, which leaves `t`. -/
def State.multicasts (s : State) (y : Sync) (o : CpymO) (t : State) : Prop :=
  ∃ (tk : Nat) (j : Job), o.c.kd = 1 ∧ o.c.ka = 4 ∧ o.rds ≠ 0 ∧ s.feature 7 = true ∧ (s.task s.me.task).gang.isSome = true ∧
    let d := (s.me.reg o.c.d).toNat
    let h := s.me.hreg o.c.a
    let core := s.cur / 4
    d % 4 = 0 ∧ localRange 1 d 4 s = .ok ((), s) ∧ operandTile none h 0 0 .rd s = .ok ((), s) ∧ s.tileOf h = some tk ∧
    let x := s.tile tk
    let to_ := s.receivers s.me.task core o.xs
    let rng : List Rng := ⟨lsKey core d, 4, true⟩ :: s.tileRng tk false
    x.st = .committed ∧ (∀ r ∈ to_, ∃ k, s.localKey r 1 d 4 = .ok k) ∧ (∀ r ∈ to_, x.pg ≤ (s.quota r x.part).c) ∧
    futureCheck o.c s = .ok ((), s) ∧ ordered rng s = .ok ((), s) ∧
    drJob .cpym o.c y s = .ok (j, s) ∧ (s.jobsOn core).length < 8 ∧
    let asked := to_.foldl (fun (z : State × List Req) r => let w := z.1.joinFifo x.part r x.pg; (w.1, z.2 ++ [w.2])) (s, [])
    asked.2.all asked.1.mayGrant = true ∧
    let s2 : State := { asked.1 with reqs := asked.1.reqs.filter fun r => !asked.2.contains r }
    let landed := s2.landings s2.nextId core x.pg o.rds.toNat x.stamp x.part to_
    landed.1.accept { j with
      a := .tile h, len := to_.length, rsi := o.rsi, rds := o.rds.toNat, dstLs := d, land := landed.2, rng := rng } = .ok t
/-- R442 to R454: drift command `i`, whose wait is over in `s`, passes its checks and becomes an accepted job, which leaves `t`. -/
def State.accepts (s : State) (t : State) (i : Instr) : Prop :=
  match i with
  | .cpy _ y o => ∃ j : Job, o.c.kd.toNat ∈ [0, 1, 2, 3, 4, 7] ∧ o.c.ka.toNat ∈ [0, 1, 2, 3, 4, 7] ∧
      (o.c.kd = 7 → s.feature 9 = true) ∧ (o.c.cv ≠ 0 → o.c.et = 8 ∨ o.c.et = 9 → s.feature 1 = true) ∧
      cvChecks i o.c s = .ok ((), s) ∧
      let k := (s.me.reg o.c.b).toNat
      let h := o.c.hm1.toNat + 1
      let l := [⟨true, true, o.c.kd.toNat, o.c.d, cvDst o.c.cv.toNat o.c.et.toNat h k, o.c.cv = 1 || o.c.cv = 3⟩,
        ⟨false, false, o.c.ka.toNat, o.c.a, cvSrc o.c.cv.toNat o.c.et.toNat h k, o.c.cv = 2⟩]
      drRanges o.c l s = .ok ((), s) ∧ drJob .cpy o.c y s = .ok (j, s) ∧
      s.takesJob (o.c.kd = 0 ∨ o.c.kd = 7 ∨ o.tc = true) (s.withEnds { j with
        len := cvSrc o.c.cv.toNat o.c.et.toNat h k, kk := k, tc := o.tc, tilec := o.c.ka = 7 } o.c.fp l) t
  | .fill _ y o => ∃ j : Job, o.c.kd.toNat < 5 ∧ o.c.ka ≠ 5 ∧
      let n := (s.me.reg o.c.b).toNat
      let w := 2 ^ o.pw.toNat
      let l := [⟨true, true, o.c.kd.toNat, o.c.d, n, false⟩]
      (o.c.kd = 4 ∨ (s.me.reg o.c.d).toNat % w = 0) ∧ n % w = 0 ∧ drRanges o.c l s = .ok ((), s) ∧
      drJob .fill o.c y s = .ok (j, s) ∧ s.takesJob (o.c.kd = 0 ∨ o.tc = true)
        (s.withEnds { j with len := n, tc := o.tc, pat := s.me.reg o.c.a, pw := w } o.c.fp l) t
  | .disc _ y o => ∃ j : Job, o.kd ≠ 5 ∧ o.ka ≠ 5 ∧ s.me.ph = true ∧
      let a := s.me.reg o.a
      let n := (s.me.reg o.b).toNat
      a.toNat % 65536 = 0 ∧ n % 65536 = 0 ∧ futureCheck o s = .ok ((), s) ∧ endForm ⟨true, true, 0, o.a, n, false⟩ s = .ok ((), s) ∧
      drJob .disc o y s = .ok (j, s) ∧ s.takesJob True { j with d := .gv a, len := n } t
  | .cpyq _ y o => ∃ j : Job, o.c.kd = 0 ∧ o.c.ka.toNat ∈ [0, 1, 2, 3, 4, 7] ∧
      let v := (s.me.reg o.qr).toNat
      let n := (s.me.reg o.c.b).toNat
      let l := [⟨true, true, 0, o.c.d, n, false⟩, ⟨false, false, o.c.ka.toNat, o.c.a, n, false⟩]
      queueWord i v s = .ok ((), s) ∧ drRanges o.c l s = .ok ((), s) ∧ drJob .cpyq o.c y s = .ok (j, s) ∧
      let j' := s.withEnds { j with len := n, kk := n, qn := v % 4096, img := bits v 51 32, tilec := o.c.ka = 7 } o.c.fp l
      s.takesJob True { j' with rng := j'.rng ++ [⟨lsKey j'.core j'.img, 64, false⟩] } t
  | .cpyt _ y o => ∃ (j : Job) (x : Tensor) (u : State), o.c.kd.toNat < 5 ∧ o.c.ka ≠ 5 ∧ o.c.cv.toNat ≤ 1 ∧
      let v := (s.me.reg o.c.a).toNat
      v < 65536 ∧ tensorM v s = .ok (x, u) ∧ u.cur = s.cur ∧ (o.c.cv = 1 → x.etype = 8 ∨ x.etype = 9 → u.feature 1 = true) ∧
      boxFault i x o = none ∧
      let b0 := o.bx0m1.toNat + 1
      let b1 := o.bx1m1.toNat + 1
      let n := boxBytes o.c.cv.toNat x.etype b0 b1
      let l := [⟨true, !o.dir, o.c.kd.toNat, o.c.d, n, o.c.cv = 1⟩]
      drRanges o.c l u = .ok ((), u) ∧ drJob .cpyt o.c y u = .ok (j, u) ∧
      u.takesJob (o.dir = true ∨ o.c.kd = 0 ∨ o.tc = true) (u.withEnds { j with
        len := n, tc := o.tc, tid := v, dir := o.dir, bx0 := b0, bx1 := b1, et := x.etype, pat := BitVec.ofNat 64 (cmdOf i),
        coords := ((List.range 5).filter fun k => o.c.b.toNat + k < 32).map fun k => (u.me.reg (o.c.b + BitVec.ofNat 5 k)).toNat,
        pre := [BitVec.ofNat 64 (dw0 i)] } o.c.fp l) t
  | .cpym _ y o => s.multicasts y o t
  | _ => False
/-- R356: `waita` in `s` passes its checks and reads the value `v`, which lies at the key `k`; that leaves `t`. -/
def State.watches (s : State) (o : WaitaO) (v k : Nat) (t : State) : Prop :=
  let n := 2 ^ o.w.toNat
  let a := s.me.reg o.a + s.me.reg o.b
  o.sc.toNat < 6 ∧ o.cnd ≠ 3 ∧ t.cur = s.cur ∧
  ((o.sp = 1 ∨ o.sp = 2 ∨ o.sp = 3) ∧ (o.sp = 1 ∨ o.sp = 2 → o.sc = 0 ∧ o.cls = 0) ∧ spaceLoc o.sp.toNat a n n s = .ok (.key k, s) ∧
      ordered [⟨k, n, false⟩] s = .ok ((), s) ∧ s.poisoned k n = false ∧ v = leNat (Mem.readL s.mem k n) ∧ t = s ∨
    o.sp = 4 ∧ ∃ (bs : List Byte) (d h : Bool) (u : State), spaceLoc 4 a n n s = .ok (.gv a, s) ∧ gvLoad a n s = .ok (bs, u) ∧
      gvPage a .rd u = .ok ((k, d, h), t) ∧ v = leNat bs)
/-- R356: the condition of `waita` holds for the value read. -/
def State.waitaMet (s : State) (o : WaitaO) (v : Nat) : Bool :=
  let y := (s.me.reg o.b).toNat % 2 ^ (8 * 2 ^ o.w.toNat)
  if o.cnd = 0 then v ≠ y else if o.cnd = 1 then v = y else y ≤ v
/-- R356: `waita` ends in `s`, after a read that left `t`: its monitor is free and its status is in sD. -/
def State.waitaEnds (s : State) (q : Seqn) (o : WaitaO) (t : State) (status : Word) : State :=
  s.retired (.waita q o) (({ t with watch := t.watch.filter (·.1 != s.cur) } : State).regs fun c => c.setReg o.d status)

end Sys2Proof.Machine
end

