-- ==== Sys2Proof/Certificates/Slice0/Obligations.lean ====
section
/-! DEFINITION. The statements for the provers. -/

open Sys2Proof Sys2Proof.Machine

/-- R247, R265 to R267, R317, R328, R332, R344, R351, R356, R366, R394, R408, R428, R436, R449: words written out from the
encoding tables decode to their instructions. -/
def Obligations.DecodeWords : Prop :=
  let plain : Seqn := ⟨0, 12, 0⟩
  decodeNat 0x002E000000000000 = .ok (.nop ⟨5, 12, 0⟩) ∧
  decodeNat 0x064991941FFFC880 = .ok (.cmp ⟨1, 3, 1⟩
    { d := 3, a := 5, b := 0, imm := 0xFFFE, p := false, i := true, w := false, cc := 2, cmb := 0 }) ∧
  decodeNat 0x2006029806198008 = .ok (.ld plain
    { d := 5, a := 6, b := 0, cls := 3, sc := 0, ord := 1, sp := 4, w := 3, sx := false, c := false, h := false, disp := 2 }) ∧
  decodeNat 0x20C6085980099000 =
    .ok (.cas plain { d := 16, a := 22, b := 12, cls := 0, sc := 0, ord := 0, sp := 4, w := 3, opc := 2 }) ∧
  decodeNat (0x6046011066222781 + 0x00001487FFFFC000 * 2 ^ 64) = .ok (.mma plain ⟨0, 0, 5, 1⟩
    { d := 2, a := 4, b := 3, pa := 0x31, pb := 0x11, ka := 1, kb := 7, xr := 0, km1 := 255,
      mm1 := 63, nm1 := 63, at_ := true, gs := 0, ne := 0, br := 0, be := false }) ∧
  decodeNat (0x8006022550B5F801 + 0x0000002E00000000 * 2 ^ 64) = .ok (.cpy plain ⟨0, 0, 0, 0⟩
    { tc := false
      c := { d := 4, a := 9, b := 10, kd := 4, ka := 1, cv := 1, et := 10, hm1 := 63, fp := false, csc := 0, scout := 0, fr := 11,
             fv := true, tr := 0, tv := false } }) ∧
  decodeNat 0xA006010000006860 = .ok (.talloc plain { d := 2, a := 0, imm := 3, p := false, lvl := 2, pgm1 := 3 })

/-- R122, R126, R178, R247, R248, R259, R267: every step that is not a pass of time is a bclk of its own, which comes before
the agent moves (log entry 1). When a context is the next agent, can run, and has no trap due, and the doublewords at its pc
decode to an instruction, the step is that instruction in the state where the fetch has marked the pages used and the
firings that precede it in its engine have started; a trap that is due comes instead, and so does the 0x5B of a word that an
error has hit and that the instruction consumes, with a TVAL that the manual does not give (log entry 12); while the object
table of its partition is under migration, it stalls (log entry 39). A doubleword of text is fetched as memory holds it, or,
where it has been stored to, until `cinv` also as it was before (log entry 9): a step keeps a record of that, and the record
changes nothing else. An event that is next moves as its own row does; several acts may share a bclk (log entry 1); time
passes by what the agenda says, DTIME at the rate of R26; and the world outside acts. -/
def Obligations.StepRunsDecoded : Prop :=
  ∀ (s : State) (r : List Turn), s.stuck = false →
    let s0 : State := State.tick { s with agenda := r }
    (s0.bclk = s.bclk + 1 ∧ s0.dtime = s.dtime + BitVec.ofNat 64 (s.net.frac / 1000000) ∧ s0.agenda = r) ∧
    (∀ i, s.agenda = .event i :: r → step s = s.kept (exec i s0)) ∧
    (∀ e, s.agenda = .env e :: r → step s = .next (s.keepText (State.env s0 e))) ∧
    (∀ es ks, s.agenda = .together es ks :: r →
      step s = s.kept (together (es.map .event ++ ks.map fun k => .ctx (s0.ctx k).trapDue k) s0)) ∧
    (s.agenda = [] → r = [] → (∀ i, s0.due.find? (moves s0) = some i → step s = s.kept (exec i s0)) ∧
      (s0.due.find? (moves s0) = none → s0.nextCtx = none → step s = .next (s.keepText s0))) ∧
    (∀ t, (s.mem = t.mem → s.keepText t = t) ∧ ∃ m, s.keepText t = { t with icache := m } ∧
      ∀ k old, SMap.get? t.icache k = some old → SMap.get? m k = some old) ∧
    (∀ b n, s.agenda = .pass b n :: r → ∃ t, step s = .next t ∧ t.bclk = s.bclk + b ∧
      t.dtime = s.dtime + BitVec.ofNat 64 ((s.net.frac + n * (1000000 + s.net.ppm).toNat) / 1000000) ∧ t.agenda = r ∧
      ((∀ core, s.rulesOn core = []) → (∀ e ∈ s.pithead, e.inside = true) → s.keepers = [] →
        (∀ x ∈ s.ctxs, (∀ a, x.2.stall ≠ some (.parking a)) ∧ x.2.stall.bind Stall.till = none) → s.moves = [] → t.ctxs = s.ctxs ∧ t.mem = s.mem ∧ t.tasks = s.tasks)) ∧
    (∀ core eng, s.rulesOn core = [] → s.fireFirst core eng = s) ∧
    (∀ p (a : Word) w, let key := p * 2 ^ 64 + a.toNat
      (SMap.get? s.icache key = none → s.fetchDw p a w = (s, w)) ∧
      (∀ old, SMap.get? s.icache key = some old → (s.fetchDw p a w).2 = old ∨ (s.fetchDw p a w).2 = w) ∧
      (SMap.get? s.icache key = some w → s.fetchDw p a w = (s, w))) ∧
    (∀ key, s.agenda = .ctx key :: r →
      let s1 : State := { s0 with cur := key }
      let c := s0.ctx key
      let runs (u : State) (i : Instr) : Host.Outcome State Fault Refusal := s.kept
        (if u.hurt key i then .next (u.hurtTrap key i) else exec i (u.fireFirst (key / 4) (ecOf i)))
      (s0.canRun key = false ∨ s0.objsMoving c.part = true → step s = .next (s.keepText s0)) ∧
      (s0.canRun key = true → s0.objsMoving c.part = false → c.trapDue = true → step s = .next (s.keepText (s0.asyncTrap key))) ∧
      (s0.canRun key = true → s0.objsMoving c.part = false → c.trapDue = false → c.upset = true →
        step s = .next (s.keepText (s0.upsetTrap key))) ∧
      (s0.canRun key = true → s0.objsMoving c.part = false → c.trapDue = false → c.upset = false →
        (∀ i u, s1.fetched = .inl (u, i) → step s = runs u i) ∧
        (∀ u, s1.fetched = .inr u → step s = .next (s.keepText u)) ∧
        (∀ a h l n, c.exits ≠ [] → s1.translate c.part c.pc .ex true = .ok a false h l →
          let s2 := s1.markUsed l .ex
          let f := s2.fetchDw c.part c.pc (leNat (Mem.readL s2.mem a 8))
          let b := leBytes 8 f.2
          s2.poisoned a 8 = false → decodeHead (leNat b) = .ok n → c.pc.toNat % 65536 + 8 * n ≤ 65536 →
          (∀ i, n = 1 → decodeNat (leNat b) = .ok i → step s = runs f.1 i) ∧
          (∀ i a2 h2 l2, 1 < n → f.1.translate c.part (c.pc + 8) .ex true = .ok a2 false h2 l2 →
            let s3 := f.1.markUsed l2 .ex
            let m := Mem.readL s3.mem a2 (8 * (n - 1))
            let g := s3.fetchDws c.part (c.pc + 8) ((List.range (n - 1)).map fun i => slice m (8 * i) 8)
            s3.poisoned a2 (8 * (n - 1)) = false → decodeNat (leNat (b ++ g.2)) = .ok i →
            step s = runs g.1 i))))

/-- R25, R32, R38, R59, R69, R109, R137, R165, R244: after module reset DTIME is 0 and not yet set, BOOTSTAT is 0, the
feature mask is not locked and holds nothing, every context slot is FREE, no partition is in use and none owns a cluster, no
tile is allocated, no stream has a slice, and the scratchpad of every die is its 16 MiB. -/
def Obligations.ResetState : Prop :=
  let s := State.reset
  s.dtime = 0 ∧ s.mgmt.dtset = false ∧ s.mgmt.bootstat = 0 ∧ s.mgmt.flock = false ∧ (∀ n, s.feature n = false) ∧
  (∀ k, (s.ctx k).slot = .free) ∧ (∀ p, (s.part p).st = .unused) ∧ (∀ c, s.ownerOf c = none) ∧
  (∀ k, (s.tile k).st = .free) ∧ (∀ p t, (s.stream p t).next = 0 ∧ (s.stream p t).eosx = none) ∧
  (∀ d, s.scratchOf d = 16) ∧ s.bclk = 0 ∧ s.stuck = false

/-- R247, R265 to R268 and the field tables of chapters 13 to 17: decoding what a well-formed instruction encodes to gives
it back, with every operand at every value. -/
def Obligations.EncodeDecode : Prop :=
  ∀ i : Instr, isCoded i = true → WellFormed i = true → decodeNat (encodeNat i) = .ok i

/-- Log entry 2: after reset the memory has its canonical form. -/
def Obligations.MemWfReset : Prop :=
  State.reset.MemWf ∧ ∀ k, Mem.read State.reset.mem k = 0

/-- Log entry 2: every step keeps the canonical form of the memory, in every state that has it. -/
def Obligations.MemWfStep : Prop :=
  ∀ s t : State, s.MemWf → step s = .next t → t.MemWf

/-- R319, R320: the sixteen two-operand instructions, for every form of the second operand (a register, an immediate, a
patch slot) and both widths; `div` and `rem` where y is not 0, and where it is: 0x15, with the registers as they were.
Nothing else changes before the sequencing. -/
def Obligations.IntegerResults : Prop :=
  (∀ (q : Seqn) (o : Alu) (s s1 : State) (y : Word), secondOp o.i o.p o.imm o.b s = .ok (y, s1) →
     let x := s.me.reg o.a
     let x' : Half := x.setWidth 32
     let y' : Half := y.setWidth 32
     let gives (i : Instr) (r : Word) (r' : Half) : Prop :=
       exec i s = .next (s.retired i (s1.regs fun c =>
         c.setReg o.d (if o.w then (if o.u then r'.setWidth 64 else r'.signExtend 64) else r)))
     gives (.add q o) (x + y) (x' + y') ∧ gives (.sub q o) (x - y) (x' - y') ∧ gives (.mul q o) (x * y) (x' * y') ∧
     gives (.mulh q o)
       (((if o.u then x.setWidth 128 * y.setWidth 128 else x.signExtend 128 * y.signExtend 128 : BitVec 128) >>> 64).setWidth 64)
       (((if o.u then x'.setWidth 64 * y'.setWidth 64 else x'.signExtend 64 * y'.signExtend 64 : Word) >>> 32).setWidth 32) ∧
     ((if o.w then y' ≠ 0 else y ≠ 0) →
       gives (.div q o) (if o.u then x / y else x.sdiv y) (if o.u then x' / y' else x'.sdiv y') ∧
       gives (.rem q o) (if o.u then x % y else x.srem y) (if o.u then x' % y' else x'.srem y')) ∧
     gives (.and q o) (x &&& y) (x' &&& y') ∧ gives (.or q o) (x ||| y) (x' ||| y') ∧ gives (.xor q o) (x ^^^ y) (x' ^^^ y') ∧
     gives (.andn q o) (x &&& ~~~y) (x' &&& ~~~y') ∧
     gives (.shl q o) (x <<< (y.toNat % 64)) (x' <<< (y'.toNat % 32)) ∧
     gives (.shr q o) (x >>> (y.toNat % 64)) (x' >>> (y'.toNat % 32)) ∧
     gives (.sar q o) (x.sshiftRight (y.toNat % 64)) (x'.sshiftRight (y'.toNat % 32)) ∧
     gives (.rot q o) (x.rotateLeft (y.toNat % 64)) (x'.rotateLeft (y'.toNat % 32)) ∧
     gives (.min q o) (if (if o.u then x ≤ y else x.toInt ≤ y.toInt) then x else y)
       (if (if o.u then x' ≤ y' else x'.toInt ≤ y'.toInt) then x' else y') ∧
     gives (.max q o) (if (if o.u then x ≤ y else x.toInt ≤ y.toInt) then y else x)
       (if (if o.u then x' ≤ y' else x'.toInt ≤ y'.toInt) then y' else x')) ∧
  (∀ (q : Seqn) (o : Alu) (s s1 : State) (y : Word), secondOp o.i o.p o.imm o.b s = .ok (y, s1) →
     (if o.w then (y.setWidth 32 : Half) = 0 else y = 0) → s.me.passed = none →
     exec (.div q o) s = .next (s.raises (.div q o) (exc 0x15)) ∧
     exec (.rem q o) s = .next (s.raises (.rem q o) (exc 0x15)))

/-- R321, R322: counting, extension and bit fields, bit by bit. -/
def Obligations.BitResults : Prop :=
  ∀ (q : Seqn) (s : State),
    (∀ o : CntO, ∃ r : Word, exec (.clz q o) s = .next (s.retired (.clz q o) (s.regs fun c => c.setReg o.d r)) ∧
      let n := if o.w then 32 else 64
      let x := s.me.reg o.a
      r.toNat ≤ n ∧ (∀ j, n - r.toNat ≤ j → j < n → x.getLsbD j = false) ∧ (r.toNat < n → x.getLsbD (n - 1 - r.toNat) = true)) ∧
    (∀ o : CntO, exec (.popc q o) s = .next (s.retired (.popc q o) (s.regs fun c => c.setReg o.d
      (BitVec.ofNat 64 ((List.range (if o.w then 32 else 64)).countP fun j => (s.me.reg o.a).getLsbD j))))) ∧
    (∀ o : SextO, ∃ r : Word, exec (.sext q o) s = .next (s.retired (.sext q o) (s.regs fun c => c.setReg o.d r)) ∧
      ∀ j, j < 64 → r.getLsbD j = if j ≤ o.bit.toNat then (s.me.reg o.a).getLsbD j else !o.z && (s.me.reg o.a).getLsbD o.bit.toNat) ∧
    (∀ o : BfO, 1 ≤ o.len.toNat → o.len.toNat ≤ 64 →
      (∃ r : Word, exec (.bfx q o) s = .next (s.retired (.bfx q o) (s.regs fun c => c.setReg o.d r)) ∧
        let x := s.me.reg o.a
        let p := o.pos.toNat
        ∀ j, j < 64 → r.getLsbD j = if j < o.len.toNat then x.getLsbD (p + j) else o.sx && x.getLsbD (p + o.len.toNat - 1)) ∧
      (∃ r : Word, exec (.bfi q o) s = .next (s.retired (.bfi q o) (s.regs fun c => c.setReg o.d r)) ∧
        let p := o.pos.toNat
        ∀ j, j < 64 → r.getLsbD j =
          if p ≤ j ∧ j < p + o.len.toNat then (s.me.reg o.a).getLsbD (j - p) else (s.me.reg o.d).getLsbD j)) ∧
    (∀ o : BfO, (o.len.toNat = 0 ∨ 64 < o.len.toNat) → s.me.passed = none →
      exec (.bfx q o) s = .next (s.raises (.bfx q o) (exc 0x01 (dw0 (.bfx q o)))) ∧
      exec (.bfi q o) s = .next (s.raises (.bfi q o) (exc 0x01 (dw0 (.bfi q o)))))

/-- R323 to R325, R328: `nop`, `sel`, `movi`, `lea`, compares and predicates, each changing what it names alone; `loopset`
sets a count of 1 to 2^32 - 1 and raises 0x1C for any other. -/
def Obligations.MoveResults : Prop :=
  (∀ (q : Seqn) (s : State),
     exec (.nop q) s = .next (s.retired (.nop q) s) ∧
     (∀ o : SelO, o.ps.toNat < 12 → exec (.sel q o) s = .next (s.retired (.sel q o) (s.regs fun c =>
       c.setReg o.d (if c.pred.getLsbD o.ps.toNat then c.reg o.a else c.reg o.b)))) ∧
     (∀ o : MoviO, o.p = false → ∃ r : Word, exec (.movi q o) s = .next (s.retired (.movi q o) (s.regs fun c => c.setReg o.d r)) ∧
       if o.kp then ∀ j, j < 64 → r.getLsbD j = if j / 16 = o.hw.toNat then o.imm.getLsbD (j % 16) else (s.me.reg o.d).getLsbD j
       else r = (if o.z then o.imm.setWidth 64 else o.imm.signExtend 64) <<< (16 * o.hw.toNat)) ∧
     (∀ (o : MoviO) (v : Word) (s1 : State), o.p = true → slotRead (o.imm.toNat % 64) s = .ok (v, s1) →
       exec (.movi q o) s = .next (s.retired (.movi q o) (s1.regs fun c => c.setReg o.d v))) ∧
     (∀ (o : LeaO) (v : Word) (s1 : State), immS o.p o.imm s = .ok (v, s1) →
       exec (.lea q o) s = .next (s.retired (.lea q o) (s1.regs fun c =>
         c.setReg o.d (s.me.reg o.a + (s.me.reg o.b <<< o.sh.toNat) + v))))) ∧
  (∀ (q : Seqn) (s : State),
     (∀ (o : CmpO) (y : Word) (s1 : State), o.cc.toNat < 12 → o.d.toNat < 12 → secondOp o.i o.p o.imm o.b s = .ok (y, s1) →
       let n := if o.w then 32 else 64
       let x := (s.me.reg o.a).setWidth n
       let z := y.setWidth n
       let holds : Bool := [decide (x = z), decide (x ≠ z), decide (x.toInt < z.toInt), decide (z.toInt ≤ x.toInt), decide (x < z),
         decide (z ≤ x), decide (z.toInt < x.toInt), decide (x.toInt ≤ z.toInt), decide (z < x), decide (x ≤ z),
         decide (x &&& z ≠ 0), decide (x &&& z = 0)].getD o.cc.toNat false
       ∃ c : Ctx, exec (.cmp q o) s = .next (s.retired (.cmp q o) (s1.setCtx s1.cur c)) ∧
         c = { s1.me with pred := c.pred } ∧
         ∀ j, j < 12 → c.pred.getLsbD j = if j ≠ o.d.toNat then s1.me.pred.getLsbD j
           else if o.cmb = 0 then holds else if o.cmb = 1 then s1.me.pred.getLsbD j && holds
           else if o.cmb = 2 then s1.me.pred.getLsbD j || holds else s1.me.pred.getLsbD j && !holds) ∧
     (∀ o : PlogO, o.d.toNat < 12 →
       ∃ c : Ctx, exec (.plog q o) s = .next (s.retired (.plog q o) (s.setCtx s.cur c)) ∧ c = { s.me with pred := c.pred } ∧
         ∀ j, j < 12 → c.pred.getLsbD j = if j ≠ o.d.toNat then s.me.pred.getLsbD j
           else o.tt.getLsbD (2 * (if s.me.pred.getLsbD o.a.toNat then 1 else 0) + (if s.me.pred.getLsbD o.b.toNat then 1 else 0))) ∧
     (∀ o : PmovO, o.dir = 0 → exec (.pmov q o) s = .next (s.retired (.pmov q o) (s.regs fun c => c.setReg o.d (c.pred.setWidth 64)))) ∧
     (∀ o : PmovO, o.dir = 1 →
       exec (.pmov q o) s = .next (s.retired (.pmov q o) (s.regs fun c => { c with pred := (c.reg o.a).setWidth 12 }))) ∧
     (∀ o : PmovO, o.dir = 2 → o.d.toNat < 12 →
       ∃ c : Ctx, exec (.pmov q o) s = .next (s.retired (.pmov q o) (s.setCtx s.cur c)) ∧ c = { s.me with pred := c.pred } ∧
         ∀ j, j < 12 → c.pred.getLsbD j = if j = o.d.toNat then decide (s.me.reg o.a ≠ 0) else s.me.pred.getLsbD j) ∧
     (∀ o : PmovO, o.dir = 3 → exec (.pmov q o) s = .next (s.retired (.pmov q o) (s.regs fun c =>
       c.setReg o.d (if c.pred.getLsbD o.a.toNat then 1 else 0))))) ∧
  (∀ (q : Seqn) (o : LoopsetO) (s s1 : State) (n : Word),
     (if o.i then immZ o.p o.imm else rdS o.a) s = .ok (n, s1) →
     (n ≠ 0 → n.toNat < 2 ^ 32 →
       exec (.loopset q o) s = .next (s.retired (.loopset q o) (s1.regs fun c => c.setLoopc o.lcn.toNat (n.setWidth 32)))) ∧
     (n = 0 ∨ 2 ^ 32 ≤ n.toNat → s.me.passed = none →
       exec (.loopset q o) s = .next (s.raises (.loopset q o) (exc 0x1C o.lcn.toNat))))

/-- R258, R259, R262: after the effect, NXT = seq falls through; jmp and jmpn go to T[TI] by p[PR]; loop counts down and
goes to T[TI] until the count has reached 0. A transfer reads the object table, which marks its pages (R218); its target is
refused with 0x06 where it is no multiple of 8, and with 0x07 where it lies in no text of the object of ETB (R263). The
conditions of each form rule out a debug stop (R64). -/
def Obligations.SequencingResults : Prop :=
  ∀ (i : Instr) (q : Seqn) (s t : State), seqnOf i = some q → syncOf i = none → t.quiet s.cur →
    let c := (t.ctx s.cur).moved
    let after := s.me.pc + BitVec.ofNat 64 (8 * wordsOf i)
    let to_ (c : Ctx) (a : Word) : State := t.setCtx s.cur { c with pc := a }
    let target := c.exit q.ti.toNat
    let taken : Bool := q.pr = 12 || c.pred.getLsbD q.pr.toNat
    let seen : State := t.readObjs c.part ((t.objFor c c.etb).map (·.idx))
    let count := c.loopc (q.ti.toNat % 4)
    let transfers : Prop := (q.nxt = 1 ∧ taken = true) ∨ (q.nxt = 2 ∧ taken = false) ∨ (q.nxt = 3 ∧ taken = true) ∨
      (q.nxt = 5 ∧ 1 < count.toNat)
    let left : Ctx := if q.nxt = 5 then c.setLoopc (q.ti.toNat % 4) (count - 1) else c
    (q.nxt = 0 → s.retired i t = to_ c after) ∧
    (q.nxt = 1 → taken = false → s.retired i t = to_ c after) ∧
    (q.nxt = 1 → taken = true → t.exitFault c q.ti.toNat = none → s.retired i t = seen.setCtx s.cur { c with pc := target }) ∧
    (q.nxt = 2 → taken = true → s.retired i t = to_ c after) ∧
    (q.nxt = 2 → taken = false → t.exitFault c q.ti.toNat = none → s.retired i t = seen.setCtx s.cur { c with pc := target }) ∧
    (q.nxt = 5 → count = 0 → s.retired i t = to_ c after) ∧
    (q.nxt = 5 → count = 1 → s.retired i t = to_ (c.setLoopc (q.ti.toNat % 4) 0) after) ∧
    (q.nxt = 5 → 1 < count.toNat → t.exitFault c q.ti.toNat = none →
      s.retired i t = seen.setCtx s.cur { left with pc := target }) ∧
    (q.nxt = 6 → taken = true → s.retired i t = t.setCtx s.cur { c with ending := true }) ∧
    (transfers → target.toNat % 8 ≠ 0 →
      s.retired i t = (t.setCtx s.cur left).trapEnter s.cur (exc 0x06 target.toNat) (ecOf i) false s.me.pc) ∧
    (transfers → target.toNat % 8 = 0 → (∀ x, t.objFor c c.etb = some x → x.has target = false) →
      s.retired i t = (seen.setCtx s.cur left).trapEnter s.cur (exc 0x07 (c.etb.toNat + 4 * q.ti.toNat) q.ti.toNat) (ecOf i) false
        s.me.pc)

/-- R260, R326, R327: `call` pushes the address of the next instruction and ETB and enters T[TI] with ETB 32 below it, `ret`
takes the frame back, and each raises its cause at the end of the stack; `jmpr`, `callr` and `callx` go where their register
or linkage entry says. -/
def Obligations.CallsAndReturns : Prop :=
  (∀ (i : Instr) (q : Seqn) (s t : State), seqnOf i = some q → syncOf i = none → t.quiet s.cur →
     let c := (t.ctx s.cur).moved
     let after := s.me.pc + BitVec.ofNat 64 (8 * wordsOf i)
     let target := c.exit q.ti.toNat
     let seen : State := t.readObjs c.part ((t.objFor c c.etb).map (·.idx))
     (q.pr = 12 ∨ c.pred.getLsbD q.pr.toNat = true) →
     (q.nxt = 3 → t.exitFault c q.ti.toNat = none → c.depth < 16 →
       s.retired i t = seen.setCtx s.cur { c with
         calls := SMap.put c.calls c.depth (after, c.etb), depth := c.depth + 1, etb := target - 32, exits := [], pc := target }) ∧
     (q.nxt = 3 → t.exitFault c q.ti.toNat = none → 16 ≤ c.depth →
       s.retired i t = (seen.setCtx s.cur c).trapEnter s.cur (exc 0x08 target.toNat) (ecOf i) false s.me.pc) ∧
     (∀ (f : Word × Word) (x : Obj), q.nxt = 4 → 0 < c.depth → SMap.get? c.calls (c.depth - 1) = some f → f.1.toNat % 8 = 0 →
       t.objFor c f.1 = some x →
       s.retired i t = (t.readObjs c.part (some x.idx)).setCtx s.cur { c with
         depth := c.depth - 1, etb := f.2, exits := [], pc := f.1, ltb := x.ltb }) ∧
     (q.nxt = 4 → c.depth = 0 → s.retired i t = (t.setCtx s.cur c).trapEnter s.cur (exc 0x09) (ecOf i) false s.me.pc)) ∧
  (∀ s : State, s.quiet s.cur →
     (∀ (o : A1) (x : Obj), (s.me.reg o.a).toNat % 8 = 0 → s.objFor s.me (s.me.reg o.a) = some x →
       exec (.jmpr o) s = .next ((s.readObjs s.me.part (some x.idx)).setCtx s.cur { s.me.moved with pc := s.me.reg o.a, ltb := x.ltb }) ∧
       (s.me.depth < 16 → exec (.callr o) s = .next ((s.readObjs s.me.part (some x.idx)).setCtx s.cur { s.me.moved with
         calls := SMap.put s.me.calls s.me.depth (s.me.pc + 8, s.me.etb), depth := s.me.depth + 1, etb := s.me.reg o.a - 32,
         exits := [], ltb := x.ltb, pc := s.me.reg o.a }))) ∧
     (∀ o : A1, (s.me.reg o.a).toNat % 8 ≠ 0 → s.me.passed = none →
       exec (.jmpr o) s = .next (s.raises (.jmpr o) (exc 0x06 (s.me.reg o.a).toNat)) ∧
       exec (.callr o) s = .next (s.raises (.callr o) (exc 0x06 (s.me.reg o.a).toNat))) ∧
     (∀ (o : CallxO) (i : Word) (bs : List Byte) (s1 s2 : State) (x : Obj), s.me.depth < 16 → s.me.ltb ≠ 0 →
       immZ o.p o.imm s = .ok (i, s1) →
       let e := s.me.ltb + s.me.reg o.a + i
       e.toNat % 8 = 0 → gvLoad e 8 s1 = .ok (bs, s2) → s2.cur = s.cur → s2.me = s1.me →
       let t := BitVec.ofNat 64 (leNat bs)
       t ≠ 0 → t.toNat % 8 = 0 → s2.objFor s2.me t = some x → s2.quiet s2.cur →
       exec (.callx o) s = .next ((s2.readObjs s2.me.part (some x.idx)).setCtx s.cur { (s2.me.setReg 31 e).moved with
         calls := SMap.put s2.me.calls s2.me.depth (s.me.pc + 8, s2.me.etb), depth := s2.me.depth + 1, etb := t - 32, exits := [],
         ltb := x.ltb, pc := t })))

/-- R330 to R334: `mfs` reads every special register and writes only its destination; FPS waits for the matrix instructions
in flight. `mts` writes each register that the mode may write, reserved bits of FPC, FPS and TCAUSE staying 0; a write of
PTB empties the patch cache. -/
def Obligations.SpecialRegisters : Prop :=
  (∀ (q : Seqn) (o : MfsO) (s : State),
     let c := s.me
     let file : List (Nat × Word) := [(0x00, s.mgmt.dtime), (0x01, s.fver), (0x02, BitVec.ofNat 64 s.cur),
       (0x03, BitVec.ofNat 64 (s.cur / 4)), (0x04, BitVec.ofNat 64 c.part), (0x05, c.fpc), (0x06, c.fps), (0x07, c.stamp),
       (0x08, c.tcause), (0x09, c.tpc), (0x0A, c.tval), (0x0B, c.tinfo), (0x0C, c.tvec), (0x10, c.ptb), (0x11, c.ltb),
       (0x12, c.taskR), (0x13, c.launch), (0x20, (c.loopc 0).setWidth 64),
       (0x21, (c.loopc 1).setWidth 64), (0x22, (c.loopc 2).setWidth 64), (0x23, (c.loopc 3).setWidth 64)]
     (∀ v, (o.srn.toNat, v) ∈ file → (o.srn = 0x06 → c.mx = []) →
       exec (.mfs q o) s = .next (s.retired (.mfs q o) (s.regs fun c => c.setReg o.d v))) ∧
     (o.srn = 0x06 → c.mx ≠ [] → exec (.mfs q o) s = .next (s.block s.cur .engine)) ∧
     (o.srn.toNat ∉ file.map (·.1) → c.passed = none →
       exec (.mfs q o) s = .next (s.raises (.mfs q o) (exc 0x01 (dw0 (.mfs q o)))))) ∧
  (∀ (q : Seqn) (o : MtsO) (s : State),
     let c := s.me
     let v := s.me.reg o.a
     let puts (n : Nat) (c' : Ctx) : Prop := o.srn.toNat = n → exec (.mts q o) s = .next (s.retired (.mts q o) (s.setCtx s.cur c'))
     (v.toNat % 8 < 5 → puts 0x05 { c with fpc := v &&& 0x1F07 }) ∧ puts 0x06 { c with fps := v &&& 0x1F } ∧
     puts 0x07 { c with stamp := v } ∧ (v.toNat % 8 = 0 → puts 0x0C { c with tvec := v }) ∧
     (c.th = true ∨ c.ph = true → puts 0x08 { c with tcause := v &&& 0xFFF } ∧ puts 0x09 { c with tpc := v } ∧
       puts 0x0A { c with tval := v } ∧ puts 0x0B { c with tinfo := v }) ∧
     (c.ph = true → v.toNat % 8 = 0 → puts 0x10 { c with ptb := v, patch := [] }) ∧
     puts 0x20 (c.setLoopc 0 (v.setWidth 32)) ∧ puts 0x21 (c.setLoopc 1 (v.setWidth 32)) ∧
     puts 0x22 (c.setLoopc 2 (v.setWidth 32)) ∧ puts 0x23 (c.setLoopc 3 (v.setWidth 32)))

/-- R330: in user mode a write of a read-only register, of a trap register or of PTB raises 0x02 PRIV and writes nothing,
and so does `cinv` (R343); `eret` with TH = 0 raises it too (R336). -/
def Obligations.PrivilegeFaults : Prop :=
  ∀ s : State, s.me.passed = none →
    (∀ (q : Seqn) (o : MtsO), o.srn.toNat ∈ [0x00, 0x01, 0x02, 0x03, 0x04, 0x11, 0x12, 0x13] →
      exec (.mts q o) s = .next (s.raises (.mts q o) (exc 0x02 (dw0 (.mts q o))))) ∧
    (∀ (q : Seqn) (o : MtsO), o.srn.toNat ∈ [0x08, 0x09, 0x0A, 0x0B] → s.me.th = false → s.me.ph = false →
      exec (.mts q o) s = .next (s.raises (.mts q o) (exc 0x02 (dw0 (.mts q o))))) ∧
    (∀ (q : Seqn) (o : MtsO), o.srn.toNat = 0x10 → s.me.ph = false →
      exec (.mts q o) s = .next (s.raises (.mts q o) (exc 0x02 (dw0 (.mts q o))))) ∧
    (∀ (q : Seqn) (o : CinvO), s.me.ph = false →
      exec (.cinv q o) s = .next (s.raises (.cinv q o) (exc 0x02 (dw0 (.cinv q o))))) ∧
    (s.me.th = false → exec .eret s = .next (s.raises .eret (exc 0x02 (dw0 .eret))))

/-- R122, R123, R125: what taking a trap saves and where it goes, with no other register and no memory changed; a trap
raised with TH set, or with no handler (a debug stop apart), ends the task with 0x0E, or with the cause. -/
def Obligations.TrapEntry : Prop :=
  (∀ (s : State) (key ec : Nat) (e : Exc) (tpc : Word) (x : Obj),
     let c := s.ctx key
     c.th = false → c.tvec ≠ 0 → s.objFor c c.tvec = some x → ec < 8 →
     let t := s.trapEnter key e ec false tpc
     t.ctx key = { c with
       tcause := BitVec.ofNat 64 (e.cause.toNat + 256 * ec), tpc := tpc, tval := e.tval, tinfo := e.tinfo, tsave := c.etb,
       tsavd := c.depth, th := true, etb := c.tvec - 32, exits := [], ltb := x.ltb, pc := c.tvec, stall := none, passed := none } ∧
     (∀ j, j ≠ key → t.ctx j = s.ctx j) ∧ t.mem = (s.readObjs c.part (some x.idx)).mem ∧ t.tiles = s.tiles ∧ t.sems = s.sems ∧ t.tasks = s.tasks) ∧
  (∀ (s : State) (key ec : Nat) (e : Exc) (tpc : Word),
     let c := s.ctx key
     let ends (cause : Nat) (i0 : Word) : State :=
       State.work (s.partEvent c.part (key / 4 / 144) cause 0 (key / 4) i0 0, [.cancel c.task cause true])
     (c.th = true → s.trapEnter key e ec false tpc = ends 0x0E (BitVec.ofNat 64 e.cause.toNat)) ∧
     (c.th = false → c.tvec = 0 → e.cause ≠ 0x0D → s.trapEnter key e ec false tpc = ends e.cause.toNat e.tval))

/-- R335, R336: `trap` saves the address that its sequencing selects and enters the handler; `eret` restores ETB and the
call depth, clears TH and goes to TPC. -/
def Obligations.TrapInstruction : Prop :=
  (∀ (q : Seqn) (o : TrapO) (s s1 s2 : State) (v : Word) (c : Ctx) (x : Obj), immZ o.p o.imm s = .ok (v, s1) →
     s1.landing (s1.ctx s.cur) q (s.me.pc + 8) = (c, s2) → c.th = false → c.tvec ≠ 0 → s2.objFor c c.tvec = some x →
     exec (.trap q o) s = .next (((s2.readObjs c.part (some x.idx)).dropWaits s.cur).setCtx s.cur { c with
       tcause := 0x60C, tpc := c.pc, tval := v, tinfo := 0, tsave := c.etb, tsavd := c.depth, th := true, etb := c.tvec - 32,
       exits := [], ltb := x.ltb, pc := c.tvec, stall := none, passed := none }) ∧
     (q.nxt = 0 → c.pc = s.me.pc + 8) ∧
     (q.nxt = 1 → (q.pr = 12 ∨ (s1.ctx s.cur).pred.getLsbD q.pr.toNat = true) → c.pc = (s1.ctx s.cur).exit q.ti.toNat)) ∧
  (∀ (s : State) (x : Obj), s.me.th = true → s.me.tpc.toNat % 8 = 0 → s.objFor s.me s.me.tpc = some x →
     (s.task s.me.task).stepping = false → (s.part s.me.part).brk = [] →
     exec .eret s = .next ((s.readObjs s.me.part (some x.idx)).setCtx s.cur { s.me with
       etb := s.me.tsave, exits := [], depth := s.me.tsavd, th := false, pc := s.me.tpc, ltb := x.ltb, stall := none, passed := none }))

/-- R116, R337 to R339: `suspend` commits its region, writes its record and gives up its slot; `cmt` commits the region and
may leave a restart record. -/
def Obligations.RegionsEnd : Prop :=
  (∀ (q : Seqn) (o : RecO) (s s1 s2 s3 : State) (n : Ctx),
     let a := s.me.reg o.a
     let live := liveMask o.liveHi o.liveLo
     a ≠ 0 → a.toNat % 256 = 0 → s.me.depth = 0 → s.me.th = false → popcount 32 live ≤ 16 → s.me.mx = [] →
     s.sequence s.me q (s.me.pc + 8) = .go n → (s.looked s.me q).commitRegion s.cur = .ok s1 → s1.cur = s.cur →
     recordStore a (n.record (s1.task n.task) n.pc live 0 0 0 s1.dtime) s1 = .ok ((), s2) → s2.cur = s.cur →
     ((s2.recordRef n.task n.pc).handover s.cur) = some s3 → (s2.recordRef n.task n.pc).cur = s.cur →
     (s3.ctx s.cur).task = s.me.task →
     let t := (s3.freeCtx s.cur).modTask s.me.task fun x =>
       { x with st := .ready, resume := .record a, h := (s3.ctx s.cur).h, die := s.cur / 4 / 144, warned := false }
     exec (.suspend q o) s = .next (t.enqueue (t.task s.me.task).die (t.task s.me.task).part (t.task s.me.task).prio (.task s.me.task))) ∧
  (∀ (q : Seqn) (o : RecO) (s s1 : State), s1.cur = s.cur →
     let a := s.me.reg o.a
     (a = 0 → s.commitRegion s.cur = .ok s1 → exec (.cmt q o) s = .next (s.retired (.cmt q o) (s1.modCtx s.cur fun c =>
       { c with direct := true, wd := s1.bclk, wdFired := false }))) ∧
     (∀ (n : Ctx) (s2 : State), a ≠ 0 → a.toNat % 256 = 0 → s.me.depth = 0 → s.me.th = false →
       popcount 32 (liveMask o.liveHi o.liveLo) ≤ 16 → s.me.mx = [] → s.sequence s.me q (s.me.pc + 8) = .go n →
       (s.looked s.me q).commitRegion s.cur = .ok s1 →
       recordStore a (n.record (s1.task n.task) n.pc (liveMask o.liveHi o.liveLo) 3 0 0 s1.dtime) s1 = .ok ((), s2) →
       let t := s2.recordRef n.task n.pc
       t.cur = s.cur →
       exec (.cmt q o) s = .next (s.retired (.cmt q o)
         ((t.modTask (t.ctx s.cur).task fun x => { x with restart := some a, restartH := (t.ctx s.cur).h }).modCtx s.cur fun c =>
           { c with direct := false, wd := t.bclk, wdFired := false }))))

/-- R340 to R343, R354, R355: what `yield` does in its three cases; `fchk` writes whether LFVER of its object is FVER;
`cwb`, `pref` and `fence` change no value that a read returns, and a fence orders nothing further in a module that moves one
agent at a time (log entry 7); `cinv`, in partition-handler mode, drops the fetched text and commits the region (log entry
9). -/
def Obligations.YieldsAndChecks : Prop :=
  (∀ (q : Seqn) (s : State),
     let t := s.retired (.yield q) s
     (t.ctx s.cur).slot = .run → (t.ctx s.cur).ending = false →
     (∀ k, t.switchTo (s.cur / 4) = some k → exec (.yield q) s = .next (t.runNow k)) ∧
     (t.switchTo (s.cur / 4) = none → t.workFor s.cur = none → exec (.yield q) s = .next t) ∧
     (∀ e, t.switchTo (s.cur / 4) = none → t.workFor s.cur = some e →
       let ready : Bool := t.movable ((t.instances (t.ctx s.cur).task).filterMap t.slotOfTask)
       (∀ u, ready = true → t.preempt s.cur = some u →
         exec (.yield q) s = .next (u.modCtx s.cur fun c => { c with heir := some e })) ∧
       (ready = true → t.preempt s.cur = none → exec (.yield q) s = .next t) ∧
       (ready = false → exec (.yield q) s = .next (s.block s.cur .engine)))) ∧
  (∀ (q : Seqn) (s : State),
     (∀ (o : D1) (x : Obj), o.d.toNat < 12 → s.objFor s.me s.me.pc = some x →
       ∃ c : Ctx, exec (.fchk q o) s = .next (s.retired (.fchk q o) ((s.readObjs s.me.part (some x.idx)).setCtx s.cur c)) ∧ c = { s.me with pred := c.pred } ∧
         ∀ j, j < 12 → c.pred.getLsbD j = if j = o.d.toNat then decide (x.lfver = s.fver) else s.me.pred.getLsbD j) ∧
     (∀ o, exec (.cwb q o) s = .next (s.retired (.cwb q o) s)) ∧
     (∀ o, exec (.pref q o) s = .next (s.retired (.pref q o) s)) ∧
     (∀ o : FenceO, o.sc.toNat < 6 → exec (.fence q o) s = .next (s.retired (.fence q o) s)) ∧
     (∀ (o : CinvO) (s1 : State), s.me.ph = true → o.kind ≠ 3 → s.commitRegion s.cur = .ok s1 → s1.cur = s.cur →
       let a := s.me.reg o.a
       let n := (s.me.reg o.b).toNat
       let t := s1.dropText (s1.ctx s.cur).part a n
       exec (.cinv q o) s = .next (s.retired (.cinv q o) (if o.kind = 0 then s1 else t)) ∧
       t = { s1 with icache := t.icache } ∧ ∀ x, x ∈ t.icache ↔ x ∈ s1.icache ∧ (x.1 / 2 ^ 64 = (s1.ctx s.cur).part →
         n ≠ 0 ∧ n ≤ (BitVec.ofNat 64 x.1 - a).toNat ∧ 8 ≤ (a - BitVec.ofNat 64 x.1).toNat)))

/-- R213, R347: where an address of LS, CX or DX lies, and what its limits refuse: 0x27 past 1 MiB of LS, 0x28 past 12 MiB
of CX, 0x2F past the scratchpad of DX, and 0x23 in a pool. -/
def Obligations.LocalAddresses : Prop :=
  ∀ (s : State) (core x n : Nat),
    let pool (c : Nat) : Nat := s.cpoolOf c * 2048
    (x + n ≤ 2 ^ 20 → x + n ≤ 2 ^ 20 - pool core → s.localKey core 1 x n = .ok (lsKey core x)) ∧
    (2 ^ 20 < x + n → s.localKey core 1 x n = .error (exc 0x27 x)) ∧
    (x + n ≤ 2 ^ 20 → 2 ^ 20 - pool core < x + n → s.localKey core 1 x n = .error (exc 0x23 x 1)) ∧
    (x < 12 * 2 ^ 20 → x % 2 ^ 20 + n ≤ 2 ^ 20 - pool (core / 12 * 12 + x / 2 ^ 20) →
      s.localKey core 2 x n = .ok (lsKey (core / 12 * 12 + x / 2 ^ 20) (x % 2 ^ 20))) ∧
    (12 * 2 ^ 20 ≤ x ∨ 12 * 2 ^ 20 < x + n → s.localKey core 2 x n = .error (exc 0x28 x)) ∧
    (x + n ≤ 12 * 2 ^ 20 → x < 12 * 2 ^ 20 → 2 ^ 20 - pool (core / 12 * 12 + x / 2 ^ 20) < x % 2 ^ 20 + n →
      s.localKey core 2 x n = .error (exc 0x23 x 2)) ∧
    (2 ^ 24 ≤ x → x + n ≤ s.scratchOf (core / 144) * 2 ^ 20 → s.localKey core 3 x n = .ok (dxKey (core / 144) x)) ∧
    (s.scratchOf (core / 144) * 2 ^ 20 < x + n → s.localKey core 3 x n = .error (exc 0x2F x)) ∧
    (x < 2 ^ 24 → x + n ≤ s.scratchOf (core / 144) * 2 ^ 20 → s.localKey core 3 x n = .error (exc 0x23 x 3))

/-- R348, R218: `ld` writes sD with the bytes at its location, sign- or zero-extended, and changes no other register and no
memory, but for A in the leaf of the page of a GV location; a location in a space, and one in a tile with or without a
consumption. The location passes R347. -/
def Obligations.LoadResults : Prop :=
  ∀ (q : Seqn) (o : LdO) (s s1 s2 : State) (l : Loc) (bs : List Byte),
    let n := 2 ^ o.w.toNat
    let off := s.me.reg o.b + o.disp.signExtend 64 * BitVec.ofNat 64 n
    let x := s.me.reg o.a + off
    let v : Word := if o.sx then (BitVec.ofNat (8 * n) (leNat bs)).signExtend 64 else BitVec.ofNat 64 (leNat bs)
    o.sc.toNat < 6 → o.ord.toNat < 2 →
    (o.h = false → o.c = false → (o.sp = 1 ∨ o.sp = 2 → o.cls = 0 ∧ o.sc = 0) → o.sp = 1 ∨ o.sp = 2 ∨ o.sp = 3 ∨ o.sp = 4 →
      spaceLoc o.sp.toNat x n n s = .ok (l, s) → loadAt n x.toNat l s = .ok (bs, s1) →
      exec (.ld q o) s = .next (s.retired (.ld q o) (s1.regs fun c => c.setReg o.d v)) ∧
      ((∀ g, l ≠ .gv g) → s1 = s) ∧
      (∀ g, l = .gv g → ∃ leaf, s1 = s.markUsed leaf .rd ∧
        (s.MemWf → ∀ a, Mem.read s1.mem a = if a = leaf then Mem.read s.mem a ||| 0x10 else Mem.read s.mem a))) ∧
    (o.h = true → o.c = false → o.sp = 0 → o.cls = 0 → o.sc = 0 →
      tileLoc (s.me.hreg o.a) off n n .rd s = .ok (l, s) → loadAt n off.toNat l s = .ok (bs, s1) →
      exec (.ld q o) s = .next (s.retired (.ld q o) (s1.regs fun c => c.setReg o.d v)) ∧ s1 = s) ∧
    (o.h = true → o.c = true → o.sp = 0 → o.cls = 0 → o.sc = 0 →
      tileLoc (s.me.hreg o.a) off n n .use s = .ok (l, s) → mayConsume [s.me.hreg o.a] off.toNat s = .ok ((), s) →
      loadAt n off.toNat l s = .ok (bs, s1) → consume (s.me.hreg o.a) 1 off.toNat s1 = .ok ((), s2) →
      exec (.ld q o) s = .next (s.retired (.ld q o) (s2.regs fun c => c.setReg o.d v)) ∧ s1 = s ∧ s2.mem = s.mem)

/-- R348, R349: `st` stores the low bytes of sD at its location; a release, in DIRECT mode. In a local space every byte
outside the location keeps its value, and no register changes; in GV the bytes go to the frame in DIRECT mode. -/
def Obligations.StoreResults : Prop :=
  ∀ (q : Seqn) (o : StO) (s : State),
    let n := 2 ^ o.w.toNat
    let off := s.me.reg o.b + o.disp.signExtend 64 * BitVec.ofNat 64 n
    let x := s.me.reg o.a + off
    let v := leBytes n (s.me.reg o.d).toNat
    o.sc.toNat < 6 → o.ord = 0 ∨ (o.ord = 2 ∧ s.me.direct = true) →
    (∀ k, o.h = false → o.sp = 1 ∨ o.sp = 2 ∨ o.sp = 3 → (o.sp = 1 ∨ o.sp = 2 → o.cls = 0 ∧ o.sc = 0) →
      spaceLoc o.sp.toNat x n n s = .ok (.key k, s) → ordered [⟨k, n, true⟩] s = .ok ((), s) →
      exec (.st q o) s = .next (s.retired (.st q o) (s.store k v)) ∧
      (s.MemWf → Mem.readL (s.store k v).mem k n = v ∧
        ∀ a, a < k ∨ k + n ≤ a → Mem.read (s.store k v).mem a = Mem.read s.mem a)) ∧
    (∀ s1, o.h = false → o.sp = 4 → spaceLoc 4 x n n s = .ok (.gv x, s) → gvStore x v o.cls.toNat s = .ok ((), s1) →
      exec (.st q o) s = .next (s.retired (.st q o) s1)) ∧
    (∀ (k leaf : Nat) (d h : Bool), o.h = false → o.sp = 4 → spaceLoc 4 x n n s = .ok (.gv x, s) → s.me.direct = true →
      s.translate s.me.part x .wr true = .ok k d h leaf →
      exec (.st q o) s = .next (s.retired (.st q o) ((s.markUsed leaf .wr).store k v))) ∧
    (∀ (tk : Nat) (s1 : State), o.h = true → o.sp = 0 → o.cls = 0 → o.sc = 0 →
      tileLoc (s.me.hreg o.a) off n n .wr s = .ok (.tile tk off.toNat, s) → ordered (s.tileRng tk true) s = .ok ((), s) →
      s1 = s.tileWrite tk off.toNat v → exec (.st q o) s = .next (s.retired (.st q o) s1))

/-- R350: `ldt` loads an element of a tensor, extended by its type; `stt` stores one, of which the bits of the element alone
are written; a release, in DIRECT mode. -/
def Obligations.TensorElements : Prop :=
  ∀ (q : Seqn) (o : LdtO) (s s1 s2 : State) (t : Tensor) (g : Word) (b : Nat) (bs : List Byte),
    let w := etypeBits t.etype
    (taAccess (.ldt q o) o 1 s = .ok ((t, g, b), s1) → gvLoad g ((w + 7) / 8) s1 = .ok (bs, s2) →
      let e := leNat bs / 2 ^ b % 2 ^ w
      exec (.ldt q o) s = .next (s.retired (.ldt q o) (s2.regs fun c =>
        c.setReg o.d (if t.etype ∈ [0, 1, 3, 13] then (BitVec.ofNat w e).signExtend 64 else BitVec.ofNat 64 e)))) ∧
    (o.ord = 0 ∨ s1.me.direct = true → taAccess (.stt q o) o 2 s = .ok ((t, g, b), s1) →
      (8 ≤ w → gvStore g (leBytes (w / 8) (s1.me.reg o.d).toNat) o.cls.toNat s1 = .ok ((), s2) →
        exec (.stt q o) s = .next (s.retired (.stt q o) s2)) ∧
      (w < 8 → gvStoreBits g (BitVec.ofNat 8 ((s1.me.reg o.d).toNat % 2 ^ w * 2 ^ b)) (BitVec.ofNat 8 ((2 ^ w - 1) * 2 ^ b))
          o.cls.toNat s1 = .ok ((), s2) →
        exec (.stt q o) s = .next (s.retired (.stt q o) s2))) ∧
    (∀ (k : Nat) (x m : Byte), (s.perform k x (some m)).mem = Mem.write s.mem k ((Mem.read s.mem k &&& ~~~m) ||| (x &&& m)))

/-- R351 to R353, R356: `amo`, `cas` and `red` read, combine and write one word; `waita` ends with 0 when its condition
holds, with 2 where every monitor is taken, and else watches the line. -/
def Obligations.AtomicResults : Prop :=
  (∀ (q : Seqn) (s s1 : State) (l : Loc) (k : Nat) (h : Bool), s.me.direct = true →
     (∀ o : AmoO, o.opc.toNat < 9 → let n := 2 ^ o.w.toNat
       atomicLoc (.amo q o) (s.me.reg o.a + s.me.reg o.b) o.cls o.sc o.sp o.w true [1, 2, 3, 4] false s = .ok (l, s) →
       atomicKey l s = .ok ((k, h), s1) → s1.cur = s.cur → ordered (s1.locRng n true l) s1 = .ok ((), s1) → s1.poisoned k n = false →
       let old := BitVec.ofNat (8 * n) (leNat (Mem.readL s1.mem k n))
       let y := BitVec.ofNat (8 * n) (s.me.reg o.b).toNat
       let new := [y, old + y, old &&& y, old ||| y, old ^^^ y, if old.toInt ≤ y.toInt then old else y,
         if old.toInt ≤ y.toInt then y else old, if old ≤ y then old else y, if old ≤ y then y else old].getD o.opc.toNat old
       exec (.amo q o) s = .next (s.retired (.amo q o) ((s1.store k (leBytes n new.toNat)).regs fun c =>
         c.setReg o.d (BitVec.ofNat 64 old.toNat)))) ∧
     (∀ (o : AmoO) (s2 : State), o.opc = 9 →
       atomicLoc (.amo q o) (s.me.reg o.a + s.me.reg o.b) o.cls o.sc o.sp o.w true [1, 2, 3, 4] true s = .ok (l, s) →
       atomicKey l s = .ok ((k, h), s1) → s1.cur = s.cur → ordered (s1.locRng (2 ^ o.w.toNat) true l) s1 = .ok ((), s1) →
       s1.poisoned k (2 ^ o.w.toNat) = false →
       let old := leNat (Mem.readL s1.mem k (2 ^ o.w.toNat))
       let sum := Fmt.f32.add 0 old ((s.me.reg o.b).toNat % 2 ^ (8 * 2 ^ o.w.toNat))
       fpDone [(0, sum.2)] s1 = .ok ((), s2) →
       exec (.amo q o) s = .next (s.retired (.amo q o) ((s2.store k (leBytes (2 ^ o.w.toNat) sum.1)).regs fun c =>
         c.setReg o.d (BitVec.ofNat 64 old)))) ∧
     (∀ o : AmoO, o.opc.toNat < 12 ∨ o.opc = 15 → let n := 2 ^ o.w.toNat
       atomicLoc (.cas q o) (s.me.reg o.a + s.me.reg o.b) o.cls o.sc o.sp o.w true [1, 2, 3, 4] false s = .ok (l, s) →
       atomicKey l s = .ok ((k, h), s1) → s1.cur = s.cur → ordered (s1.locRng n true l) s1 = .ok ((), s1) → s1.poisoned k n = false →
       let old := leNat (Mem.readL s1.mem k n)
       let same : Bool := old = (s.me.reg o.d).toNat % 2 ^ (8 * n)
       exec (.cas q o) s = .next (s.retired (.cas q o)
         ((if same then s1.store k (leBytes n (s.me.reg o.b).toNat) else s1).regs fun c =>
           let c' := c.setReg o.d (BitVec.ofNat 64 old)
           if o.opc = 15 then c' else c'.setPrd o.opc.toNat same))) ∧
     (∀ o : RedO, o.ord = 0 ∨ o.ord = 2 → 1 ≤ o.opc.toNat → o.opc.toNat < 10 → let n := 2 ^ o.w.toNat
       atomicLoc (.red q o) (s.me.reg o.a + s.me.reg o.b) o.cls o.sc o.sp o.w true [3, 4] (o.opc = 9) s = .ok (l, s) →
       atomicKey l s = .ok ((k, false), s1) → s1.poisoned k n = false →
       exec (.red q o) s = .next (s.retired (.red q o) (s1.store k (leBytes n
         (amoOp o.opc.toNat n (leNat (Mem.readL s1.mem k n)) (s.me.reg o.b).toNat).1))))) ∧
  (∀ (q : Seqn) (o : WaitaO) (s t : State) (v k : Nat), s.watches o v k t →
     (s.waitaMet o v = true → (∀ w b, t.me.stall = some w → w.till = some b → t.bclk ≤ b) →
       exec (.waita q o) s = .next (s.waitaEnds q o t 0)) ∧
     (∀ l b, t.me.stall = some (.mon l (some b)) → b < t.bclk → exec (.waita q o) s = .next (s.waitaEnds q o t 1)) ∧
     (s.waitaMet o v = false → t.me.stall = none → 16 ≤ (t.monitorsOf (s.cur / 4)).length →
       exec (.waita q o) s = .next (s.retired (.waita q o) (t.regs fun c => c.setReg o.d 2))) ∧
     (s.waitaMet o v = false → t.me.stall = none → (t.monitorsOf (s.cur / 4)).length < 16 →
       exec (.waita q o) s = .next (({ t with watch := t.watch ++ [(s.cur, k / 256)] } : State).block s.cur
         (.mon (k / 256) (if o.tlg = 0 then none else some (t.bclk + 2 ^ o.tlg.toNat))))))

/-- R107, R108, R358 to R362: `sems` adds, `semw` waits and subtracts, `semr` reads; `bar` arrives at the barrier of its
gang and `barw` waits for its phase, up to its limit: what each leaves when it passes, and that the context waits when it
does not. -/
def Obligations.SemaphoreResults : Prop :=
  (∀ (q : Seqn) (s : State),
     (∀ o : SemsO, o.sc.toNat < 6 → (s.me.reg o.a).toNat < 576 → s.owns s.me.part ((s.me.reg o.a).toNat / 12) = true →
       s.me.direct = true → s.sem (s.me.reg o.a).toNat o.semi.toNat + (s.me.reg o.b).toNat ≤ 65535 →
       exec (.sems q o) s = .next (s.retired (.sems q o) (s.setSem (s.me.reg o.a).toNat o.semi.toNat
         (s.sem (s.me.reg o.a).toNat o.semi.toNat + (s.me.reg o.b).toNat)))) ∧
     (∀ o : SemwO, let v := s.sem (s.cur / 4) o.semi.toNat
       (o.thr.toNat ≤ v → exec (.semw q o) s = .next (s.retired (.semw q o) (s.setSem (s.cur / 4) o.semi.toNat (v - o.thr.toNat)))) ∧
       (v < o.thr.toNat → exec (.semw q o) s = .next (s.block s.cur (.sem o.semi.toNat o.thr.toNat)))) ∧
     (∀ o : SemrO, exec (.semr q o) s = .next (s.retired (.semr q o) (s.regs fun c =>
       c.setReg o.d (BitVec.ofNat 64 (s.sem (s.cur / 4) o.semi.toNat)))))) ∧
  (∀ (q : Seqn) (s : State),
     (∀ (o : D1) (g i r : Nat) (x : Gang), (s.task s.me.task).gang = some (g, i, r) → SMap.get? s.gangs g = some x →
       SMap.getD x.arrived i 0 ≤ x.phases →
       exec (.bar q o) s = .next (s.retired (.bar q o) (({ s with gangs := SMap.put s.gangs g (x.arrive i) } : State).regs fun c =>
         c.setReg o.d (BitVec.ofNat 64 (SMap.getD x.arrived i 0)))) ∧
       SMap.getD (x.arrive i).arrived i 0 = SMap.getD x.arrived i 0 + 1) ∧
     (∀ (o : D1) (g i r : Nat) (x : Gang), (s.task s.me.task).gang = some (g, i, r) → SMap.get? s.gangs g = some x →
       x.phases < SMap.getD x.arrived i 0 → exec (.bar q o) s = .next (s.block s.cur (.bar (SMap.getD x.arrived i 0 - 1)))) ∧
     (∀ (o : BarwO) (g i r : Nat) (x : Gang), (s.task s.me.task).gang = some (g, i, r) → SMap.get? s.gangs g = some x →
       (SMap.getD x.arrived i 0 ≤ (s.me.reg o.a).toNat →
         exec (.barw q o) s = .next (s.retired (.barw q o) (s.regs fun c => c.setReg o.d 2))) ∧
       (∀ p b : Nat, (s.me.reg o.a).toNat < SMap.getD x.arrived i 0 → s.me.stall = some (.barw p (some b)) → b < s.bclk →
         exec (.barw q o) s = .next (s.retired (.barw q o) (s.regs fun c => c.setReg o.d 1))) ∧
       ((s.me.reg o.a).toNat < SMap.getD x.arrived i 0 → (s.me.reg o.a).toNat < x.phases →
         (∀ w b, s.me.stall = some w → w.till = some b → s.bclk ≤ b) →
         exec (.barw q o) s = .next (s.retired (.barw q o) (s.regs fun c => c.setReg o.d 0))) ∧
       ((s.me.reg o.a).toNat < SMap.getD x.arrived i 0 → x.phases ≤ (s.me.reg o.a).toNat →
         ((∀ p l, s.me.stall ≠ some (.barw p l)) → exec (.barw q o) s = .next (s.block s.cur
           (.barw (s.me.reg o.a).toNat (if o.tlg = 0 then none else some (s.bclk + 2 ^ o.tlg.toNat))))) ∧
         (∀ (p : Nat) (l : Option Nat), s.me.stall = some (.barw p l) → (∀ b, l = some b → s.bclk < b) →
           exec (.barw q o) s = .next s) ∧
         (∀ p b : Nat, s.me.stall = some (.barw p (some b)) → b ≤ s.bclk →
           exec (.barw q o) s = .next (s.retired (.barw q o) (s.regs fun c => c.setReg o.d 1))))) ∧
     ((s.task s.me.task).gang = none → s.me.passed = none →
       (∀ o, exec (.bar q o) s = .next (s.raises (.bar q o) (exc 0x4B (s.task s.me.task).group))) ∧
       (∀ o, exec (.barw q o) s = .next (s.raises (.barw q o) (exc 0x4B (s.task s.me.task).group)))))

/-- R363 to R366: `futi` stores a pending word; `futs` and `futf` in DIRECT mode resolve or fail a pending future: its word
then holds ST 1 and the value, or ST 2 and the cause, and every waiter of it wakes, in the order in which they registered. A
continuation is READY, a task counts down or is cancelled, a queue goes on or faults. `futw` on a settled future writes its
record and goes on with p[PR] set, and on a pending one registers its record and gives up the slot. -/
def Obligations.FutureResults : Prop :=
  ∀ (q : Seqn) (s s1 : State) (k : Nat) (d : Bool),
    (∀ (o : FutiO) (s2 : State), (s.me.reg o.a).toNat % 8 = 0 → s.onHost s.me.part (s.me.reg o.a) = false → gvPage (s.me.reg o.a) .wr s = .ok ((k, d, false), s1) →
      gvStore (s.me.reg o.a) (leBytes 8 0) o.cls.toNat s1 = .ok ((), s2) →
      exec (.futi q o) s = .next (s.retired (.futi q o) s2)) ∧
    (∀ (o : FutsO) (s2 : State), o.sc.toNat < 6 → (s.me.reg o.a).toNat % 8 = 0 → s.me.direct = true →
      s.onHost s.me.part (s.me.reg o.a) = false → gvPage (s.me.reg o.a) .wr s = .ok ((k, d, false), s1) →
      s1.poisoned k 8 = false → s1.futKey s1.me.part (s.me.reg o.a) = .ok (k, s2) → Mem.readN s1.mem k 8 % 4 = 0 →
      let settled (failed : Bool) (v : Nat) : State × List Work :=
        forEach (SMap.getD s1.futs k []) { s2 with
          mem := Mem.writeN s2.mem k 8 (v * 2 ^ 16 + if failed then 2 else 1), futs := SMap.del s2.futs k }
          fun s w => s.wake failed v w
      exec (.futs q o) s = .next (s.retired (.futs q o) (State.work (settled false ((s.me.reg o.b).toNat % 2 ^ 48)))) ∧
      exec (.futf q o) s = .next (s.retired (.futf q o) (State.work (settled true ((s.me.reg o.b).toNat % 2 ^ 8))))) ∧
    (∀ v, v < 2 ^ 64 → s.MemWf → Mem.readN (Mem.writeN s.mem k 8 v) k 8 = v) ∧
    (∀ (f : Bool) (v t : Nat) (a : Word), (s.task t).st = .suspended → (s.task t).resume = .record a →
      s.gvMoving (s.task t).part a 256 = false →
      let x := (s.wake f v (.record t a)).1
      (x.task t).st = .ready ∧ ∃ e ∈ x.pithead, e.ent = .task t) ∧
    (∀ (f : Bool) (v t : Nat) (n : Word), s.recordNamed n = some t →
      s.wake f v (.task n) = (s, [if f then .cancel t 0x49 true else .dec t])) ∧
    (∀ (f : Bool) (v n : Nat), s.qstate n = 2 →
      s.wake f v (.queue n) = (if f then s.queueFault n 0x49 (s.eng n).ts else s.queueNext n, [])) ∧
    (∀ (o : FutwO) (n0 n1 : Ctx) (u0 u1 s2 s3 s4 : State),
      let f := s.me.reg o.a
      let a := s.me.reg o.b
      let live := liveMask o.liveHi o.liveLo
      q.pr.toNat ≤ 12 → a ≠ 0 → s.me.depth = 0 → s.me.th = false → a.toNat % 256 = 0 → popcount 32 live ≤ 16 → s.me.mx = [] →
      selectedAs q false s = .ok (n0, u0) → selectedAs q true u0 = .ok (n1, u1) → u1.commitRegion s.cur = .ok s1 → f.toNat % 8 = 0 →
      s1.onHost s1.me.part f = false → gvPage f .wr s1 = .ok ((k, d, false), s2) → s2.poisoned k 8 = false →
      let w := leNat (Mem.readL s2.mem k 8)
      (w % 4 = 1 ∨ w % 4 = 2 →
        recordStore a (n1.record (s2.task s.me.task) n1.pc live (w % 4) f.toNat (BitVec.ofNat 64 (w / 2 ^ 16)) s2.dtime) s2 =
          .ok ((), s3) →
        let t := s3.recordRef s.me.task n1.pc
        exec (.futw q o) s = .next (s.retired (.futw q o) ((t.modTask s.me.task fun x =>
          { x with restart := some a, restartH := s.me.h }).regs fun c =>
            { futPred q c true with direct := false, wd := t.bclk, wdFired := false }))) ∧
      (w % 4 = 0 → bits w 15 2 ≠ 16383 →
        recordStore a (n0.record (s2.task s.me.task) n0.pc live 0 f.toNat 0 s2.dtime) s2 = .ok ((), s3) →
        let t := s3.recordRef s.me.task n0.pc
        leaveSlot a .suspended (({ t with
          mem := Mem.writeN t.mem k 8 (w + 4),
          futs := SMap.put t.futs k (SMap.getD t.futs k [] ++ [.record s.me.task a]) } : State).regs fun c => futPred q c false) =
          .ok ((), s4) →
        exec (.futw q o) s = .next s4))

/-- R107, R108, R255, R256: an instruction with a sync doubleword (every feature on, and PH set for `disc`) waits while its
semaphore is below WST, and before its effect is lowered by it, once, however often the instruction starts again. One that
completes as it retires then adds SGN to sem[SGI]; a sum above 65,535 becomes 65,535 and is told with 0x4A. One that traps
after its wait gives WST back. -/
def Obligations.SyncWaits : Prop :=
  ∀ (i : Instr) (y : Sync) (s t : State), syncOf i = some y →
    let core := s.cur / 4
    let v := s.sem core y.wsi.toNat
    ((∀ n, n < 10 → s.feature n = true) → s.me.ph = true → y.wst ≠ 0 → s.me.passed = none →
      (v < y.wst.toNat → exec i s = .next (s.block s.cur (.sem y.wsi.toNat y.wst.toNat))) ∧
      (y.wst.toNat ≤ v → exec i s = exec i ((s.setSem core y.wsi.toNat (v - y.wst.toNat)).regs fun c =>
        { c with passed := some (y.wsi.toNat, y.wst.toNat) }))) ∧
    (∀ n, n = t.sem core y.sgi.toNat + y.sgn.toNat →
      (y.sgn = 0 → s.retired i t = t.finish i s.cur s.me.pc false) ∧
      (y.sgn ≠ 0 → n ≤ 65535 → s.retired i t = (t.setSem core y.sgi.toNat n).finish i s.cur s.me.pc false) ∧
      (∀ p, y.sgn ≠ 0 → 65535 < n → t.ownerOf (core / 12) = some p →
        s.retired i t = ((t.setSem core y.sgi.toNat 65535).partEvent p (core / 144) 0x4A 0 core
          (BitVec.ofNat 64 (core * 2 ^ 16 + y.sgi.toNat)) 0).finish i s.cur s.me.pc false)) ∧
    (∀ (q : Seqn) (o : SpawnO) (n m : Nat), s.me.passed = some (n, m) → (s.me.reg o.a).toNat % 256 ≠ 0 →
      let back := (s.setSem core n (min 65535 (s.sem core n + m))).regs fun c => { c with passed := none }
      exec (.spawn q y o) s = .next (back.trapEnter s.cur (exc 0x22 (s.me.reg o.a).toNat) (ecOf (.spawn q y o)) false s.me.pc))

/-- R375 to R377: the vector loads fill the active lanes of their register from memory; the vector stores write the active
elements, and no other byte changes. -/
def Obligations.VectorMemory : Prop :=
  (∀ (q : Seqn) (s s0 s1 s2 : State) (vs : List (Nat × Nat)),
     let lanes (l : List (Nat × Nat)) (e : Nat) : Option (BitVec 32) := (l.find? (·.1 = e)).map fun x => BitVec.ofNat 32 x.2
     (∀ (o : VldO) (l : Loc), s.fp8Ok o.t →
       vectorBase (.vld q o) o.a o.b o.t o.cls o.sc o.sp o.h o.c (if o.c then .use else .rd) s = .ok (l, s) →
       let n := tyBytes o.t.toNat
       ordered (s.locRng (64 * n) false l) s = .ok ((), s) →
       (∀ k, l = .key k → o.c = false → s.poisoned k (64 * n) = false →
         s.fills (.vld q o) s o.d.toNat 0 fun e =>
           if s.me.on o.me o.vm e then some (BitVec.ofNat 32 (leNat (Mem.readL s.mem (k + e * n) n))) else none) ∧
       let x := s.me.vectorX o.h o.a o.b
       (pagesReady .rd ((s.me.active o.me o.vm).map fun e => l.plus (e * n)) s = .ok ((), s0) →
         ((s.me.active o.me o.vm).mapM fun e => do
           pure (e, leNat (← loadAt n (x + word (e * n)).toNat (l.plus (e * n)))) : M (List (Nat × Nat))) s0 = .ok (vs, s1) →
         s1.cur = s.cur →
         (o.c = false → s.fills (.vld q o) s1 o.d.toNat 0 (lanes vs)) ∧
         (o.c = true → mayConsume [s.me.hreg o.a] x.toNat s = .ok ((), s) → consume (s.me.hreg o.a) 1 x.toNat s1 = .ok ((), s2) →
           s2.cur = s.cur → s.fills (.vld q o) s2 o.d.toNat 0 (lanes vs)))) ∧
     (∀ (o : VgatO) (ls : List (Nat × Loc)) (tk : Nat), s.fp8Ok o.t →
       gatherLocs (.vgat q o) o.a o.b o.t o.cls o.sc o.sp o.h o.c o.me o.vm o.scl (if o.c then .use else .rd) s = .ok (ls, s) →
       let n := tyBytes o.t.toNat
       ordered (s.gatherRng o.h o.a o.sp.toNat false) s = .ok ((), s) →
       let at_ (e : Nat) : Nat := (s.me.gatherX o.h o.a o.b o.scl n e).toNat
       pagesReady .rd (ls.map (·.2)) s = .ok ((), s0) →
       (ls.mapM fun x => do pure (x.1, leNat (← loadAt n (at_ x.1) x.2)) : M (List (Nat × Nat))) s0 = .ok (vs, s1) → s1.cur = s.cur →
       (o.c = false → s.fills (.vgat q o) s1 o.d.toNat 0 (lanes vs)) ∧
       (o.c = true → tileFor (s.me.hreg o.a) 0 0 .use s = .ok (tk, s) →
         let off := (ls.head?.map fun x => at_ x.1).getD 0
         mayConsume [s.me.hreg o.a] off s = .ok ((), s) → consume (s.me.hreg o.a) 1 off s1 = .ok ((), s2) →
         s2.cur = s.cur → s.fills (.vgat q o) s2 o.d.toNat 0 (lanes vs))) ∧
     (∀ (o : VldlO) (ks : List (Nat × Nat)), s.fp8Ok o.t → laneKeys o s = .ok (ks, s) →
       let n := tyBytes o.t.toNat
       (∀ x ∈ ks, s.poisoned x.2 n = false) →
       s.fills (.vldl q o) s o.d.toNat 0 fun e => (ks.find? (·.1 = e)).map fun x => BitVec.ofNat 32 (leNat (Mem.readL s.mem x.2 n)))) ∧
  (∀ (q : Seqn) (s s1 s2 : State),
     (∀ (o : VstO) (l : Loc), s.fp8Ok o.t →
       vectorBase (.vst q o) o.a o.b o.t o.cls o.sc o.sp o.h false .wr s = .ok (l, s) →
       let n := tyBytes o.t.toNat
       ordered (s.locRng (64 * n) true l) s = .ok ((), s) →
       (storesReady n o.cls.toNat (match l with | .gv a => some a | _ => none)
           ((s.me.active o.me o.vm).map fun e => l.plus (e * n)) s = .ok ((), s1) →
         ((s.me.active o.me o.vm).forM fun e =>
           storeAt (leBytes n (s.me.lane o.d.toNat e).toNat) o.cls.toNat (l.plus (e * n)) : M Unit) s1 = .ok ((), s2) →
         exec (.vst q o) s = .next (s.retired (.vst q o) s2)) ∧
       (∀ k, l = .key k → s.MemWf →
         ∃ t, exec (.vst q o) s = .next (s.retired (.vst q o) t) ∧ t = { s with mem := t.mem, poison := t.poison } ∧
           (∀ e, e < 64 → Mem.readL t.mem (k + e * n) n =
             if s.me.on o.me o.vm e then leBytes n (s.me.lane o.d.toNat e).toNat else Mem.readL s.mem (k + e * n) n) ∧
           ∀ a, a < k ∨ k + 64 * n ≤ a → Mem.read t.mem a = Mem.read s.mem a)) ∧
     (∀ (o : VsctO) (ls : List (Nat × Loc)), s.fp8Ok o.t →
       gatherLocs (.vsct q o) o.a o.b o.t o.cls o.sc o.sp o.h false o.me o.vm o.scl .wr s = .ok (ls, s) →
       ordered (s.gatherRng o.h o.a o.sp.toNat true) s = .ok ((), s) →
       let n := tyBytes o.t.toNat
       storesReady n o.cls.toNat none (ls.map (·.2)) s = .ok ((), s1) →
       (ls.forM fun x => storeAt (leBytes n (s.me.lane o.d.toNat x.1).toNat) o.cls.toNat x.2 : M Unit) s1 = .ok ((), s2) →
       exec (.vsct q o) s = .next (s.retired (.vsct q o) s2)) ∧
     (∀ (o : VldlO) (ks : List (Nat × Nat)), s.fp8Ok o.t → s.MemWf → laneKeys o s = .ok (ks, s) →
       let n := tyBytes o.t.toNat
       ∃ t, exec (.vstl q o) s = .next (s.retired (.vstl q o) t) ∧
         t = ({ s with mem := t.mem, poison := t.poison } : State).regs (fun c => { c with lxu := true }) ∧
         (∀ x ∈ ks, Mem.readL t.mem x.2 n = leBytes n (s.me.lane o.d.toNat x.1).toNat) ∧
         ∀ a, (∀ x ∈ ks, a < x.2 ∨ x.2 + n ≤ a) → Mem.read t.mem a = Mem.read s.mem a))

/-- R379, R380 (integer types): arithmetic modulo 2^w in the active lanes, with a scalar second operand under BS; no flag. -/
def Obligations.VectorIntegers : Prop :=
  ∀ (q : Seqn) (o : VarO) (s : State), o.t.toNat ∈ [0, 1, 3, 4, 7, 8] → o.rm ≠ 5 → o.rm ≠ 6 → (o.rm = 7 → s.me.fpc.toNat % 8 < 5) →
    let w := tyWidth o.t.toNat
    let el (n : BitVec 5) (e : Nat) : BitVec w := (s.me.lane n.toNat e).setWidth w
    let b (e : Nat) : BitVec w := if o.bs then (s.me.reg o.b).setWidth w else el o.b e
    let signed : Bool := o.t = 0 || o.t = 3 || o.t = 7
    let below (x y : BitVec w) : Bool := if signed then x.toInt < y.toInt else x < y
    let gives (i : Instr) (r : BitVec w → BitVec w → BitVec w → BitVec w) : Prop :=
      s.fills i s o.d.toNat 0 fun e => if s.me.on o.me o.vm e then some ((r (el o.a e) (b e) (el o.d e)).setWidth 32) else none
    gives (.vadd q o) (fun x y _ => x + y) ∧ gives (.vsub q o) (fun x y _ => x - y) ∧ gives (.vmul q o) (fun x y _ => x * y) ∧
    gives (.vfma q o) (fun x y d => x * y + d) ∧
    gives (.vmin q o) (fun x y _ => if below y x then y else x) ∧ gives (.vmax q o) (fun x y _ => if below x y then y else x) ∧
    gives (.vshl q o) (fun x y _ => x <<< (y.toNat % w)) ∧
    gives (.vshr q o) (fun x y _ => if signed then x.sshiftRight (y.toNat % w) else x >>> (y.toNat % w))

/-- R372, R379, R380 (float types): the active lanes get the rounded results and FPS the flags of all of them; where a
flag's trap is enabled, nothing is written and the lowest enabled flag raises 0x10 to 0x14 with the mask of its lanes. -/
def Obligations.VectorFloats : Prop :=
  ∀ (q : Seqn) (o : VarO) (s : State), o.t.toNat ∈ [2, 5, 6] → o.rm ≠ 5 → o.rm ≠ 6 → (o.rm = 7 → s.me.fpc.toNat % 8 < 5) →
    let t := o.t.toNat
    let rm := if o.rm = 7 then s.me.fpc.toNat % 8 else o.rm.toNat
    let b (e : Nat) : Nat := elem t (if o.bs then (s.me.reg o.b).setWidth 32 else s.me.lane o.b.toNat e)
    let gives (i : Instr) (op : Fn2) : Prop :=
      let r (e : Nat) : Nat × Fl := fn2 t rm op (elem t (s.me.lane o.a.toNat e)) (b e) (elem t (s.me.lane o.d.toNat e))
      let act := (List.range 64).filter (s.me.on o.me o.vm)
      let fl : Fl := act.foldl (fun x e => x ||| (r e).2) 0
      ((∀ j, j < 5 → fl.getLsbD j = true → s.me.fpc.getLsbD (8 + j) = false) →
        s.fills i s o.d.toNat fl fun e => if s.me.on o.me o.vm e then some (BitVec.ofNat 32 (r e).1) else none) ∧
      (∀ j, j < 5 → fl.getLsbD j = true → s.me.fpc.getLsbD (8 + j) = true →
        (∀ k, k < j → fl.getLsbD k = true → s.me.fpc.getLsbD (8 + k) = false) → s.me.passed = none →
        ∃ m : Nat, exec i s = .next (s.raises i (exc (0x10 + j) m)) ∧
          ∀ e, m.testBit e = (decide (e < 64) && s.me.on o.me o.vm e && (r e).2.getLsbD j))
    gives (.vadd q o) .add ∧ gives (.vsub q o) .sub ∧ gives (.vmul q o) .mul ∧ gives (.vfma q o) .fma ∧ gives (.vmin q o) .min ∧
    gives (.vmax q o) .max

/-- R379, R381, the one-operand functions: integer |a| and −a modulo 2^w; of a float the sign bit alone, with no flag; the
reciprocal, root and transcendental functions with their flags. `vcis` fills vD and v(D + 1), and raises 0x05 where D = 31. -/
def Obligations.VectorFunctions : Prop :=
  ∀ (q : Seqn) (o : VunO) (s : State), o.rm ≠ 5 → o.rm ≠ 6 → (o.rm = 7 → s.me.fpc.toNat % 8 < 5) →
    let t := o.t.toNat
    let w := tyWidth t
    let el (e : Nat) : BitVec w := (s.me.lane o.a.toNat e).setWidth w
    let rm := if o.rm = 7 then s.me.fpc.toNat % 8 else o.rm.toNat
    let act := (List.range 64).filter (s.me.on o.me o.vm)
    let untrapped (fl : Fl) : Prop := ∀ j, j < 5 → fl.getLsbD j = true → s.me.fpc.getLsbD (8 + j) = false
    let put (f : Nat → BitVec 32) (e : Nat) : Option (BitVec 32) := if s.me.on o.me o.vm e then some (f e) else none
    (t ∈ [0, 3, 7] →
      s.fills (.vabs q o) s o.d.toNat 0 (put fun e => ((if (el e).msb then -(el e) else el e).setWidth 32)) ∧
      s.fills (.vneg q o) s o.d.toNat 0 (put fun e => (-(el e)).setWidth 32)) ∧
    (t ∈ [2, 5, 6] →
      s.fills (.vabs q o) s o.d.toNat 0 (put fun e => (el e &&& (BitVec.allOnes w >>> 1)).setWidth 32) ∧
      s.fills (.vneg q o) s o.d.toNat 0 (put fun e => (el e ^^^ BitVec.twoPow w (w - 1)).setWidth 32) ∧
      (∀ x ∈ [(Instr.vrcp q o, Fn1.rcp), (.vrsq q o, .rsq), (.vex2 q o, .ex2), (.vlg2 q o, .lg2)],
        let r (e : Nat) : Nat × Fl := fn1 t rm x.2 (el e).toNat
        untrapped (act.foldl (fun y e => y ||| (r e).2) 0) →
        s.fills x.1 s o.d.toNat (act.foldl (fun y e => y ||| (r e).2) 0) (put fun e => BitVec.ofNat 32 (r e).1)) ∧
      (∀ f : Fmt, tyFmt t = some f → o.d ≠ 31 →
        let r (e : Nat) : (Nat × Fl) × (Nat × Fl) := f.cis rm (el e).toNat
        let fl : Fl := act.foldl (fun y e => y ||| ((r e).1.2 ||| (r e).2.2)) 0
        untrapped fl →
        ∃ c c', exec (.vcis q o) s = .next (s.retired (.vcis q o) (s.setCtx s.cur c')) ∧
          s.me.Gets c o.d.toNat fl (put fun e => BitVec.ofNat 32 (r e).1.1) ∧
          c.Gets c' (o.d.toNat + 1) 0 (put fun e => BitVec.ofNat 32 (r e).2.1)) ∧
      (o.d = 31 → s.me.passed = none → exec (.vcis q o) s = .next (s.raises (.vcis q o) (exc 0x05 (dw0 (.vcis q o))))))

/-- R382, R196, R211: `vcvt` between integers keeps a value that fits, clamps it with SAT, and without SAT raises 0x16 with
the mask of the lanes that do not fit; other pairs convert with their flags; DT = 15 splits f32 into a bf16 triple. -/
def Obligations.VectorConversions : Prop :=
  ∀ (q : Seqn) (o : VcvtO) (s : State), o.rm ≠ 5 → o.rm ≠ 6 → (o.rm = 7 → s.me.fpc.toNat % 8 < 5) → s.fp8Ok o.t → s.fp8Ok o.dt →
    let t := o.t.toNat
    let dt := o.dt.toNat
    let rm := if o.rm = 7 then s.me.fpc.toNat % 8 else o.rm.toNat
    let a (e : Nat) : Nat := elem t (s.me.lane o.a.toNat e)
    let act := (List.range 64).filter (s.me.on o.me o.vm)
    let put (f : Nat → BitVec 32) (e : Nat) : Option (BitVec 32) := if s.me.on o.me o.vm e then some (f e) else none
    let fits (e : Nat) : Prop := tyMin dt ≤ tyInt t (a e) ∧ tyInt t (a e) ≤ tyMax dt
    (t ∈ [0, 1, 3, 4, 7, 8] → dt ∈ [0, 1, 3, 4, 7, 8] →
      (o.sat = true ∨ (∀ e ∈ act, fits e) →
        s.fills (.vcvt q o) s o.d.toNat 0 (put fun e =>
          (BitVec.ofInt (tyWidth dt) (max (tyMin dt) (min (tyMax dt) (tyInt t (a e))))).setWidth 32)) ∧
      (o.sat = false → (∃ e ∈ act, ¬ fits e) → s.me.passed = none →
        ∃ m : Nat, exec (.vcvt q o) s = .next (s.raises (.vcvt q o) (exc 0x16 m)) ∧
          ∀ e, m.testBit e = true ↔ e ∈ act ∧ ¬ fits e)) ∧
    (t < 11 → dt < 11 → (t ∈ [2, 5, 6, 9, 10] ∨ dt ∈ [2, 5, 6, 9, 10]) →
      let r (e : Nat) : Nat × Fl := (convert t dt rm o.sat (a e)).get
      let fl : Fl := act.foldl (fun y e => y ||| (r e).2) 0
      (∀ j, j < 5 → fl.getLsbD j = true → s.me.fpc.getLsbD (8 + j) = false) →
      s.fills (.vcvt q o) s o.d.toNat fl (put fun e => BitVec.ofNat 32 (r e).1)) ∧
    (t = 2 → dt = 15 → o.sat = false → o.d.toNat ≤ 29 →
      ∃ c1 c2 c3, exec (.vcvt q o) s = .next (s.retired (.vcvt q o) (s.setCtx s.cur c3)) ∧
        s.me.Gets c1 o.d.toNat 0 (put fun e => BitVec.ofNat 32 (split3 (a e)).1) ∧
        c1.Gets c2 (o.d.toNat + 1) 0 (put fun e => BitVec.ofNat 32 (split3 (a e)).2.1) ∧
        c2.Gets c3 (o.d.toNat + 2) 0 (put fun e => BitVec.ofNat 32 (split3 (a e)).2.2))

/-- R383, R384, R386: `vcmp` writes all ones or zero; `vsel` selects in every lane; `vcntge` counts the active elements that
are not below the scalar. -/
def Obligations.VectorCompares : Prop :=
  ∀ (q : Seqn) (s : State),
    (∀ o : VcmpO, o.t.toNat ∈ [0, 1, 3, 4, 7, 8] → o.cc.toNat < 6 →
      let w := tyWidth o.t.toNat
      let x (e : Nat) : BitVec w := (s.me.lane o.a.toNat e).setWidth w
      let y (e : Nat) : BitVec w := if o.bs then (s.me.reg o.b).setWidth w else (s.me.lane o.b.toNat e).setWidth w
      let signed : Bool := o.t = 0 || o.t = 3 || o.t = 7
      let below (x y : BitVec w) : Bool := if signed then x.toInt < y.toInt else x < y
      let holds (e : Nat) : Bool := [decide (x e = y e), decide (x e ≠ y e), below (x e) (y e), !below (y e) (x e),
        below (y e) (x e), !below (x e) (y e)].getD o.cc.toNat false
      s.fills (.vcmp q o) s o.d.toNat 0 fun e =>
        if s.me.on o.me o.vm e then some (if holds e then 0xFFFFFFFF else 0) else none) ∧
    (∀ o : VcmpO, o.t.toNat ∈ [2, 5, 6] → o.cc.toNat < 7 →
      let r (e : Nat) : Bool × Fl := tyCmp o.t.toNat o.cc.toNat (elem o.t.toNat (s.me.lane o.a.toNat e))
        (elem o.t.toNat (if o.bs then (s.me.reg o.b).setWidth 32 else s.me.lane o.b.toNat e))
      (s.me.fpc.getLsbD 8 = false ∨ ∀ e, e < 64 → s.me.on o.me o.vm e = true → (r e).2 = 0) →
      s.fills (.vcmp q o) s o.d.toNat (((List.range 64).filter (s.me.on o.me o.vm)).foldl (fun y e => y ||| (r e).2) 0) fun e =>
        if s.me.on o.me o.vm e then some (if (r e).1 then 0xFFFFFFFF else 0) else none) ∧
    (∀ o : VselO, s.fills (.vsel q o) s o.d.toNat 0 fun e => some (if (s.me.lane o.vm.toNat e).getLsbD 0 then s.me.lane o.a.toNat e
      else if o.bs then (s.me.reg o.b).setWidth 32 else s.me.lane o.b.toNat e)) ∧
    (∀ o : VcntO, o.t.toNat < 9 → exec (.vcntge q o) s = .next (s.retired (.vcntge q o) (s.regs fun c =>
      c.setReg o.d (BitVec.ofNat 64 ((List.range 64).countP fun e => s.me.on o.me o.vm e &&
        (tyCmp o.t.toNat 5 (elem o.t.toNat (s.me.lane o.a.toNat e)) (elem o.t.toNat ((s.me.reg o.b).setWidth 32))).1))))) ∧
    (∀ (t cc a b : Nat), t ∈ [2, 5, 6] → cc < 6 →
      ((tyFmt t).any fun f => (f.unpack a).isNan || (f.unpack b).isNan) = true → ((tyCmp t cc a b).1 = true ↔ cc = 1))

/-- R379, R384: logic on whole lanes, permutation, broadcast, index, insertion and extraction; a lane index of 64 or more
raises 0x1A with the index and writes nothing. -/
def Obligations.VectorMoves : Prop :=
  ∀ (q : Seqn) (s : State),
    let put (m : Bool) (vm : BitVec 5) (f : Nat → BitVec 32) (e : Nat) : Option (BitVec 32) := if s.me.on m vm e then some (f e) else none
    let el (w : Nat) (x : BitVec 64) : BitVec 32 := (x.setWidth w).setWidth 32
    (∀ o : VlogO, let b (e : Nat) : BitVec 32 := if o.bs then (s.me.reg o.b).setWidth 32 else s.me.lane o.b.toNat e
      s.fills (.vand q o) s o.d.toNat 0 (put o.me o.vm fun e => s.me.lane o.a.toNat e &&& b e) ∧
      s.fills (.vor q o) s o.d.toNat 0 (put o.me o.vm fun e => s.me.lane o.a.toNat e ||| b e) ∧
      s.fills (.vxor q o) s o.d.toNat 0 (put o.me o.vm fun e => s.me.lane o.a.toNat e ^^^ b e)) ∧
    (∀ o : VpermO, let b (e : Nat) : Nat := (s.me.lane o.b.toNat e).toNat
      ((∀ e, e < 64 → s.me.on o.me o.vm e = true → b e < 64) →
        s.fills (.vperm q o) s o.d.toNat 0 (put o.me o.vm fun e => s.me.lane o.a.toNat (b e))) ∧
      (∀ e, e < 64 → s.me.on o.me o.vm e = true → 64 ≤ b e → (∀ k, k < e → s.me.on o.me o.vm k = true → b k < 64) →
        s.me.passed = none → exec (.vperm q o) s = .next (s.raises (.vperm q o) (exc 0x1A (b e))))) ∧
    (∀ o : VbcO, o.t.toNat < 11 → s.fp8Ok o.t →
      s.fills (.vbc q o) s o.d.toNat 0 (put o.me o.vm fun _ => el (tyWidth o.t.toNat) (s.me.reg o.a))) ∧
    (∀ o : VcntO, o.t.toNat ∈ [0, 1, 3, 4, 7, 8] → s.fills (.vidx q o) s o.d.toNat 0 (put o.me o.vm fun e =>
      el (tyWidth o.t.toNat) (s.me.reg o.a + BitVec.ofNat 64 e * s.me.reg o.b))) ∧
    (∀ o : VinsO, o.t.toNat < 11 → s.fp8Ok o.t → let j := (s.me.reg o.b).toNat
      (j < 64 → s.fills (.vins q o) s o.d.toNat 0 (fun e => if e = j then some (el (tyWidth o.t.toNat) (s.me.reg o.a)) else none) ∧
        exec (.vext q o) s = .next (s.retired (.vext q o) (s.regs fun c => c.setReg o.d
          (let x : BitVec (tyWidth o.t.toNat) := (s.me.lane o.a.toNat j).setWidth (tyWidth o.t.toNat)
           if o.t.toNat ∈ [0, 3, 7] then x.signExtend 64 else x.setWidth 64)))) ∧
      (64 ≤ j → s.me.passed = none → exec (.vins q o) s = .next (s.raises (.vins q o) (exc 0x1A j)) ∧
        exec (.vext q o) s = .next (s.raises (.vext q o) (exc 0x1A j))))

/-- R385: `vred` combines the active elements in a binary tree, its scalar result extended by T; over integers the tree is
the fold of the elements. `vscan` leaves in each active lane the combination of the active elements up to it. -/
def Obligations.VectorReductions : Prop :=
  ∀ (q : Seqn) (o : VredO) (s : State), o.rm ≠ 5 → o.rm ≠ 6 → (o.rm = 7 → s.me.fpc.toNat % 8 < 5) → o.opr.toNat < 6 → o.t.toNat < 9 →
    let t := o.t.toNat
    let w := tyWidth t
    let rm := if o.rm = 7 then s.me.fpc.toNat % 8 else o.rm.toNat
    let el (e : Nat) : BitVec w := (s.me.lane o.a.toNat e).setWidth w
    let act := (List.range 64).filter (s.me.on o.me o.vm)
    let signed : Bool := t = 0 || t = 3 || t = 7
    let below (x y : BitVec w) : Bool := if signed then x.toInt < y.toInt else x < y
    let op (x y : BitVec w) : BitVec w := [x + y, if below y x then y else x, if below x y then y else x, x &&& y, x ||| y,
      x ^^^ y].getD o.opr.toNat 0
    let one : BitVec w := [0, if signed then BitVec.ofInt w (2 ^ (w - 1) - 1) else BitVec.allOnes w,
      if signed then BitVec.ofInt w (-(2 ^ (w - 1))) else 0, BitVec.allOnes w, 0, 0].getD o.opr.toNat 0
    let wide (x : BitVec w) : Word := if signed then x.signExtend 64 else x.setWidth 64
    (t ≠ 2 → t ≠ 5 → t ≠ 6 →
      exec (.vred q o) s = .next (s.retired (.vred q o) (s.regs fun c => c.setReg o.d (wide (act.foldl (fun x e => op x (el e)) one)))) ∧
      s.fills (.vscan q o) s o.d.toNat 0 fun e => if s.me.on o.me o.vm e then
        some (((act.filter (· ≤ e)).foldl (fun x e => op x (el e)) one).setWidth 32) else none) ∧
    (t = 2 ∨ t = 5 ∨ t = 6 →
      let xs := (List.range 64).map fun e => if s.me.on o.me o.vm e then (el e).toNat else redId t o.opr.toNat
      let r := redTree t rm o.opr.toNat xs
      let fl : Fl := r.2.foldl (fun y x => y ||| x.2) 0
      let rs := scanFrom t rm o.opr.toNat s.me o.a (redId t o.opr.toNat) act
      let gl : Fl := rs.foldl (fun y x => y ||| x.2.2) 0
      (fl.setWidth 64 &&& (s.me.fpc >>> 8) = 0#64 → exec (.vred q o) s = .next (s.retired (.vred q o) (s.regs fun c =>
        ({ c with fps := c.fps ||| fl.setWidth 64 } : Ctx).setReg o.d (BitVec.ofNat 64 (r.1 % 2 ^ w))))) ∧
      (gl.setWidth 64 &&& (s.me.fpc >>> 8) = 0#64 →
        s.fills (.vscan q o) s o.d.toNat gl fun e => (rs.find? (·.1 = e)).map fun x => BitVec.ofNat 32 x.2.1))

/-- R389 to R395: a loop nest runs its function over its elements and leaves its result. -/
def Obligations.LoopNests : Prop :=
  (∀ (q : Seqn) (y : Sync) (o : LnopO) (s s0 s1 : State) (x : LnRun), s.syncWait s.cur (some y) = some s0 →
     o.kd ≠ 5 → o.ka ≠ 5 → o.kb ≠ 5 → s.fp8Ok o.t → s.fp8Ok o.dt →
     let uses (c : Ctx) : List (BitVec 32) := (if o.ka = 7 then [c.hreg o.a] else []) ++ if o.kb = 7 then [c.hreg o.b] else []
     mayConsume (uses s0.me) 0 s0 = .ok ((), s0) →
     let i := Instr.lnop q y o
     let c := s0.me
     let core := s0.cur / 4
     lnForm i o s0 = .ok ((), s0) → lnChecks i o none false s0 = .ok ((), s0) → ordered ((lnUsed o).flatMap (s0.lnRng o core c)) s0 = .ok ((), s0) →
     let b : LnOp := if o.kb = 0 then { view := .none, base := 0, size := 0, str := [], val := 0 } else lnOperand o none core c 2
     (List.range ((lnExtents o).foldl (· * ·) 1)).foldlM (lnStep o (rmOf o.rm.toNat c.fpc) (lnOperand o none core c 0)
       (lnOperand o none core c 1) b) ⟨s0, [], 0⟩ = .ok x →
     (x.range = 0 → (x.fl.foldl (fun f z => f ||| z.2) (0 : Fl)).setWidth 64 &&& (c.fpc >>> 8) = 0#64 →
       let t := ({ s0 with mem := x.s.mem, poison := x.s.poison } : State).regs fun c =>
         { c with fps := c.fps ||| (x.fl.foldl (fun f z => f ||| z.2) (0 : Fl)).setWidth 64 }
       (do if o.ka = 7 then consume (c.hreg o.a) 1
           if o.kb = 7 then consume (c.hreg o.b) 1 : M Unit) t = .ok ((), s1) →
       exec i s = .next (s.retired i s1)) ∧
     (x.range ≠ 0 → y.wst = 0 → s.me.passed = none → exec i s = .next (s.raises i (exc 0x16 x.range)))) ∧
  (∀ (q : Seqn) (y : Sync) (o : LnopO) (s : State), y.wst = 0 → y.sgn = 0 → s.MemWf → s.poison = [] → s.me.mx = [] → s.jobs = [] →
     o.kd = 1 → o.ka = 1 → o.kb = 1 → o.fn = 1 → o.t = 0 → o.dt = 0 → o.nlv = 0 → o.rm = 0 → o.sat = false →
     o.e1 = 0 → o.e2 = 0 → o.e3 = 0 → o.e4 = 0 → o.sd0 = 1 → o.sa0 = 1 → o.sb0 = 1 → o.scd = 0 → o.sca = 0 → o.scb = 0 →
     o.sd1 = 0 → o.sd2 = 0 → o.sd3 = 0 → o.sd4 = 0 → o.sa1 = 0 → o.sa2 = 0 → o.sa3 = 0 → o.sa4 = 0 → o.sb1 = 0 → o.sb2 = 0 →
     o.sb3 = 0 → o.sb4 = 0 →
     let n := 4 * (o.e0.toNat + 1)
     let d := (s.me.reg o.d).toNat
     let a := (s.me.reg o.a).toNat
     let b := (s.me.reg o.b).toNat
     let room := 2 ^ 20 - s.cpoolOf (s.cur / 4) * 2048
     d % 4 = 0 → a % 4 = 0 → b % 4 = 0 → d + n ≤ room → a + n ≤ room → b + n ≤ room → n ≤ 65536 →
     (d + n ≤ a ∨ a + n ≤ d) → (d + n ≤ b ∨ b + n ≤ d) →
     let key (x : Nat) : Nat := lsKey (s.cur / 4) x
     ∃ t, exec (.lnop q y o) s = .next (s.retired (.lnop q y o) t) ∧ t = { s with mem := t.mem } ∧
       (∀ i, i ≤ o.e0.toNat → BitVec.ofNat 32 (leNat (Mem.readL t.mem (key (d + 4 * i)) 4)) =
         BitVec.ofNat 32 (leNat (Mem.readL s.mem (key (a + 4 * i)) 4)) + BitVec.ofNat 32 (leNat (Mem.readL s.mem (key (b + 4 * i)) 4))) ∧
       ∀ k, k < key d ∨ key d + n ≤ k → Mem.read t.mem k = Mem.read s.mem k)

/-- R115, R172 to R176, R185, R396, R400, R449: an instruction with a stream operand installs a rule in its slot in place of
its effect, and takes holds on the slices that are committed; the forms that may not do so raise 0x42 (KD = 6 of a `cpy`
that installs no rule by log entry 33). -/
def Obligations.RuleInstallation : Prop :=
  (∀ (i : Instr) (x : Install) (rs : List Rng) (s t : State), install i x rs s = .ok ((), t) →
     ∃ (u s1 : State) (k : Nat) (r : Rule) (w : List Work),
       let c := s.me
       let own := RuleOwner.task c.task
       (c.direct = true ∧ u = s ∨ c.direct = false ∧ ∃ v, s.commitRegion s.cur = .ok v ∧ u = v.modCtx s.cur fun c => { c with direct := true }) ∧
       k < 16 ∧ k ∉ SMap.keys c.k ∧ (∀ j, j < k → j ∈ SMap.keys c.k) ∧
       s1.ctx s.cur = { u.ctx s.cur with k := SMap.put c.k k r, installs := c.installs + 1 } ∧
       r.st = .armed ∧ r.fcause = 0 ∧ r.rank = c.installs ∧ r.ckind = x.ckind ∧ r.carry = x.carry ∧ r.rslt = 0 ∧
       r.img = encodeNat i % 2 ^ 256 ∧
       (∀ n b, (x.a.or x.b) = some n → SMap.get? c.f n.toNat = some b →
         r.cur = if b.start = 0xFFFFFFFFFFFF then s.streamBase c.part b.tid.toNat else b.start.toNat) ∧
       (∀ n b, x.a = some n → SMap.get? c.f n.toNat = some b → r.tida = b.tid) ∧
       (∀ n b, x.b = some n → SMap.get? c.f n.toNat = some b → r.tidb = b.tid) ∧
       (∀ n b, x.d = some n → SMap.get? c.f n.toNat = some b → r.tidd = b.tid ∧ b.out = true) ∧
       s1.mem = (u.readObjs c.part ((u.objAt c.part c.pc).map (·.idx))).mem ∧ s1.tasks = u.tasks ∧ s1.sems = u.sems ∧
       (∀ n b y, x.a = some n ∨ x.b = some n → SMap.get? c.f n.toNat = some b → y ∈ (u.stream c.part b.tid.toNat).slices →
         r.cur ≤ y.1 → (s1.tileOf y.2).isSome = true → s1.holdsTile (.rule own k) y.2 = true) ∧
       t = State.work (s1, w) ∧ (w = [] ∨ w = [.ruleEnd own k]) ∧
       ((∀ n b, x.a = some n ∨ x.b = some n → SMap.get? c.f n.toNat = some b → b.tid ≠ 0xFFFF) →
         (w ≠ [] ↔ ∃ n b e, (x.a = some n ∨ x.b = some n) ∧ SMap.get? c.f n.toNat = some b ∧
           (u.stream c.part b.tid.toNat).eosx = some e ∧ e ≤ r.cur))) ∧
  (∀ (q : Seqn) (y : Sync) (s s0 s1 s2 : State), s.syncWait s.cur (some y) = some s0 → s.feature 6 = true →
     (∀ o : LnopO, o.kd = 5 ∨ o.ka = 5 ∨ o.kb = 5 → s.fp8Ok o.t → s.fp8Ok o.dt → lnInstall (.lnop q y o) o s0 = .ok ((), s1) →
       exec (.lnop q y o) s = .next (s.retired (.lnop q y o) s1)) ∧
     (∀ (o : FieldO) (j : MxJob), o.ka = 5 ∨ o.kb = 5 →
       let x : Install := { a := if o.ka = 5 then some o.a else none, b := if o.kb = 5 then some o.b else none, d := none, ckind := 1,
                            carry := BitVec.ofNat 32 o.d.toNat }
       (fieldSetup (.mma q y o) .mma o y none s0 = .ok (j, s1) → install (.mma q y o) x j.rng s1 = .ok ((), s2) →
         exec (.mma q y o) s = .next (s.retired (.mma q y o) s2)) ∧
       (fieldSetup (.mmaq q y o) .mmaq o y none s0 = .ok (j, s1) → install (.mmaq q y o) x j.rng s1 = .ok ((), s2) →
         exec (.mmaq q y o) s = .next (s.retired (.mmaq q y o) s2))) ∧
     (∀ (o : ScaccO) (z : ScOps), o.ka = 5 ∨ o.kb = 5 → scSetup (.scacc q y o) o none s0 = .ok (z, s1) →
       install (.scacc q y o) { a := if o.ka = 5 then some o.a else none, b := if o.kb = 5 then some o.b else none, d := none,
                                ckind := 1, carry := BitVec.ofNat 32 o.d.toNat } (scRng o z) s1 = .ok ((), s2) →
       exec (.scacc q y o) s = .next (s.retired (.scacc q y o) s2)) ∧
     (∀ o : CpyO, o.c.ka = 5 → o.c.kd = 0 ∨ o.c.kd = 5 ∨ o.c.kd = 6 → o.c.fv = false → o.c.tv = false → o.c.fp = false →
       o.tc = false → (o.c.cv ≠ 0 → (o.c.et = 8 ∨ o.c.et = 9) → s.feature 1 = true) → cvChecks (.cpy q y o) o.c s0 = .ok ((), s0) →
       cpyInstall (.cpy q y o) o s0 = .ok ((), s1) → exec (.cpy q y o) s = .next (s.retired (.cpy q y o) s1))) ∧
  (∀ (q : Seqn) (y : Sync) (s : State), (∀ n, n < 10 → s.feature n = true) → y.wst = 0 → s.me.passed = none →
     let refused (i : Instr) : Prop := exec i s = .next (s.raises i (exc 0x42 (dw0 i)))
     (∀ o : AldO, o.ka = 5 → refused (.ald q y o)) ∧
     (∀ o : AdrnO, o.kd = 5 → o.dt.toNat ≤ 10 → (o.lay = true → 5 ≤ o.dt.toNat) → o.rm.toNat < 5 → refused (.adrn q y o)) ∧
     (∀ o : FieldO, o.ka = 5 → ∀ x ∈ [(FieldOp.mma3, Instr.mma3 q y o), (.bsmm, .bsmm q y o), (.gmm, .gmm q y o)],
       precChecks x.2 x.1 o s = .ok ((), s) → refused x.2) ∧
     (∀ o : CpymO, (s.task s.me.task).gang.isSome = true → o.c.kd = 5 ∨ (o.c.kd = 1 ∧ o.c.ka = 5) → refused (.cpym q y o)) ∧
     (∀ o : CpyqO, o.c.kd = 5 ∨ (o.c.kd = 0 ∧ o.c.ka = 5) → refused (.cpyq q y o)) ∧
     (∀ o : FillO, o.c.kd = 5 → refused (.fill q y o)) ∧
     (∀ o : CpytO, o.c.kd = 5 → refused (.cpyt q y o)) ∧
     (∀ o : CpyO, o.c.ka = 5 →
       ¬(o.c.kd = 0 ∨ o.c.kd = 5 ∨ o.c.kd = 6) ∨ o.c.fv = true ∨ o.c.tv = true ∨ o.c.fp = true ∨ o.tc = true → refused (.cpy q y o)) ∧
     (∀ o : CpyO, o.c.ka.toNat ∈ [0, 1, 2, 3, 4, 7] → o.c.kd = 5 ∨ o.c.kd = 6 → refused (.cpy q y o)) ∧
     (∀ o : LnopO, o.kd = 5 ∨ o.ka = 5 ∨ o.kb = 5 → lnForm (.lnop q y o) o s = .ok ((), s) →
       ((o.kd ≠ 4 ∧ o.kd ≠ 5) ∨ o.ka = 7 ∨ o.kb = 7 → refused (.lnop q y o)) ∧
       (o.ka.toNat ∉ [5, 7] → o.kb.toNat ∉ [5, 7] → lnChecks (.lnop q y o) o none true s = .ok ((), s) → refused (.lnop q y o))))

/-- R398, R407, R409, R411, R412, R414, R416: a field instruction retires, without its signal, as a job at the tail of the
context's matrix queue, which holds eight; no firing is in the field, and no rule can enter it first (R178, R424), for which
it waits. Its tiles are pinned and its consumed operands lose a read; no accumulator has changed. With bias updates it
enters its footprint domain first. -/
def Obligations.FieldInstructions : Prop :=
  ∀ (q : Seqn) (y : Sync) (o : FieldO) (s s0 s1 s2 s3 : State) (j : MxJob) (m : Option Nat), s.syncWait s.cur (some y) = some s0 →
    ∀ x ∈ [(FieldOp.mma, Instr.mma q y o), (.mmaq, .mmaq q y o), (.mma3, .mma3 q y o), (.bsmm, .bsmm q y o), (.gmm, .gmm q y o)],
      o.ka ≠ 5 → o.kb ≠ 5 → fieldNeeds x.1 o s = .ok ((), s) → fieldSetup x.2 x.1 o y none s0 = .ok (j, s1) → s1.cur = s.cur →
      ordered j.rng s1 = .ok ((), s1) →
      (s1.unitFires (s.cur / 4) true = true ∨ s1.unitWanted (s.cur / 4) true = true → exec x.2 s = .next (s0.block s.cur .engine)) ∧
      (s1.unitFires (s.cur / 4) true = false → s1.unitWanted (s.cur / 4) true = false → s1.me.mx.length < 8 → (o.be = true → s1.me.direct = true) →
      (if o.be then mxDomain o else pure none : M (Option Nat)) s1 = .ok (m, s2) →
      (do mayConsume ((if o.ka = 7 then [s1.me.hreg o.a] else []) ++ if o.kb = 7 then [s1.me.hreg o.b] else [])
          modS fun s => j.pins.foldl State.pin s
          if o.ka = 7 then consume (s1.me.hreg o.a) 1
          if o.kb = 7 then consume (s1.me.hreg o.b) 1 : M Unit) s2 = .ok ((), s3) → s3.cur = s.cur →
      exec x.2 s = .next ((s3.regs fun c => { c with mx := c.mx ++ [{ j with memb := m }] }).finish x.2 s.cur s.me.pc false) ∧
      (s3.ctx s.cur).acc = s.me.acc ∧ j.op = x.1 ∧ j.done = 0)

/-- R205, R209, R404: one chunk of an integer matrix job adds to each accumulator word the products of its k-steps, less the
zero point of B times A, modulo 2^32, and sets OVF where the exact sum leaves the range of i32; no other word changes. A
word that is written loses its poison (R43). -/
def Obligations.MatrixChunks : Prop :=
  ∀ (s : State) (c c' : Ctx) (j j' : MxJob), let x := chunkOf j
    plFloat x.a.ty = false → s.runChunk c j = some (c', j') →
    let prod (m n k : Nat) : Int := ((s.plInt x.a (m * x.a.k + k)).getD 0) * ((s.plInt x.b (n * x.b.k + k)).getD 0) -
      ((x.zero.getD n 0 : Nat) : Int) * (s.plInt x.a (m * x.a.k + k)).getD 0
    let sum (m n : Nat) : Int := (c.accw x.acc m n).toInt + (x.ks.map (prod m n)).foldl (· + ·) 0
    c' = { c with acc := c'.acc, ovf := c'.ovf, bad := c'.bad } ∧
    (∀ w, w ∈ c'.bad ↔ w ∈ c.bad ∧ ¬∃ m ∈ x.rows, ∃ n ≤ j.o.nm1.toNat, w = accCell x.acc (m * 64 + n)) ∧ j' = { j with done := j.done + x.ks.length } ∧
    (∀ a m n, m < 64 → n < 64 → c'.accw a m n =
      if a = x.acc ∧ m ∈ x.rows ∧ n ≤ j.o.nm1.toNat then BitVec.ofInt 32 (sum m n) else c.accw a m n) ∧
    (∀ a, a < 16 → c'.ovf.getLsbD a = (c.ovf.getLsbD a || (a = x.acc &&
      x.rows.any fun m => (List.range (j.o.nm1.toNat + 1)).any fun n => decide (sum m n < -(2 ^ 31) ∨ 2 ^ 31 ≤ sum m n))))

/-- R403, R406, R418 to R423: `aclr`, `ald`, `arow`, `ast`, `adrn` and `scacc` on the accumulators that they name. That
`ast` makes no carry check is log entry 33, and that a row of a single NaN gives the canonical NaN under MAX and MIN log
entry 36. -/
def Obligations.Accumulators : Prop :=
  (∀ (q : Seqn) (y : Sync) (s s0 s1 : State), s.syncWait s.cur (some y) = some s0 →
     let free : Prop := s0.unitFires (s.cur / 4) false = false ∧ s0.unitWanted (s.cur / 4) false = false
     (∀ o : AstO, s0.me.mx ≠ [] ∨ ¬free → exec (.ast q y o) s = .next (s0.block s.cur .engine)) ∧
     (free →
     (∀ o : AclrO, let l := (List.range 16).filter fun a => o.amask.getLsbD a
       accsFree l s0 = .ok ((), s0) → ordered (l.map (accRng · true)) s0 = .ok ((), s0) →
       ∃ c, exec (.aclr q y o) s = .next (s.retired (.aclr q y o) (s0.setCtx s.cur c)) ∧
         c = { s0.me with acc := c.acc, bad := c.bad, ovf := s0.me.ovf &&& ~~~o.amask } ∧
         (∀ w, w ∈ c.bad ↔ w ∈ s0.me.bad ∧ ¬∃ a ∈ l, accCell a 0 ≤ w ∧ w < accCell (a + 1) 0) ∧
         ∀ a m n, m < 64 → n < 64 → c.accw a m n = if a < 16 ∧ o.amask.getLsbD a = true then 0 else s0.me.accw a m n) ∧
     (∀ (o : AldO) (x : MxOp) (b : List Byte), o.ka = 1 ∨ o.ka = 2 ∨ o.ka = 3 ∨ o.ka = 7 →
       let m := o.mm1.toNat + 1
       let n := o.nm1.toNat + 1
       mxOperand none o.ka.toNat o.a 0 (4 * m * n) 4 misaligned false s0 = .ok (x, s0) → accsFree [o.d.toNat] s0 = .ok ((), s0) →
       ordered (accRng o.d.toNat true :: x.rng) s0 = .ok ((), s0) →
       (o.ka = 7 → mayConsume [s0.me.hreg o.a] 0 s0 = .ok ((), s0)) → s0.viewRead x.view x.base (4 * m * n) = some b →
       (if o.ka = 7 then consume (s0.me.hreg o.a) 1 else pure () : M Unit) s0 = .ok ((), s1) → s1.cur = s.cur →
       ∃ c, exec (.ald q y o) s = .next (s.retired (.ald q y o) (s1.setCtx s.cur c)) ∧
         c = { s1.me with acc := c.acc, bad := c.bad, ovf := s1.me.ovf &&& ~~~BitVec.twoPow 16 o.d.toNat } ∧
         (∀ w, w ∈ c.bad ↔ w ∈ s1.me.bad ∧ ¬∃ i < m, ∃ k < n, w = accCell o.d.toNat (i * 64 + k)) ∧
         ∀ a i k, i < 64 → k < 64 → c.accw a i k = if a = o.d.toNat ∧ i < m ∧ k < n then
           BitVec.ofNat 32 (leNat ((b.drop (4 * (i * n + k))).take 4)) else s1.me.accw a i k) ∧
     (∀ o : ArowO, o.opr.toNat < 4 → o.at_ = false → accsFree [o.a.toNat] s0 = .ok ((), s0) →
       ordered [accRng o.a.toNat false] s0 = .ok ((), s0) →
       let f := Fmt.f32
       let row (r : Nat) : List Nat := (List.range (o.nm1.toNat + 1)).map (fun k => (s0.me.accw o.a.toNat r k).toNat) ++
         if o.accv then [(s0.me.lane o.d.toNat r).toNat] else []
       let sum (r : Nat) : Fp × Fl := chunkSum ((row r).map fun x => (f.unpack x, if (f.unpack x).isSig then Fl.invalid else 0))
       let v (r : Nat) : Nat × Fl := match o.opr.toNat with
         | 0 => ((f.pack 0 false (sum r).1).1, (sum r).2 ||| (f.pack 0 false (sum r).1).2)
         | 3 => if (row r).any fun x => (f.unpack x).isNan then (f.nan, if (row r).any fun x => (f.unpack x).isSig then Fl.invalid else 0)
           else ((row r).foldl (fun m x => max m (x % 2 ^ 31)) 0, 0)
         | p => (row r).foldl (fun m x => let z := f.minMax (p = 2) m.1 x; (z.1, m.2 ||| z.2))
             (f.minMax (p = 2) ((row r).headD 0) ((row r).headD 0))
       let fl : Fl := (List.range (o.mm1.toNat + 1)).foldl (fun g r => g ||| (v r).2) 0
       fl.setWidth 64 &&& (s0.me.fpc >>> 8) = 0#64 →
       s.fills (.arow q y o) s0 o.d.toNat fl fun r => if r ≤ o.mm1.toNat then some (BitVec.ofNat 32 (v r).1) else none) ∧
     (∀ o : ArowO, o.opr.toNat < 4 → o.at_ = true → accsFree [o.a.toNat] s0 = .ok ((), s0) →
       ordered [accRng o.a.toNat false] s0 = .ok ((), s0) →
       let row (r : Nat) : List Int := (List.range (o.nm1.toNat + 1)).map (fun k => (s0.me.accw o.a.toNat r k).toInt) ++
         if o.accv then [(s0.me.lane o.d.toNat r).toInt] else []
       let v (r : Nat) : Int := match o.opr.toNat with
         | 0 => (row r).foldl (· + ·) 0
         | 1 => (row r).foldl max ((row r).headD 0)
         | 2 => (row r).foldl min ((row r).headD 0)
         | _ => (row r).foldl (fun m x => max m (x.natAbs : Int)) 0
       s.fills (.arow q y o) s0 o.d.toNat 0 fun r => if r ≤ o.mm1.toNat then some (BitVec.ofInt 32 (v r)) else none) ∧
     (∀ o : AstO, s0.me.mx = [] →
       exec (.ast q y o) s = .next (s.retired (.ast q y o) (s0.regs fun c =>
         { c.setReg o.d (c.ovf.setWidth 64) with ovf := c.ovf &&& ~~~o.cmask }))) ∧
     (∀ (o : AdrnO) (x : MxOp), o.dt.toNat ≤ 10 → (o.lay = true → 5 ≤ o.dt.toNat) → o.rm ≠ 5 → o.rm ≠ 6 →
       (o.rm = 7 → s0.me.fpc.toNat % 8 < 5) → s.fp8Ok o.dt → o.kd = 1 ∨ o.kd = 2 ∨ o.kd = 3 →
       let m := o.mm1.toNat + 1
       let n := o.nm1.toNat + 1
       let dt := o.dt.toNat
       let rm := if o.rm = 7 then s0.me.fpc.toNat % 8 else o.rm.toNat
       let r (i k : Nat) : Cvt := convert (if o.at_ then 0 else 2) dt rm o.sat (s0.me.accw o.a.toNat i k).toNat
       let vs := (List.range m).flatMap fun i => (List.range n).map fun k => r i k
       let fl : Fl := vs.foldl (fun f z => f ||| z.get.2) 0
       let bytes := if o.lay then toPlanar (plType dt) m n (vs.map (·.get.1)) else (vs.map (·.get.1)).flatMap (leBytes (tyBytes dt))
       mxOperand none o.kd.toNat o.d 0 (if o.lay then plSize (plType dt) m n else tyBytes dt * m * n)
         (if o.lay then 64 else tyBytes dt) (if o.lay then planeFree else misaligned) true s0 = .ok (x, s0) →
       accsFree [o.a.toNat] s0 = .ok ((), s0) → ordered (accRng o.a.toNat o.clr :: x.rng) s0 = .ok ((), s0) →
       (∀ z ∈ vs, z ≠ .range) → fl.setWidth 64 &&& (s0.me.fpc >>> 8) = 0#64 →
       ∃ c, exec (.adrn q y o) s = .next (s.retired (.adrn q y o) ((s0.viewWrite x.view x.base bytes).setCtx s.cur c)) ∧
         c = { s0.me with fps := s0.me.fps ||| fl.setWidth 64, acc := c.acc, ovf := c.ovf, bad := c.bad } ∧
         (o.clr = false → c.acc = s0.me.acc ∧ c.ovf = s0.me.ovf ∧ c.bad = s0.me.bad) ∧
         (o.clr = true → c.ovf = s0.me.ovf &&& ~~~BitVec.twoPow 16 o.a.toNat ∧
           (∀ w, w ∈ c.bad ↔ w ∈ s0.me.bad ∧ ¬(accCell o.a.toNat 0 ≤ w ∧ w < accCell (o.a.toNat + 1) 0)) ∧
           ∀ a i k, i < 64 → k < 64 → c.accw a i k = if a = o.a.toNat then 0 else s0.me.accw a i k)))) ∧
  (∀ (q : Seqn) (y : Sync) (o : ScaccO) (s s0 s1 : State) (x : ScOps) (pb sb : List Byte), s.syncWait s.cur (some y) = some s0 →
     o.ka ≠ 5 → o.kb ≠ 5 → scSetup (.scacc q y o) o none s0 = .ok (x, s0) →
     accsFree (o.d.toNat :: if o.ka = 0 then [o.a.toNat] else []) s0 = .ok ((), s0) → ordered (scRng o x) s0 = .ok ((), s0) →
     s0.unitFires (s.cur / 4) false = false → s0.unitWanted (s.cur / 4) false = false →
     mayConsume ((if o.ka = 7 then [s0.me.hreg o.a] else []) ++ if o.kb = 7 then [s0.me.hreg o.b] else []) 0 s0 = .ok ((), s0) →
     let m := o.mm1.toNat + 1
     let n := o.nm1.toNat + 1
     let z := if o.sf then 4 else 2
     let scale (i k : Nat) : Fp := (if o.sf then Fmt.f32 else Fmt.f16).unpack (if o.kb = 6 then (s0.me.reg o.b).toNat % 2 ^ (8 * z) else
       leNat ((sb.drop (z * (if o.sm = 0 then k else if o.sm = 1 then i else i * n + k))).take z))
     let part (i k : Nat) : Nat := if o.ka = 0 then (s0.me.accw o.a.toNat i k).toNat else leNat ((pb.drop (4 * (i * n + k))).take 4)
     let r (i k : Nat) : Nat × Fl := scaleAdd (s0.me.accw o.d.toNat i k) (scale i k)
       (if o.pt then Fmt.f32.unpack (part i k) else Fp.ofInt (BitVec.ofNat 32 (part i k)).toInt 0)
     let fl : Fl := ((List.range m).flatMap fun i => (List.range n).map fun k => (r i k).2).foldl (· ||| ·) 0
     (o.ka ≠ 0 → s0.viewRead x.a.view x.a.base (4 * m * n) = some pb) →
     (o.kb ≠ 6 → s0.viewRead x.b.view x.b.base (z * (if o.sm = 0 then n else if o.sm = 1 then m else m * n)) = some sb) →
     fl.setWidth 64 &&& (s0.me.fpc >>> 8) = 0#64 →
     ∃ c, c = { s0.me with fps := s0.me.fps ||| fl.setWidth 64, acc := c.acc, bad := c.bad } ∧
       (∀ w, w ∈ c.bad ↔ w ∈ s0.me.bad ∧ ¬∃ i < m, ∃ k < n, w = accCell o.d.toNat (i * 64 + k)) ∧
       (∀ a i k, i < 64 → k < 64 → c.accw a i k =
         if a = o.d.toNat ∧ i < m ∧ k < n then BitVec.ofNat 32 (r i k).1 else s0.me.accw a i k) ∧
       ((do if o.ka = 7 then consume (s0.me.hreg o.a) 1
            if o.kb = 7 then consume (s0.me.hreg o.b) 1 : M Unit) (s0.setCtx s.cur c) = .ok ((), s1) →
         exec (.scacc q y o) s = .next (s.retired (.scacc q y o) s1)))

/-- R442 to R446, R449 to R454: a drift command whose checks have passed becomes an accepted job of its core, which holds
eight, and retires without its signal; acceptance gives the job its number and a hold on each of its tiles, pins the tiles
that it reads until it ends (log entry 38), and changes no context, task or semaphore. -/
def Obligations.DriftCommands : Prop :=
  (∀ (i : Instr) (s s0 t : State), s.syncWait s.cur (syncOf i) = some s0 → s0.accepts t i →
     exec i s = .next (t.finish i s.cur s.me.pc false)) ∧
  (∀ (s t : State) (j : Job), s.accept j = .ok t →
     (∃ j', SMap.get? t.jobs s.nextId = some j' ∧ j' = { j with memb := j'.memb, fail := j'.fail, st := j'.st } ∧
       (j.len = 0 → j'.st = .running) ∧ (j'.st = .accepted → j'.fail = none) ∧
       (∀ e, j'.fail = some e → e.cause = 0x21)) ∧
     (∀ h, j.d = .tile h ∨ j.a = .tile h → (s.tileOf h).isSome = true → t.holdsTile (.job s.nextId) h = true) ∧
     (∀ tk, let names (v : View) : Nat := match v with
         | .tile h => if s.tileOf h = some tk then 1 else 0
         | _ => 0
       (t.tile tk).pin = (s.tile tk).pin + names j.a + if j.op = .cpyt ∧ j.dir = true then names j.d else 0) ∧
     t.ctxs = s.ctxs ∧ t.tasks = s.tasks ∧ t.sems = s.sems ∧ t.qs = s.qs ∧ t.mgmt = s.mgmt)

/-- R39: an instruction of a masked feature raises 0x59 with the feature's bit number and has no effect: the FP8 types (1),
2-bit integers (2), `mma3` (3), `gmm` (4), `bsmm` (5), streams and rules (6), `cpym` (7), a copy to a peer (9). With HOSTQ
(8) masked an access to a page of host memory is refused with 0x2B (R217). -/
def Obligations.MaskedFeatures : Prop :=
  ∀ (q : Seqn) (y : Sync) (s : State), s.me.passed = none →
    let off (n : Nat) (i : Instr) : Prop := s.feature n = false → exec i s = .next (s.raises i (exc 0x59 n))
    let fp8 (t : BitVec 4) : Prop := t = 9 ∨ t = 10
    let int (p : BitVec 8) : Prop := p.getLsbD 3 = false ∧ fTy p < 12 ∧ plFloat (fTy p) = false ∧ p.toNat % 8 < 5
    let float (p : BitVec 8) : Prop := p.getLsbD 3 = false ∧ fTy p < 12 ∧ plFloat (fTy p) = true ∧ p.toNat % 8 < 5 ∧
      p.toNat % 8 ≠ 0 ∧ p.toNat % 8 ≠ 2
    (∀ o : VldO, fp8 o.t → off 1 (.vld q o)) ∧ (∀ o : VstO, fp8 o.t → off 1 (.vst q o)) ∧ (∀ o : VgatO, fp8 o.t → off 1 (.vgat q o)) ∧
    (∀ o : VsctO, fp8 o.t → off 1 (.vsct q o)) ∧ (∀ o : VldlO, fp8 o.t → off 1 (.vldl q o) ∧ off 1 (.vstl q o)) ∧
    (∀ o : VcvtO, fp8 o.t ∨ fp8 o.dt → off 1 (.vcvt q o)) ∧ (∀ o : VbcO, fp8 o.t → off 1 (.vbc q o)) ∧
    (∀ o : VinsO, fp8 o.t → off 1 (.vins q o) ∧ off 1 (.vext q o)) ∧ (∀ o : AdrnO, o.kd ≠ 5 → fp8 o.dt → off 1 (.adrn q y o)) ∧
    (∀ o : LnopO, o.kd ≠ 5 → o.ka ≠ 5 → o.kb ≠ 5 → fp8 o.t ∨ fp8 o.dt → off 1 (.lnop q y o)) ∧
    (∀ o : CpyO, o.c.kd ≠ 5 → o.c.ka ≠ 5 → o.c.kd ≠ 7 → o.c.cv ≠ 0 → o.c.et = 8 ∨ o.c.et = 9 → off 1 (.cpy q y o)) ∧
    (∀ (o : CpytO) (t : Tensor) (s1 : State), y.wst = 0 → o.c.kd.toNat < 5 → o.c.ka ≠ 5 → o.c.cv = 1 → (s.me.reg o.c.a).toNat < 65536 →
      tensorM (s.me.reg o.c.a).toNat s = .ok (t, s1) → s1.mgmt = s.mgmt → t.etype = 8 ∨ t.etype = 9 → off 1 (.cpyt q y o)) ∧
    (∀ o : FieldO, y.wst = 0 → o.ka ≠ 5 → o.kb ≠ 5 →
      (float o.pa → float o.pb → fTy o.pa = 8 ∨ fTy o.pa = 9 ∨ fTy o.pb = 8 ∨ fTy o.pb = 9 → off 1 (.mma q y o)) ∧
      (int o.pa → int o.pb → o.pa.toNat % 8 = 0 ∨ o.pb.toNat % 8 = 0 → off 2 (.mma q y o) ∧ off 2 (.mmaq q y o))) ∧
    (∀ o, off 3 (.mma3 q y o)) ∧ (∀ o, off 4 (.gmm q y o)) ∧ (∀ o, off 5 (.bsmm q y o)) ∧
    (∀ o, off 6 (.sopen q o)) ∧ (∀ o, off 6 (.slput q o)) ∧ (∀ o, off 6 (.sleos q o)) ∧ (∀ o, off 6 (.pump q o)) ∧
    (∀ o, off 6 (.rsyn q o)) ∧ (∀ o : RqryO, o.kp = false → off 6 (.rqry q o)) ∧ (∀ o : RresO, o.kp = false → off 6 (.rres q o)) ∧
    (∀ o : RruleO, o.kp = false → off 6 (.rskp q o) ∧ off 6 (.rrev q o)) ∧
    (∀ o : LnopO, o.kd = 5 ∨ o.ka = 5 ∨ o.kb = 5 → off 6 (.lnop q y o)) ∧ (∀ o : FieldO, o.ka = 5 ∨ o.kb = 5 → off 6 (.mma q y o) ∧ off 6 (.mmaq q y o)) ∧
    (∀ o : ScaccO, o.ka = 5 ∨ o.kb = 5 → off 6 (.scacc q y o)) ∧ (∀ o : CpyO, o.c.kd = 5 ∨ o.c.ka = 5 → off 6 (.cpy q y o)) ∧
    (∀ o : CpymO, o.c.kd ≠ 5 → o.c.ka ≠ 5 → off 7 (.cpym q y o)) ∧
    (∀ o : CpyO, o.c.kd = 7 → o.c.ka ≠ 5 → off 9 (.cpy q y o)) ∧
    (∀ (p base : Nat) (a : Word), let e := Mem.readN s.mem (base + 8 * (a.toNat / 2 ^ 16 % 2 ^ 5)) 8
      s.feature 8 = false → s.granted p base 256 = true → bit e 0 = true → entBad e 16 = false → bit e 1 = true → bit e 63 = true →
      bits e 7 6 ≠ 1 → s.walkFrom p a [(16, 5)] base = .error (exc 0x2B (entAddr e + a.toNat % 2 ^ 16)))

/-- R135, R139, R145, R147 to R151, R428 to R430: `talloc` of a request that the pool grants, `tcmt`, `tabt`, `tcon`, `tts`
and `tinf` (which reads a header whether or not its tile is under a move: log entry 39); and the tile that a grant makes:
ALLOC, its reads all remaining, one hold, the next generation, pages that no other tile holds. -/
def Obligations.TileInstructions : Prop :=
  (∀ (q : Seqn) (s s1 : State) (tk : Nat),
     let c := s.me
     let core := s.cur / 4
     (∀ (o : TallocO) (v : Word), immZ o.p o.imm s = .ok (v, s1) → s1.cur = s.cur → let c := s1.me
       o.lvl ≠ 3 → 1 ≤ v.toNat % 65536 → v.toNat % 65536 ≤ 4095 →
       (o.lvl = 1 → (c.reg o.a).toNat < 12) →
       let pool := if o.lvl = 0 then core else if o.lvl = 1 then core / 12 * 12 + (c.reg o.a).toNat else 576 + core / 144
       let n := o.pgm1.toNat + 1
       n ≤ (s1.quota pool c.part).c →
       let r := s1.joinFifo c.part pool n
       r.1.mayGrant r.2 = true → c.stall ≠ some .alloc →
       let x := ({ r.1 with reqs := r.1.reqs.filter (· != r.2) } : State).allocTile pool o.lvl.toNat c.part n (v.toNat % 65536)
         (if c.stamp = 0 then s1.dtime else c.stamp) (.task c.task) (taskOwner c.task) (.task c.task)
       exec (.talloc q o) s = .next (s.retired (.talloc q o) (x.1.regs fun c =>
         { c.setH o.d x.2 with region := if c.direct then c.region else c.region ++ [x.2] }))) ∧
     (∀ o : A1, let h := c.hreg o.a
       ownTile h true s = .ok (tk, s) →
       (c.direct = true → exec (.tcmt q o) s = .next (s.retired (.tcmt q o) (State.work (s.commitTile h)))) ∧
       exec (.tabt q o) s = .next (s.retired (.tabt q o) (State.work (andThen (s.freeUncommitted h) fun s =>
         (s.dropHold (.task (s.ctx s.cur).task) h false, []))))) ∧
     (∀ o : AB, ownTile (c.hreg o.a) true s = .ok (tk, s) →
       exec (.tts q o) s = .next (s.retired (.tts q o) (s.modTile tk fun t => { t with stamp := c.reg o.b }))) ∧
     (∀ (o : TconO) (v : Word), immZ o.p o.imm s = .ok (v, s1) → s1.cur = s.cur →
       let h := s1.me.hreg o.a
       let n := v.toNat % 65536
       1 ≤ n → n ≤ 4095 → h ≠ 0 → s1.tileOf h = some tk → reachable tk core = true →
       (s1.tile tk).carry = false → (s1.tile tk).moving = false → (s1.tile tk).st ≠ .alloc → n ≤ (s1.tile tk).rem →
       ordered (s1.tileRng tk false) s1 = .ok ((), s1) → s1.me.direct = true →
       exec (.tcon q o) s = .next (s.retired (.tcon q o) ((s1.modTile tk fun t => { t with rem := t.rem - n }).settle tk))) ∧
     (∀ o : TinfO, let h := c.hreg o.a
       h ≠ 0 →
       (s.tileOf h = none → exec (.tinf q o) s = .next (s.retired (.tinf q o) (s.regs fun c => c.setReg o.d 0))) ∧
       (s.tileOf h = some tk → reachable tk core = true → (s.tile tk).carry = true → c.passed = none →
         exec (.tinf q o) s = .next (s.raises (.tinf q o) (exc 0x45 h.toNat))) ∧
       (s.tileOf h = some tk → reachable tk core = true → (s.tile tk).carry = false → ordered (s.tileRng tk false) s = .ok ((), s) →
         let t := s.tile tk
         let word_ (n : Nat) : Nat := match n with
           | 0 => t.st.code + t.part * 2 ^ 8 + ((if t.carry then 1 else 0) + (if t.slice then 2 else 0) + (if t.moving then 4 else 0) +
               (if s.tilePoisoned tk then 8 else 0)) * 2 ^ 16 + t.pg * 2 ^ 24 + t.gen * 2 ^ 32 + t.decl * 2 ^ 48
           | 1 => t.rem + t.rsv * 2 ^ 16 + t.hold * 2 ^ 32 + t.pin * 2 ^ 48
           | 2 => t.ownerW.toNat + t.abn * 2 ^ 32
           | _ => t.stamp.toNat
         o.sel.toNat < 4 → exec (.tinf q o) s = .next (s.retired (.tinf q o) (s.regs fun c =>
           c.setReg o.d (BitVec.ofNat 64 (word_ o.sel.toNat))))) ∧
       (s.tileOf h = some tk → reachable tk core = true → (s.tile tk).carry = false → ordered (s.tileRng tk false) s = .ok ((), s) →
         exec (.tinf q o) s = .next (s.retired (.tinf q o) (s.regs fun c =>
           c.setReg o.d (BitVec.ofNat 64 (s.header tk o.sel.toNat))))))) ∧
  (∀ (s : State) (pool lvl p n decl : Nat) (stamp : Word) (own : Owner) (ow : BitVec 32) (by_ : Holder),
     let live := s.tilesIn pool
     let taken := live.flatMap fun x => x.2.pmap.take x.2.pg
     ((List.range (s.poolPages pool)).any fun i => !live.any fun x => x.1 = pool * 8192 + i) = true →
     n ≤ ((List.range (s.poolPages pool)).filter fun i => !taken.contains i).length →
     let r := s.allocTile pool lvl p n decl stamp own ow by_
     ∃ slot, slot < s.poolPages pool ∧ (∀ x ∈ live, x.1 ≠ pool * 8192 + slot) ∧
       let t := r.1.tile (pool * 8192 + slot)
       t.gen = (if (s.tile (pool * 8192 + slot)).gen = 2047 then 1 else (s.tile (pool * 8192 + slot)).gen + 1) ∧
       r.2 = mkHandle lvl pool slot t.gen ∧ t.st = .alloc ∧ t.part = p ∧ t.pg = n ∧ t.decl = decl ∧ t.rem = decl ∧ t.rsv = 0 ∧
       t.hold = 1 ∧ t.pin = 0 ∧ t.abn = 0 ∧ t.stamp = stamp ∧ t.owner = own ∧ t.pmap.length = n ∧ t.pmap.Nodup ∧
       (∀ g ∈ t.pmap, g < s.poolPages pool ∧ g ∉ taken) ∧ (by_, r.2) ∈ r.1.holds ∧
       r.1.ctxs = s.ctxs ∧ r.1.tasks = s.tasks ∧ ∀ k, k ≠ pool * 8192 + slot → r.1.tile k = s.tile k)

/-- R166 to R168, R176, R431 to R433: `sopen`, `slput`, `sleos` and `pump`; a committed slice becomes the next of its
stream, and every rule and storer that reads it holds its tile; a storer also takes holds on the slices that are already
committed (log entry 37). -/
def Obligations.StreamInstructions : Prop :=
  (∀ (q : Seqn) (s s1 s2 : State), s.feature 6 = true →
     let c := s.me
     let p := c.part
     (∀ o : SopenO, c.reg o.a = 0 →
       exec (.sopen q o) s = .next (s.retired (.sopen q o) (s.regs fun c => { c with f := SMap.del c.f o.d.toNat }))) ∧
     (∀ (o : SopenO) (bs : List Byte) (b : Binding) (t : Tensor), c.reg o.a ≠ 0 → (c.reg o.a).toNat % 32 = 0 →
       gvLoad (c.reg o.a) 32 s = .ok (bs, s1) → s1.cur = s.cur → bindingBad (leNat bs) = false → bindingOf (leNat bs) = some b →
       SMap.get? s1.me.f o.d.toNat = none → tensorM b.tid.toNat s1 = .ok (t, s2) → t.isOpen = true →
       s2.cur = s.cur → exec (.sopen q o) s = .next (s.retired (.sopen q o) ((s2.streamFor s1.me.part b.tid.toNat t).regs fun c =>
         { c with f := SMap.put c.f o.d.toNat { b with sext := BitVec.ofNat 64 t.sext } }))) ∧
     (∀ (o : SlputO) (b : Binding) (tk : Nat) (e : Tensor), let h := c.hreg o.b
       let tid := b.tid.toNat
       SMap.get? c.f o.a.toNat = some b → b.out = true → ownTile h true s = .ok (tk, s) → entryM tid s = .ok (e, s1) → s1.cur = s.cur →
       let k := if o.nx then (s1.stream p tid).next else (c.reg o.d).toNat
       e.sliceBytes ≤ (s1.tile tk).pg * 2048 → (s1.stream p tid).eosx = none → k = (s1.stream p tid).next →
       s1.holdsFault p tid k h = none → s1.me.direct = true →
       exec (.slput q o) s = .next (s.retired (.slput q o) (State.work (s1.commitSlice p tid k h)))) ∧
     (∀ (o : A1) (b : Binding), SMap.get? c.f o.a.toNat = some b → b.out = true → (s.stream p b.tid.toNat).eosx = none →
       c.direct = true → exec (.sleos q o) s = .next (s.retired (.sleos q o) (State.work (s.commitEos p b.tid.toNat)))) ∧
     (∀ (o : PumpO) (b : Binding) (t e : Tensor) (idx : Nat), o.dir = false → SMap.get? c.f o.a.toNat = some b → b.out = true →
       let die := s.cur / 4 / 144
       let tid := (c.reg o.b).toNat
       tid < 65536 → tensorM tid s = .ok (t, s1) → t.isOpen = true → t.ttab ≠ 0 → entryM b.tid.toNat s1 = .ok (e, s2) → s2.cur = s.cur →
       t.sliceBytes = e.sliceBytes → idx < 256 → idx ∉ s2.subsOf die true → (∀ i, i < idx → i ∈ s2.subsOf die true) →
       s2.me.direct = true →
       let s3 := (s2.streamFor p b.tid.toNat e).streamFor p tid t
       exec (.pump q o) s = .next (s.retired (.pump q o) { s3 with
         subs := SMap.put s3.subs (die * 512 + idx) {
           loader := true, die := die, idx := idx, core := s.cur / 4, part := p, src := tid, dst := b.tid.toNat, lvl := b.lvl.toNat,
           pg := b.pg.toNat, rds := b.rds.toNat, pos := if b.start = 0xFFFFFFFFFFFF then t.stored else b.start.toNat, grant := none,
           retry := none, told := none } })) ∧
     (∀ (o : PumpO) (b : Binding) (t e : Tensor) (idx : Nat), o.dir = true → SMap.get? c.f o.a.toNat = some b → b.out = false →
       let die := s.cur / 4 / 144
       let tid := b.tid.toNat
       tensorM tid s = .ok (t, s1) → t.isOpen = true → t.ttab ≠ 0 → entryM tid s1 = .ok (e, s2) → s2.cur = s.cur →
       idx < 256 → idx ∉ s2.subsOf die false → (∀ i, i < idx → i ∈ s2.subsOf die false) → s2.me.direct = true →
       let s3 := (s2.streamFor p tid e).streamFor p tid t
       let key := die * 512 + 256 + idx
       let pos := if b.start = 0xFFFFFFFFFFFF then s3.streamBase p tid else b.start.toNat
       let s4 : State := { s3 with
         subs := SMap.put s3.subs key {
           loader := false, die := die, idx := idx, core := s.cur / 4, part := p, src := tid, dst := tid, lvl := b.lvl.toNat,
           pg := b.pg.toNat, rds := b.rds.toNat, pos := pos, grant := none, retry := none, told := none } }
       ∀ s5, (s4.stream p tid).slices.foldlM (fun s x =>
           if pos ≤ x.1 then s.holdOr (.storer key) x.2 else .ok s) s4 = .ok s5 →
         exec (.pump q o) s = .next (s.retired (.pump q o) s5))) ∧
  (∀ (s : State) (p tid k : Nat) (h : BitVec 32), let t := (s.commitSlice p tid k h).1
     t.stream p tid = { s.stream p tid with next := k + 1, slices := SMap.put (s.stream p tid).slices k h, used := true } ∧
     (∀ tk, s.tileOf h = some tk → (s.tile tk).st = .alloc →
       (t.tile tk).st = .committed ∧ (t.tile tk).slice = true ∧ (t.tile tk).strm = tid ∧ (t.tile tk).slidx = k ∧
       (t.tile tk).commitAt = s.dtime.toNat) ∧
     (∀ x ∈ s.subs, x.2.loader = false → x.2.part = p → x.2.src = tid → x.2.pos ≤ k →
       (∀ tk, s.tileOf h = some tk → (t.tile tk).hold < 65535) → (s.tileOf h).isSome = true → t.holdsTile (.storer x.1) h = true) ∧
     (∀ o ∈ s.ruleOwners p, ∀ x ∈ s.rulesOf o, x.2.reads tid = true → x.2.cur ≤ k →
       (∀ tk, s.tileOf h = some tk → (t.tile tk).hold < 65535) → (s.tileOf h).isSome = true → t.holdsTile (.rule o x.1) h = true) ∧
     t.ctxs = s.ctxs ∧ t.mem = s.mem ∧ t.tasks = s.tasks)

/-- R434 to R438: `rqry` reads a rule's record or the tile of its next slice, `rres` arms a FAULTED rule again, `rskp`
passes its slice once its checks have passed, and waits while a tile of it moves to another pool (R149); `rrev` ends a rule,
and waits likewise; `rsyn` returns once the rule has passed a slice or is gone. The look at a rule and the store of its
record are accesses of the context where a keeper is saved (R218, R227). -/
def Obligations.RuleInstructions : Prop :=
  ∀ (q : Seqn) (s s1 s2 s3 s4 : State), s.feature 6 = true →
    let c := s.me
    (∀ (o : RqryO) (own : RuleOwner) (k : Nat) (r : Rule), (o.kp = true → c.ph = true) →
      ruleNamed (.rqry q o) o.a o.kp o.ks s = .ok ((own, k), s) → ruleThere o.kp own k s = .ok (r, s1) → s1.cur = s.cur →
      (o.inp = false → exec (.rqry q o) s = .next (s.retired (.rqry q o) (s1.regs fun c =>
        c.setReg o.d (BitVec.ofNat 64 (ruleNat r / 2 ^ (64 * o.sel.toNat)))))) ∧
      (∀ h, o.inp = true → o.sel.toNat < 2 →
        let t := if o.sel = 0 then r.tida else r.tidb
        (t = 0xFFFF → h = 0) →
        (t ≠ 0xFFFF → SMap.get? (s1.stream (s1.partOf own) t.toNat).slices r.cur = some h ∧ s1.holdsTile (.rule own k) h = true) →
        exec (.rqry q o) s = .next (s.retired (.rqry q o) (s1.regs fun c => c.setReg o.d (h.setWidth 64))))) ∧
    (∀ (o : RresO) (own : RuleOwner) (k : Nat) (r : Rule), (o.kp = true → c.ph = true) → (o.fw = true → o.kp = true) →
      o.sub ≠ 3 →
      ruleNamed (.rres q o) o.a o.kp o.ks s = .ok ((own, k), s) → ruleThere o.kp own k s = .ok (r, s1) → s1.cur = s.cur →
      r.st = .faulted → let c := s1.me
      (o.fw = true → (c.reg o.d).toNat % 8 < 5) →
      (o.sub ≠ 0 → (if o.sub = 1 then r.tida else r.tidb) ≠ 0xFFFF) →
      (if o.sub = 0 then pure () else substitute (c.hreg o.b) (if o.sub = 1 then r.tida else r.tidb) (r.fslot (o.sub.toNat - 1))
        r.cur : M Unit) s1 = .ok ((), s2) →
      ruleStore own k s2 = .ok ((), s3) →
      (match own with
        | .keeper id => if o.fw then setKeeperFpc id (c.reg o.d &&& 0x1F07) else pure ()
        | .task _ => pure () : M Unit) s3 = .ok ((), s4) →
      exec (.rres q o) s = .next (s.retired (.rres q o) (s4.setRules own (SMap.put (s4.rulesOf own) k
        { r with st := .armed, fcause := 0, sub := if o.sub = 0 then 0 else c.hreg o.b, subOp := o.sub })))) ∧
    (∀ (o : RruleO) (own : RuleOwner) (k : Nat) (r : Rule), (o.kp = true → c.ph = true) →
      (ruleNamed (.rskp q o) o.a o.kp o.ks s = .ok ((own, k), s) → ruleThere o.kp own k s = .ok (r, s1) → r.st = .faulted →
        (r.tidd = 0xFFFF ∨ r.rslt ≠ 0) → ∀ n,
        (if r.tidd = 0xFFFF then pure 0 else do pure (← entryM r.tidd.toNat).sliceBytes : M Nat) s1 = .ok (n, s2) →
        ((∃ h ∈ s2.sliceTiles own r, s2.viewMoving (.tile h) = true) → exec (.rskp q o) s = .next (s.block s.cur .engine)) ∧
        ((∀ h ∈ s2.sliceTiles own r, s2.viewMoving (.tile h) = false) → s2.resultFault own r n = none →
          s2.inputFault (s2.inputTiles (s2.partOf own) r) = none → ruleStore own k s2 = .ok ((), s3) → s3.me.direct = true →
          exec (.rskp q o) s = .next (s.retired (.rskp q o) (State.work (s3.passSlice own k))))) ∧
      (ruleNamed (.rrev q o) o.a o.kp o.ks s = .ok ((own, k), s) → ruleThere o.kp own k s = .ok (r, s1) → r.st ≠ .firing →
        (s1.ruleMoves r = true → exec (.rrev q o) s = .next (s.block s.cur .engine)) ∧
        (s1.ruleMoves r = false → ruleStore own k s1 = .ok ((), s2) → s2.me.direct = true →
          exec (.rrev q o) s = .next (s.retired (.rrev q o) (State.work (s2.endRule own k)))))) ∧
    (∀ o : AB, (SMap.get? c.k o.a.toNat = none → exec (.rsyn q o) s = .next (s.retired (.rsyn q o) s)) ∧
      (∀ r, SMap.get? c.k o.a.toNat = some r → (c.reg o.b).toNat < r.cur → exec (.rsyn q o) s = .next (s.retired (.rsyn q o) s)) ∧
      (∀ r, SMap.get? c.k o.a.toNat = some r → r.cur ≤ (c.reg o.b).toNat →
        exec (.rsyn q o) s = .next (s.block s.cur (.rsyn o.a.toNat (c.reg o.b).toNat))))

/-- R439, R440: in DIRECT mode `spawn` and `spawng` create what their descriptor says and return the name of the task; with
RG the task also waits on a future. -/
def Obligations.Spawns : Prop :=
  ∀ (q : Seqn) (y : Sync) (o : SpawnO) (s s0 s1 s2 s3 : State) (bs : List Byte) (t : Nat) (work more : List Work),
    s.syncWait s.cur (some y) = some s0 → s0.me.direct = true → (s0.me.reg o.a).toNat % 256 = 0 →
    gvLoad (s0.me.reg o.a) 256 s0 = .ok (bs, s1) → s1.cur = s.cur →
    ∀ gang : Bool,
      let i := if gang then Instr.spawng q y o else .spawn q y o
      let c := s1.me
      let w : Spawner := {
        part := c.part, die := s1.cur / 4 / 144, core := s1.cur / 4, ptb := c.ptb, stamp := c.stamp,
        launch := (s1.task c.task).launch, gang := gang, root := false, prio := 0, group := 0,
        dw := dw0 i }
      (s1.descLook w (s0.me.reg o.a) bs).create w (s0.me.reg o.a) bs = .ok s2 t work →
      s2.cur = s.cur → (if o.rg then register t (s0.me.reg o.b) else pure [] : M (List Work)) s2 = .ok (more, s3) → s3.cur = s.cur →
      let name := BitVec.ofNat 64 (t / 65536 * 2 ^ 32 + (s2.task t).gen.toNat * 2 ^ 16 + t % 65536)
      exec i s = .next (s.retired i (State.work ((s3.regs fun c => c.setReg o.d name), more ++ work)))

/-- R25, R27 to R32, R38, R47, R69: what boots after a module reset and what stays; the checks of an image; the feature
lock, which masks FACCEPT, counts EPOCH up and in stage 3 enables queue 0, and after which no later write acts. What a reset
keeps is log entry 20, the order of checks of an image log entry 25, and the reset of a queue log entry 28. -/
def Obligations.SecureBoot : Prop :=
  (∀ s : State,
     (∃ t, exec .moduleReset s = .next t ∧
       (let good (ty : Nat) : Prop := ∃ ab i, ab < 2 ∧ SMap.get? s.sec.flash (ty * 2 + ab) = some i ∧ s.sec.verify ty i = 0
        (¬good 1 → t.stage = 15) ∧ ((∀ ty, 1 ≤ ty → ty ≤ 5 → good ty) → t.stage = 3) ∧
        (∀ ty, good 1 → 2 ≤ ty → ty ≤ 5 → ¬good ty → (good 6 → t.stage = 4) ∧ (¬good 6 → t.stage = 15))) ∧
       t.ctxs = [] ∧ t.tasks = [] ∧ t.parts = [] ∧ t.tiles = [] ∧ t.jobs = [] ∧ t.pithead = [] ∧ t.bclk = 0 ∧
       t.mgmt.flock = false ∧ t.mgmt.faccept = 0 ∧ t.mgmt.dtset = false ∧ t.mgmt.attst = 0 ∧
       t.mgmt.epoch = s.mgmt.epoch ∧ t.mgmt.modsn = s.mgmt.modsn ∧ t.mgmt.leaf = s.mgmt.leaf ∧ t.sec.flash = s.sec.flash ∧
       t.sec.rollback = s.sec.rollback ∧ t.sec.ecdsaFuse = s.sec.ecdsaFuse ∧ t.sec.lmsFuse = s.sec.lmsFuse ∧
       t.sec.ecdsaRevoked = s.sec.ecdsaRevoked ∧ t.sec.lmsRevoked = s.sec.lmsRevoked ∧
       ∀ x ∈ t.mem, x ∈ s.mem ∧ hostKey 0 ≤ x.1 ∧ x.1 < lsKey 0 0) ∧
     (∀ v : Word, (v.toNat % 2 ^ 16 = 0x5254 → exec (.mgrst v) s = exec .moduleReset s) ∧
       (v.toNat % 2 ^ 16 ≠ 0x5254 → exec (.mgrst v) s = .next s)) ∧
     (∀ ty svn d, SMap.get? s.sec.running ty = some (svn, d) → exec (.antiRollbackAdvance ty) s = .next { s with
       sec := { s.sec with rollback := SMap.put s.sec.rollback ty (max svn (SMap.getD s.sec.rollback ty 0)) } }) ∧
     (∀ ty (i : Image), s.sec.verify ty i = 0 ↔
       i.magic = 0x57465A4C ∧ i.hver = 1 ∧ i.itype.toNat = ty ∧ i.eks.toNat < 4 ∧ i.lks.toNat < 4 ∧
       i.rsvd = 0 ∧ i.rsvd2 = 0 ∧ i.bdig = Config.sha384 (i.body.take i.blen.toNat) ∧
       Config.ecdsaVerify (SMap.getD s.sec.ecdsaFuse i.eks.toNat 0) (Config.sha384 i.head) (leBytes 96 i.esig.toNat) = true ∧
       Config.lmsVerify (SMap.getD s.sec.lmsFuse i.lks.toNat 0) i.head (leBytes 1772 i.lsig.toNat) = true ∧
       i.eks.toNat ∉ s.sec.ecdsaRevoked ∧ i.lks.toNat ∉ s.sec.lmsRevoked ∧ SMap.getD s.sec.rollback ty 0 ≤ i.svn.toNat)) ∧
  (∀ (s : State) (v : Word),
     (s.MemWf → bit v.toNat 0 = true → s.mgmt.flock = false → s.mgmt.epoch ≠ 0xFFFFFF → s.stage = 3 ∨ s.stage = 4 →
       ∃ t, exec (.flock v) s = .next t ∧
         t.mgmt = { s.mgmt with faccept := (s.mgmt.faccept &&& s.mgmt.foffer) ||| 1, flock := true, epoch := s.mgmt.epoch + 1 } ∧
         (let r := s.qcbField 0 0x10 1
          s.stage = 3 → s.qcbField 0 0x13 13 = 0 → s.qcbField 0 0x20 96 = 0 → s.qcbField 0 0x98 104 = 0 → 6 ≤ r → r ≤ 16 →
           s.qcbField 0 0x08 8 % 4096 = 0 → (bit (s.qcbField 0 0x08 8) 63 = true → s.mgmt.faccept.getLsbD 8 = true ∧
             s.mgmt.foffer.getLsbD 8 = true) →
           t.qstate 0 = 1 ∧ t.qcbField 0 0 8 = 0 ∧ t.qcbField 0 0x80 8 = 0 ∧ t.owners 0 = [] ∧ t.eng 0 = QEng.empty) ∧
         (s.stage = 4 → t.qstate 0 = 0) ∧ t.ctxs = s.ctxs ∧ t.tasks = s.tasks ∧ t.parts = s.parts) ∧
     (s.mgmt.flock = true → exec (.flock v) s = .next s) ∧
     (s.mgmt.flock = true ∨ s.mgmt.dtset = true → exec (.dtset v) s = .next s) ∧
     (s.mgmt.flock = false → s.mgmt.dtset = false → s.stage ≠ 15 →
       exec (.dtset v) s = .next { s with mgmt := { s.mgmt with dtime := v, dtset := true } }))

/-- R14, R15, R34 to R36, R41 to R43, R69, R244: throttling and its end, the shutdown at 115 °C, an access of the host's
port, the attestation report, the registers that the host writes, queue 0 disabled, enabled and reset, the split of a die's
memory, and the scrubbers. That a halted module only resets is log entry 19, that the watts and degrees come as operands of
their rows log entry 12; what the host's port answers in STAGE 15 (log entry 20), of poison and of memory not granted to it
(log entry 24), the order of the report's checks (log entry 25) and the samples of the split (log entry 26) are the model's
choices. -/
def Obligations.ModuleEvents : Prop :=
  ∀ s : State, let m := s.mgmt
    (∀ w t, s.power.throttled = false → 1500 ≤ w ∨ 105 ≤ t → exec (.fieldThrottleStart w t) s =
      .next (({ s with power := { s.power with throttled := true, calm := none } } : State).devEventAny 0 1 0)) ∧
    (∀ w t, s.power.throttled = false → w < 1500 → t < 105 → exec (.fieldThrottleStart w t) s = .next s) ∧
    (∀ w t since, s.power.throttled = true → s.power.calm = some since → w ≤ 1440 → t ≤ 100 → since + 10000000 ≤ m.dtime.toNat →
      exec (.fieldThrottleEnd w t) s =
        .next (({ s with power := { s.power with throttled := false, calm := none } } : State).devEventAny 0 2 0)) ∧
    (∀ w t, s.power.throttled = true → 1440 < w ∨ 100 < t →
      exec (.fieldThrottleEnd w t) s = .next { s with power := { s.power with calm := none } }) ∧
    (∀ t, 115 ≤ t → ∃ u, exec (.thermalShutdown t) s = .next u ∧ u = { s with power := { s.power with halted := true, cxlUp := false } } ∧
      ((∀ r, u.agenda ≠ .event .moduleReset :: r) → step u = .fault .halted)) ∧
    (s.power.cxlUp = true → ∀ a d : Word,
      (s.stage = 15 ∨ s.decoded a.toNat = none →
        exec (.hostCxlMemAccess false a d) s = .next { s with hostOut := s.hostOut ++ [none] }) ∧
      (s.stage ≠ 15 → ∀ x, (∀ i, i < 8 → s.decoded (a.toNat + i) = some (x + i) ∧ inHbm (x + i) = true) →
        (s.hostBarred x = true →
          exec (.hostCxlMemAccess true a d) s = .next (s.devEventAny 0 7 (word x)) ∧
          exec (.hostCxlMemAccess false a d) s = .next ((s.devEventAny 0 7 (word x)).answer (some (BitVec.allOnes 64)))) ∧
        ((∀ i, i < 8 → s.hostBarred (x + i) = false) →
          exec (.hostCxlMemAccess true a d) s = .next (s.store x (leBytes 8 d.toNat)) ∧
          ((∀ i, i < 8 → x + i ∉ s.poison) → exec (.hostCxlMemAccess false a d) s =
            .next { s with hostOut := s.hostOut ++ [some (word (Mem.readN s.mem x 8))] })))) ∧
    (s.stage ≠ 15 → m.attst ≠ 1 → exec (.attgo 1) s = .next { s with mgmt := { m with attst := 1 } }) ∧
    (m.attst = 1 → m.attaddr.toNat % 4096 = 0 → inHbm m.attaddr.toNat = true → m.leaf < 2 ^ 23 →
      (∀ i, i < 32 → m.attaddr.toNat + i ∉ s.poison) →
      let h := leBytes 4 0x54415A4C ++ leBytes 4 1 ++ Mem.readL s.mem m.attaddr.toNat 32 ++ leBytes 8 s.fver.toNat ++
        leBytes 16 (if m.flock then m.faccept.toNat else 0) ++ leBytes 8 m.dtime.toNat ++ leBytes 4 (m.leaf / 2 ^ 20) ++
        leBytes 4 (m.leaf % 2 ^ 20) ++ [1, 2, 3, 4, 5, 6].flatMap (fun t => leBytes 48 (match SMap.get? s.sec.running t with
          | some x => x.2.toNat
          | none => 0)) ++ leBytes 48 (Config.sha384 (Config.partitionConfig s.freeCtr)).toNat
      exec .attestationReport s = .next { s.store m.attaddr.toNat (h ++ fit 96 (Config.ecdsaSign (Config.sha384 h)) ++
          fit 1772 (Config.lmsSign (m.leaf / 2 ^ 20) (m.leaf % 2 ^ 20) h)) with
        mgmt := { m with leaf := m.leaf + 1, attst := 2 }, freeCtr := s.freeCtr + 1 }) ∧
    (m.attst = 1 → m.attaddr.toNat % 4096 = 0 → inHbm m.attaddr.toNat = true → 2 ^ 23 ≤ m.leaf →
      exec .attestationReport s = .next { s with mgmt := { m with attst := 3 } }) ∧
    (s.power.cxlUp = true → s.stage ≠ 15 → ∀ v : Word,
      exec (.registerWrite 0x0008 v) s = exec (.mgrst v) s ∧ exec (.registerWrite 0x0128 v) s = exec (.flock v) s ∧
      exec (.registerWrite 0x0140 v) s = exec (.dtset v) s ∧ exec (.registerWrite 0x0188 v) s = exec (.attgo v) s ∧
      exec (.registerWrite 0x0220 v) s = .next { s with mgmt := { m with evridx := v } } ∧
      (m.attst ≠ 1 → exec (.registerWrite 0x0180 v) s = .next { s with mgmt := { m with attaddr := v } }) ∧
      (v = 0 → exec (.registerWrite 0x0228 v) s = .next { s with mgmt := { m with evdrop := 0 } }) ∧
      (m.flock = false →
        exec (.registerWrite 0x0200 v) s = .next { s with mgmt := { m with qtbase := word (v.toNat / 2 ^ 20 * 2 ^ 20) } } ∧
        exec (.registerWrite 0x0208 v) s = .next { s with mgmt := { m with evbase := word (v.toNat / 2 ^ 12 * 2 ^ 12) } } ∧
        exec (.registerWrite 0x0210 v) s = .next { s with mgmt := { m with evsize := v.setWidth 4 } }) ∧
      (m.flock = true → ∀ o ∈ [0x0118, 0x0120, 0x0200, 0x0208, 0x0210], exec (.registerWrite o v) s = .next s) ∧
      (v.toNat % 4 = 0 → exec (.registerWrite 0x0230 v) s = exec .q0Disable s) ∧
      (v.toNat % 4 = 1 → exec (.registerWrite 0x0230 v) s = exec .q0Enable s) ∧
      (v.toNat % 4 = 2 → exec (.registerWrite 0x0230 v) s = exec .q0Reset s)) ∧
    (m.flock = true →
      exec .q0Disable s = .next (s.stopQueue 0) ∧
      (s.stage = 3 → s.qstate 0 = 0 ∨ s.qstate 0 = 4 → s.qcbBad 0 = none → exec .q0Enable s = .next (s.enableQueue 0)) ∧
      (∀ t, s.qstate 0 = 0 → 6 ≤ s.qcbField 0 0x10 1 → s.qcbField 0 0x10 1 ≤ 16 → s.resetQueue 0 = .ok t →
        exec .q0Reset s = .next t)) ∧
    (∀ die hits shadow total lo hi : Nat, die < 4 → (SMap.getD s.splits die 0 + 1) * 2 ^ 20 ≤ s.bclk → 0 < total →
      s.limitsOf die = some (lo, hi) →
      let s1 : State := { s with splits := SMap.put s.splits die (SMap.getD s.splits die 0 + 1) }
      let x := s.scratchOf die
      let gain := (hits : Int) - shadow
      exec (.splitAdjust die hits shadow total) s = .next (
        if 64 * gain < total then (if x < hi then s1.setSplit die (x + 1) else s1)
        else if total ≤ 16 * gain then (if lo < x then s1.setSplit die (x - 1) else s1)
        else s1)) ∧
    (∀ die addr, s.stage ≠ 15 → die < 4 → inHbm addr = true → addr / 2 ^ 37 = die →
      exec (.patrolScrub die true addr false) s = .next (s.setRas die
        (min (s.ras die / 2 ^ 32 + 1) (2 ^ 32 - 1) * 2 ^ 32 + s.ras die % 2 ^ 32)) ∧
      exec (.patrolScrub die true addr true) s = .next (({ s with
        poison := s.poison ++ ((List.range 256).map (addr / 256 * 256 + ·)).filter fun k => !s.poison.contains k } : State).devEvent
          0x5B 3 0xFF (2 * die + addr / 256 % 2) (word addr) 0))

/-- R16, R17, R21, R22, R26: a link comes up with its four lanes sound, and what found no link before goes out; a sound flit
in sequence is taken, a bad one is retried eight times; when a link goes down, every packet that is not acknowledged goes
out again on the next alternative: its flits follow on the wire; a lost pair fails its operations with 0x5C; the rate of the
clock slews by at most 200 ppm. What of these the manual leaves open is as log entries 8 (the SRCID of events), 11 (what a
TIME packet says), 20 (what runs in which stage) and 23 (how flits carry packets, the loss of a pair) say. -/
def Obligations.LinkEvents : Prop :=
  ∀ s : State,
    let told (t : State) : Prop := ∀ n, (t.tx n).next = (s.tx n).next ∧
      (t.tx n).unacked.map (fun x => (x.1, x.2.2)) = (s.tx n).unacked.map fun x => (x.1, x.2.2)
    let sent (t : State) (n : Nat) (p : Pkt) : Prop := p.dst.toNat = n → ∀ k, t.linkTo n = some k →
      ∃ (pre post : List (Nat × Flit)) (fs : List Flit), t.net.wire = s.net.wire ++ pre ++ fs.map (fun f => (k, f)) ++ post ∧
        fs.length = ((pktBytes p).length + 239) / 240 ∧ ∀ i f, fs[i]? = some f →
          f.pay = fit 240 ((pktBytes p).drop (240 * i)) ∧ f.crcOk = true ∧ bits f.fhdr.toNat 15 12 = 0
    (∀ l, l < 16 → (s.link l).up = false → s.linksRun = true →
      (∀ lanes, lanes ≠ 0xF → exec (.linkTraining l lanes) s = .next (s.setLink l { Link.empty with bad := true })) ∧
      ∃ t, exec (.linkTraining l 0xF) s = .next t ∧ (t.link l).up = true ∧ (∀ k, k ≠ l → (t.link k).up = (s.link k).up) ∧
        (t.link l).rxSeq = 0 ∧ told t ∧ (∀ n x, x ∈ (t.tx n).unacked → (t.linkTo n).isSome = true → x.2.1.isSome = true) ∧
        (∀ n x, x ∈ (s.tx n).unacked → x.2.1 = none → sent t n x.2.2) ∧
        s.net.wire <+: t.net.wire ∧ t.ctxs = s.ctxs ∧ t.mem = s.mem) ∧
    (s.linksRun = false → ∀ l, (∀ lanes, exec (.linkTraining l lanes) s = .next s) ∧ (∀ f, exec (.flitReceive l f) s = .next s)) ∧
    (∀ l (f : Flit), l < 16 → (s.link l).up = true → s.linksRun = true →
      let x := s.link l
      let h := f.fhdr.toNat
      (f.crcOk = false ∨ bits h 15 14 = 3 ∨ bits h 13 12 ≠ 0 →
        (x.retries < 8 → exec (.flitReceive l f) s = .next (s.setLink l { x with retries := x.retries + 1 })) ∧
        (8 ≤ x.retries → exec (.flitReceive l f) s = exec (.linkDown l) s)) ∧
      (f.crcOk = true → bits h 15 14 = 0 → bits h 13 12 = 0 →
        (bits h 11 0 ≠ x.rxSeq.toNat → exec (.flitReceive l f) s = .next s) ∧
        (bits h 11 0 = x.rxSeq.toNat → x.pay = [] → f.pay.length = 240 → bits (slice f.pay 0 16) 63 52 < 224 →
          exec (.flitReceive l f) s = .next { s.fresh.2.setLink l { x with rxSeq := x.rxSeq + 1, retries := 0, pay := [] } with
            agenda := (pktArrival (pktOf f.pay (s.fresh.1 % 8))).map .event ++ s.agenda })) ∧
      (f.crcOk = true → bits h 15 14 = 2 → bits h 13 12 = 0 → bits h 11 0 = x.rxSeq.toNat → ∃ ahead delta,
        exec (.flitReceive l f) s = .next { s.fresh.2.setLink l { x with rxSeq := x.rxSeq + 1, retries := 0 } with
          agenda := .event (.time l ahead delta) :: s.agenda })) ∧
    (∀ l, (s.link l).up = true → ∃ t, exec (.linkDown l) s = .next t ∧ (t.link l).up = false ∧
      (∀ k, k ≠ l → (t.link k).up = (s.link k).up) ∧ told t ∧ (∀ n x, x ∈ (t.tx n).unacked → x.2.1 = t.linkTo n ∧ x.2.1 ≠ some l ∧ sent t n x.2.2) ∧
      s.net.wire <+: t.net.wire ∧ t.ctxs = s.ctxs) ∧
    (∀ node : BitVec 12, s.pairDue node.toNat = true → ∃ t, exec (.pairLost node) s = .next t ∧ t.tx node.toNat = Tx.empty ∧
      t.ctxs = s.ctxs ∧ ∀ x ∈ s.jobs, x.2.toPeer node = true → (t.job x.1).fail = some (exc 0x5C node.toNat)) ∧
    (∀ l ahead delta, (s.link l).up = true → s.net.source = false → s.linksRun = true → ∃ t, exec (.time l ahead delta) s = .next t ∧
      t.net.path = true ∧ (delta = 0 → t.net.ppm = 0) ∧ (delta ≠ 0 → ahead = true → 1 ≤ t.net.ppm ∧ t.net.ppm ≤ 200) ∧
      (delta ≠ 0 → ahead = false → -200 ≤ t.net.ppm ∧ t.net.ppm ≤ -1))

/-- R18 to R21: a packet for another node goes on; one that was applied before is acknowledged only; one ahead of a gap is
held; the next of its pair is applied once, marked and acknowledged, each type with its effect; a reserved one is discarded
with an event, whatever its page does; an ACK frees what it covers. What an ATOMIC computes, that packets carry their
partition, and how a RDREQ has its tag are log entries 11, 22 and 23. -/
def Obligations.PacketEvents : Prop :=
  ∀ (s : State) (p : Pkt), s.linksRun = true →
    (p.dst ≠ s.net.node → ∀ i ∈ [(1, Instr.write p), (2, .rdreq p), (3, .rdrsp p), (4, .atomic p), (5, .relflag p), (6, .qappend p),
      (7, .ack p)], p.ptype.toNat = i.1 → p.pscope.toNat < 2 ∨ i.1 = 7 → exec i.2 s = .next (s.sendPkt p)) ∧
    (p.dst = s.net.node →
     let x := s.rxOf p.src.toNat
     let ahead := (p.psn - x.mark).toNat
     let done (u : State) : State :=
       (u.setRx p.src.toNat ⟨p.psn, (u.rxOf p.src.toNat).held.filter fun y => y.psn != p.psn⟩).ackTo p.src
     let next (i : Instr) (u : State) : Prop := exec i s = .next (done u)
     (∀ i ∈ [(1, Instr.write p), (2, .rdreq p), (3, .rdrsp p), (4, .atomic p), (5, .relflag p), (6, .qappend p)],
       p.ptype.toNat = i.1 → p.pscope.toNat < 2 →
       (ahead = 0 → exec i.2 s = .next (s.ackTo p.src)) ∧
       (1 < ahead → ahead ≤ 4096 → (∀ y ∈ x.held, y.psn ≠ p.psn) →
         exec i.2 s = .next (s.setRx p.src.toNat { x with held := x.held ++ [p] }))) ∧
     (ahead = 1 → (∀ y ∈ x.held, y.psn ≠ p.psn) → p.pscope.toNat < 2 → s.pktMoving p = false →
       let a : Word := p.paddr.setWidth 64
       (∀ t, s.gvWrite p.part.toNat a (pktData p) = .ok t →
         (p.ptype = 1 → next (.write p) t) ∧ (p.ptype = 5 → next (.relflag p) t)) ∧
       (∀ e, s.gvWrite p.part.toNat a (pktData p) = .error e →
         (p.ptype = 1 → next (.write p) (s.partEventAny p.part.toNat 0 e.exc.cause.toNat 0 a))) ∧
       (p.ptype = 3 → next (.rdrsp p) s) ∧
       (∀ t b, p.ptype = 2 → (s.tx p.src.toNat).unacked.length < 4096 → s.pktRead p (p.plen.toNat + 1) = .ok (t, b) →
         next (.rdreq p) (t.sendNext p.src 3 0 (BitVec.ofNat 48 (slice p.payload 0 8)) p.part.toNat b).1) ∧
       (∀ t b, p.ptype = 4 → a.toNat % 8 = 0 → s.pktRead p 8 = .ok (t, b) →
         next (.atomic p) (t.pktWrite p (leBytes 8 (Config.peerAtomic p.payload (word (slice b 0 8))).toNat))) ∧
       (∀ t, let q := p.paddr.toNat
         let i := s.qcbField q 0 8
         let h := slice p.payload 0 8
         p.ptype = 6 → q ≠ 0 → q < 4096 → s.qstate q ≠ 0 → p.part.toNat ∈ s.owners q → s.slotMoving q i = false →
         i < s.qcbField q 0x80 8 + 2 ^ s.qcbField q 0x10 1 →
         (s.setQcb q 0 8 (i + 1)).publish q i (bits h 63 56 * 2 ^ 56 + bits h 48 40 * 2 ^ 40) (fit 56 (p.payload.drop 8)) = .ok t →
         next (.qappend p) t)) ∧
     (ahead = 1 → (∀ y ∈ x.held, y.psn ≠ p.psn) →
       p.ptype = 0 ∨ 9 ≤ p.ptype.toNat ∨ 2 ≤ p.pscope.toNat ∧ p.ptype ≠ 7 ∧ p.ptype ≠ 8 →
       next (.reservedPacketDiscard p) (s.devEventAny 1 0
         (word (p.src.toNat * 2 ^ 52 + p.dst.toNat * 2 ^ 40 + p.psn.toNat * 2 ^ 8 + p.ptype.toNat)))) ∧
     (∀ t, x.held.find? (fun y => y.psn = x.mark + 1) = some p → p.ptype = 1 → p.pscope.toNat < 2 →
       s.pktMoving p = false → s.gvWrite p.part.toNat (p.paddr.setWidth 64) (pktData p) = .ok t → next (.heldPacketApply p.src) t) ∧
     (p.ptype = 7 →
       let covers (psn : BitVec 32) : Bool := (p.psn - psn).toNat < 2 ^ 31
       let n := p.src.toNat
       let tx := { s.tx n with unacked := (s.tx n).unacked.filter fun y => !covers y.2.2.psn }
       let t : State := { s with net := { s.net with tx := SMap.put s.net.tx n tx } }
       ((∀ y ∈ s.jobs, y.2.toPeer p.src = false) → exec (.ack p) s = .next t) ∧
       (∀ id j, s.jobs = [(id, j)] → j.toPeer p.src = true →
         exec (.ack p) s = .next (State.sendOn 4096 (t.setJob id { j with psns := j.psns.filter fun y => !covers y }) id))))

/-- R49 to R58, R226, R310, R311: a valid header makes the engine take the packet, which the first failing check of R51
turns into a queue fault; a taken packet of a running queue acts by its type; at the end of a migration the new frame holds
the page and the leaf names it. That a LAUNCH whose root waits goes on in a queue disabled meanwhile, the core of a COPY
job, the limits of its LEN and of its addresses, an unknown OP of PART and the access of WAITF as a write are log entry 28. -/
def Obligations.QueuePackets : Prop :=
  (∀ (s s0 s1 : State) (q : Nat),
     (∀ b, s.qstate q = 1 → (s.eng q).taken = none → q < 4096 →
       let i := s.qcbField q 0x80 8
       let w := (List.range 8).map fun n => word (slice b (8 * n) 8)
       let lap := b2n (bit (pk w 0 8) 39)
       s.ringRead q i = .ok (s1, b) →
       (lap ≠ (i / 2 ^ s.qcbField q 0x10 1 + 1) % 2 → exec (.queueTake q) s = .next s) ∧
       (lap = (i / 2 ^ s.qcbField q 0x10 1 + 1) % 2 →
         (∀ c, s1.packetFault q i w = some c → exec (.queueTake q) s = .next (s1.queueFault q c (pkTs w))) ∧
         (s1.packetFault q i w = none → partUnknown w = false →
           exec (.queueTake q) s = .next (s1.setEng q { s1.eng q with taken := some w })))) ∧
     (∀ w, (s.eng q).taken = some w → s.qstate q = 1 →
       let p := pchk w
       let i := s.index q
       (∀ t, pkType w = 1 → (s.eng q).root = none → s.launchRoot q w = (s0, .ok (some (s1, t))) →
         let u := s1.setEng q { s1.eng q with root := some (t, (s1.task t).gen), open_ := (s1.eng q).open_ ++ [i] }
         exec (.launch q) s = .next (if u.outside t (s1.task t).gen then u else u.queueNext q)) ∧
       (∀ e, pkType w = 1 → (s.eng q).root = none → s.launchRoot q w = (s0, .error e) →
         exec (.launch q) s = .next (s0.settled q w true e.cause.toNat)) ∧
       (∀ t g, pkType w = 1 → (s.eng q).root = some (t, g) →
         exec (.launch q) s = .next (if s.outside t g then s else s.queueNext q)) ∧
       (∀ cl l, let n := pay w 16 8
         pkType w = 2 → s.clustersOf p = cl :: l → p < 8 → 1 ≤ n → n ≤ 2 ^ 40 → (s.jobsOn (cl * 12)).length < 8 →
         s.accept { Job.empty with
           core := cl * 12, part := p, op := .copy, d := .gv (word (pay w 0 8)), a := .gv (word (pay w 8 8)), len := n,
           fut := if compl w = 0 then none else some (compl w), qn := q, img := i,
           stamp := if bit (pk w 0 8) 48 then pkTs w else 0 } = .ok s1 →
         exec (.copy q) s = .next (s1.accepted q)) ∧
       (∀ x, pkType w = 3 → pay w 8 1 = 0 → s.sigMoving w = false → s.futSet p (word (pay w 0 8)) false (pay w 16 8) = .ok x →
         exec (.signalResolve q) s = .next ((State.work x).queueNext q)) ∧
       (∀ x, pkType w = 3 → pay w 8 1 = 1 → s.sigMoving w = false → s.futSet p (word (pay w 0 8)) true (pay w 16 8) = .ok x →
         exec (.signalFail q) s = .next ((State.work x).queueNext q)) ∧
       (pkType w = 3 → pay w 8 1 = 2 →
         (pay w 10 2 < 576 → s.owns p (pay w 10 2 / 12) = true →
           exec (.signalSemaphore q) s = .next ((s.semAdd (pay w 10 2) (pay w 9 1) (pay w 12 2)).queueNext q)) ∧
         (576 ≤ pay w 10 2 ∨ s.owns p (pay w 10 2 / 12) = false →
           exec (.signalSemaphore q) s = .next (s.queueFault q 0x4D (pkTs w)))) ∧
       (∀ k, pkType w = 4 → s.sigMoving w = false → s.futKey p (word (pay w 0 8)) = .ok (k, s1) → s.poisoned k 8 = false →
         let st := Mem.readN s.mem k 8 % 4
         (st = 1 → exec (.waitf q) s = .next (s1.queueNext q)) ∧
         (st = 2 → exec (.waitf q) s = .next (s1.queueFault q 0x49 (pkTs w))) ∧
         (st = 0 → exec (.waitf q) s = .next { (s1.setQcb q 0x88 1 2).setQcb q 0x90 8 (pay w 0 8) with
           futs := SMap.put s1.futs k (SMap.getD s1.futs k [] ++ [.queue q]) })) ∧
       (pkType w = 5 → ((s.eng q).open_ = [] → exec (.qbar q) s = .next (s.settled q w false 0)) ∧
         ((s.eng q).open_ ≠ [] → exec (.qbar q) s = .next (s.setQcb q 0x88 1 3))) ∧
       (pkType w = 6 → p < 8 → s.objsMoving p = false → s.findObj p (fun o => o.text.toNat = pay w 0 8) = none →
         exec (.unload q) s = .next ((s.readObjs p none).settled q w true 0x58)) ∧
       (∀ o, pkType w = 6 → p < 8 → s.objsMoving p = false → s.findObj p (fun o => o.text.toNat = pay w 0 8) = some o →
         let r := s.readObjs p (some o.idx)
         r.referring p o = [] →
         (pay w 8 1 = 0 → r.lref p o.idx = 0 → exec (.unload q) s = .next ((r.unloaded p o 0).settled q w false 0)) ∧
         (pay w 8 1 = 0 → 0 < r.lref p o.idx → exec (.unload q) s = .next (r.settled q w false 1)) ∧
         (pay w 8 1 ≠ 0 → 0 < r.lref p o.idx → exec (.unload q) s = .next ((r.unloaded p o 2).settled q w false 0))) ∧
       (∀ l : Leaf, let a := word (pay w 0 8)
         let new := pay w 8 8
         pkType w = 7 → p < 8 → gvForm a = true →
         s.walkFrom p a [(39, 13), (30, 9), (21, 9), (16, 5)] (s.part p).ptroot = .ok l → bits l.ent 7 6 = 0 →
         (pay w 16 1, l.size) ∈ [(0, 16), (1, 21), (2, 30)] → new % 2 ^ l.size = 0 → bit l.ent 63 = false →
         s.granted p new (2 ^ l.size) = true →
         exec (.migrate q) s = .next (({ s with
           mem := Mem.write s.mem l.key (BitVec.ofNat 8 (insertField (Mem.read s.mem l.key).toNat 6 2 2))
           migs := SMap.put s.migs s.nextId ⟨p, l.key, entAddr l.ent, new, 2 ^ l.size, compl w, q, i⟩
           nextId := s.nextId + 1 } : State).accepted q)) ∧
       (pkType w = 0x0A → exec (.void q) s = .next (s.queueNext q))) ∧
     (∀ w t g, (s.eng q).taken = some w → (s.eng q).root = some (t, g) → s.qstate q = 0 →
       exec (.launch q) s = .next (if s.outside t g then s else s.queueNext q))) ∧
  (∀ (s : State) (id : Nat) (m : Mig), s.MemWf → SMap.get? s.migs id = some m → m.new % 256 = 0 → m.new < 2 ^ 56 →
     m.old + m.size ≤ m.new ∨ m.new + m.size ≤ m.old → m.leaf + 8 ≤ m.new ∨ m.new + m.size ≤ m.leaf →
     ∃ t : State, exec (.migrationComplete id) s = .next (State.heldOn (State.work (t.packetDone m.q m.idx,
         [.resolve m.part m.compl false 0]))) ∧
       (∀ i, i < m.size → Mem.read t.mem (m.new + i) = Mem.read s.mem (m.old + i)) ∧
       entAddr (Mem.readN t.mem m.leaf 8) = m.new ∧ bits (Mem.readN t.mem m.leaf 8) 7 6 = 0 ∧
       bits (Mem.readN t.mem m.leaf 8) 5 0 = bits (Mem.readN s.mem m.leaf 8) 5 0 ∧
       (∀ k, (k < m.new ∨ m.new + m.size ≤ k) → (k < m.leaf ∨ m.leaf + 8 ≤ k) → Mem.read t.mem k = Mem.read s.mem k) ∧
       t.migs = SMap.del s.migs id ∧ t.tasks = s.tasks ∧ t.qs = s.qs)

/-- R59 to R64, R46, R47, R67, R68: the PART operations, QSTATE, the debug operations and MONCFG, each done when its
arguments are legal and failed with its cause when they are not; the move of an owned cluster is accepted when its partition
keeps another and has save slots for its contexts, and ends when no context or tile of it is left there; the samples and
windows of a monitor; the end of a reset. What the manual leaves open here is the model's choice: illegal arguments and
queues that an operation cannot act on (log entry 28), a cluster without an owner and the firings before a reset (29), the
SRCID and INFO0 of a window's event (34). -/
def Obligations.PartitionOperations : Prop :=
  ∀ (s s1 : State) (q : Nat),
    (∀ w, (s.eng q).taken = some w → s.qstate q = 1 → pkType w = 8 →
      let op := pay w 0 1
      let p := pid w
      let n := arg16 w
      let a := argA w
      let ok (u : State) : Host.Outcome State Fault Refusal := .next (u.settled q w false 0)
      let no (c : Nat) : Host.Outcome State Fault Refusal := .next (s.settled q w true c)
      (op = 1 → p < 8 → (s.part p).st = .unused → a < 2 ^ 48 → (∀ c, bit a c = true → s.ownerOf c = none) →
        s.descriptorBad (argB w) = false → exec (.partCreate q) s =
          ok (((List.range 48).filter (bit a)).foldl (fun u c => u.passCluster c (some p)) (s.setPart p (s.partOfDesc (argB w))))) ∧
      (op = 1 → (s.part p).st ≠ .unused → exec (.partCreate q) s = no 0x5E) ∧
      (op = 2 → s.active p = true →
        let u := (s.firingsOf p).foldl (fun u x => u.endFiring x.1 x.2) s
        exec (.partReset q) s = .next (if u.firingsOf p = [] then ((u.setPart p { u.part p with
          st := .resetting, reset := some (q, s.index q, compl w) }).resetPart p).accepted q else u)) ∧
      (op = 2 → s.active p = false → exec (.partReset q) s = no 0x5E) ∧
      (∀ old, op = 3 → n < 48 → (∀ m ∈ s.moves, m.cluster ≠ n) →
        (p = 0xFF → s.ownerOf n = none → exec (.partMove q) s = ok s) ∧
        (s.active p = true → s.descriptorBad (s.part p).desc = false → s.ownerOf n = none →
          exec (.partMove q) s = ok (s.passCluster n (some p))) ∧
        (p = 0xFF → s.ownerOf n = some old → old ≠ p → (s.clustersOf old).length ≤ 1 → exec (.partMove q) s = no 0x5E) ∧
        (p = 0xFF ∨ s.active p = true ∧ s.descriptorBad (s.part p).desc = false → s.ownerOf n = some old → old ≠ p →
          let keys := ((coresOf n).flatMap slotsOf).filter fun k => (s.ctx k).slot ≠ .free ∧ (s.ctx k).part = old
          let need := (keys.filter fun k => (s.ctx k).keeper = none ∧ (s.ctx k).slot ≠ .save).length
          let left := ((s.clustersOf old).filter fun k => !s.leaving old k).length
          (left ≤ 1 ∨ (s.freeSaves old).length < need → exec (.partMove q) s = no 0x5E) ∧
          (2 ≤ left → need ≤ (s.freeSaves old).length → (∀ k ∈ keys, ∀ x ∈ s.rulesOf (s.ctx k).ruleOwner, x.2.st ≠ .firing) →
            let m : Move := ⟨n, old, p, (s.freeSaves old).take need, [], compl w, q, s.index q⟩
            exec (.partMove q) s = .next (({ s.emptyDeques n with moves := s.moves ++ [m] } : State).accepted q).movesOn))) ∧
      (op = 4 → s.active p = true → 1 ≤ n → n ≤ 255 → exec (.partWeight q) s = ok (s.setPart p { s.part p with weight := n })) ∧
      (op = 4 → n = 0 ∨ 255 < n → exec (.partWeight q) s = no 0x5E) ∧
      (op = 5 → s.active p = true → n < 576 →
        let g := bits a 31 0
        let c := bits a 63 32
        let others := ((List.range 8).filter (· != p)).foldl (fun m o => m + (s.quota n o).g) 0
        (g ≤ c → c ≤ s.poolPages n → others + g ≤ s.poolPages n →
          exec (.partQuota q) s = ok { s with quotas := SMap.put s.quotas (n * 8 + p) ⟨g, c⟩ }) ∧
        (c < g ∨ s.poolPages n < c ∨ s.poolPages n < others + g → exec (.partQuota q) s = no 0x35)) ∧
      (op = 6 → s.active p = true → n = 0xFF → a % 2 ^ 30 = 0 → argB w % 2 ^ 30 = 0 → 0 < argB w → inHbm a = true →
        a % 2 ^ 37 + argB w ≤ stackBytes → exec (.partHbm q) s = ok (s.grantRange p 0xFF a (argB w))) ∧
      (op = 7 → s.active p = true → 0 < n → n < 4096 → s.qstate n = 0 → a = 0xFF →
        exec (.partQassign q) s = ok (((s.setQcb n 0x11 1 p).setQcb n 0x12 1 0xFF).setEng n (s.eng n))) ∧
      (op = 8 → 0 < n → n < 4096 →
        (a = 0 → exec (.qstateDisable q) s = ok (s.stopQueue n)) ∧
        (a = 1 → s.qstate n = 0 ∨ s.qstate n = 4 →
          (s.qcbBad n = none → exec (.qstateEnable q) s = ok (s.enableQueue n)) ∧
          (∀ c, s.qcbBad n = some c → exec (.qstateEnable q) s = no c)) ∧
        (a = 2 → s.qstate n = 0 → 6 ≤ s.qcbField n 0x10 1 → s.qcbField n 0x10 1 ≤ 16 → s.ringMoving n = false →
          s.resetQueue n = .ok s1 →
          exec (.qstateReset q) s = ok s1)) ∧
      (∀ key u, op = 9 → s.active p = true → n < 576 → s.owns p (n / 12) = true → a < 3 → key = n * 4 + a % 4 →
        let c := s.ctx key
        c.slot ≠ .free → c.part = p → c.keeper = none → (s.task c.task).gang = none →
        ((s.instances c.task).filterMap s.slotOfTask).length ≤ (s.freeSaves p).length →
        s.stopTask c.task .held true = some u → exec (.dbgstop q) s =
          .next ((u.modTask c.task fun x => { x with dbg := some (q, s.index q, compl w) }).accepted q)) ∧
      (op = 9 → 576 ≤ n → exec (.dbgstop q) s = no 0x5E) ∧
      (op = 10 → s.active p = true → SMap.get? s.saves (saveKey p a) = none → exec (.dbgres q) s = no 0x5E) ∧
      (∀ (x : SaveSlot) (t : Nat), op = 10 → s.active p = true → a < 2 ^ 32 → n < 2 → SMap.get? s.saves (saveKey p a) = some x →
        x.task = some t → x.held = true → s.slotOfTask t = none → (s.task t).gang = none → (s.task t).live? = true →
        let s2 := s.modTask t fun y => { y with st := .preempted, stepping := bit n 0 }
        let freed (y : Nat × SaveSlot) : Nat × SaveSlot := if y.2.task = some t then (y.1, { y.2 with held := false }) else y
        exec (.dbgres q) s = ok (({ s2 with saves := s2.saves.map freed } : State).readyAgain t .preempted)) ∧
      (op = 11 → s.active p = true → n < 4 → a % 8 = 0 → exec (.dbgbrk q) s = ok (s.setPart p { s.part p with
        brk := if a = 0 then SMap.del (s.part p).brk n else SMap.put (s.part p).brk n (word a) }))) ∧
    (∀ w, (s.eng q).taken = some w → s.qstate q = 1 → pkType w = 9 → pay w 0 1 < 4 → pay w 1 1 < 32 → 1 ≤ pay w 2 1 →
      pay w 2 1 < 7 → pay w 3 1 < 3 → (pay w 3 1 ≠ 0 → 1000 ≤ pay w 8 8 ∧ inHbm (pay w 16 8) = true) →
      exec (.moncfg q) s = .next (({ s with
        monitors := SMap.put s.monitors (pay w 0 1 * 32 + pay w 1 1) { Monitor.empty with
          on := pay w 3 1 != 0, src := pay w 2 1, mode := pay w 3 1, sel := pay w 4 4, win := pay w 8 8, out := pay w 16 8,
          start := s.dtime.toNat, last := s.bclk } } : State).settled q w false 0)) ∧
    (∀ die mon m, SMap.get? s.monitors (die * 32 + mon) = some m → m.on = true →
      (m.src = 4 → m.last + 1024 ≤ s.bclk →
        let v := (word (s.qcbField m.sel 0 8) - word (s.qcbField m.sel 0x80 8)).toNat
        exec (.monitorPeriodicSample die mon) s = .next { s with
          monitors := SMap.put s.monitors (die * 32 + mon) { m.take v with last := s.bclk } }) ∧
      (m.src = 5 → m.last + 1024 ≤ s.bclk → m.sel < 576 →
        exec (.monitorPeriodicSample die mon) s = .next { s with
          monitors := SMap.put s.monitors (die * 32 + mon) { m.take (s.poolPages m.sel - s.freePages m.sel) with last := s.bclk } }) ∧
      (m.start + m.win ≤ s.dtime.toNat →
        let bytes := [m.start, m.start + m.win, m.count, m.sum, m.min_, m.max_].flatMap (leBytes 8) ++ leBytes 16 0 ++
          places 32 4 (fun i => SMap.getD m.bins i 0) ++ leBytes 64 0
        exec (.monitorWindowEnd die mon) s = .next (({ s.store m.out bytes with
          monitors := SMap.put s.monitors (die * 32 + mon) { Monitor.empty with
            on := m.mode = 2, src := m.src, mode := m.mode, sel := m.sel, win := m.win, out := m.out, start := m.start + m.win,
            last := m.last } } : State).devEvent 0 8 0xFF (die * 32 + mon) (word m.out) 0))) ∧
    (∀ p, (s.part p).st = .resetting → (∀ x ∈ s.ctxs, x.2.slot = .free ∨ x.2.part ≠ p) → (∀ x ∈ s.jobs, x.2.part ≠ p) →
      exec (.partitionResetComplete p) s = .next (s.resetDone p)) ∧
    (∀ m, s.moves = [m] → m.tiles = [] →
      (∀ k ∈ (coresOf m.cluster).flatMap slotsOf, (s.ctx k).slot = .free ∨ (s.ctx k).part ≠ m.from_) →
      s.clusterTiles m.from_ m.cluster = [] → s.movesOn = s.endMove m)

/-- R85: an entry of the Pithead that has waited 2^20 bclk at a level below 7 leaves it for the tail of the next; every
other entry keeps its place, nothing else of the module changes, and the task runs with its own priority. -/
def Obligations.PitheadAging : Prop :=
  ∀ (s : State) (die : Nat),
    let ages (e : PEntry) : Bool := e.die = die && e.inside && e.level < 7 && e.since + 2 ^ 20 ≤ s.bclk
    (∃ t, exec (.pitheadAging die) s = .next t ∧ t = { s with pithead := t.pithead } ∧
      (∀ l, t.pithead.filter (fun e => e.level = l) = (s.pithead.filter fun e => e.level = l && !ages e) ++
        (s.pithead.filter fun e => e.level + 1 = l && ages e).map fun e => { e with level := e.level + 1, since := s.bclk })) ∧
    (∀ key t, s.startFault t = none → (s.task t).resume = .fresh → ((s.place key t).ctx key).prio = (s.task t).prio)

/-- R139: a request of partition P for n pages is grantable when used(P) + n is within the cap of P and n is within the free
pages less the unused guarantees of the other partitions; the pages used are those of the tiles in the pool, the guarantee
and the cap those that PART QUOTA has set. -/
def Obligations.GrantRule : Prop :=
  ∀ (s : State) (pool p : Nat),
    let held (q : Nat) : Nat := (((s.tilesIn pool).filter fun x => x.2.part = q).map fun x => x.2.pg).sum
    let unused (q : Nat) : Nat := max 0 ((s.quota pool q).g - held q)
    let free : Int := (s.poolPages pool : Int) - (((s.tilesIn pool).map fun x => x.2.pg).sum : Nat)
    (∀ n, 0 < n → (s.grantable pool p n = true ↔ held p + n ≤ (s.quota pool p).c ∧
      (n : Int) ≤ free - ((((List.range 8).filter fun q => q ≠ p).map unused).sum : Nat))) ∧
    (∀ q w, (s.eng q).taken = some w → s.qstate q = 1 → pkType w = 8 → pay w 0 1 = 5 → pid w = p → s.active p = true →
      (pool < 576 ∧ arg16 w = pool) ∨ (576 ≤ pool ∧ pool < 580 ∧ arg16 w = 2 ^ 15 + (pool - 576)) →
      let g := bits (argA w) 31 0
      let c := bits (argA w) 63 32
      g ≤ c → c ≤ s.poolPages pool → (((List.range 8).filter fun q => q ≠ p).map fun q => (s.quota pool q).g).sum + g ≤ s.poolPages pool →
      exec (.partQuota q) s = .next (({ s with quotas := SMap.put s.quotas (pool * 8 + p) ⟨g, c⟩ } : State).settled q w false 0))

/-- R80, R72, R93, R184: when a future fails on which tasks were registered, each task that bears, or has borne, one of the
names is cancelled with 0x49, whatever its state: it and every instance of its gang are CANCELLED, and their COMPL future
fails with 0x49; while a rule of one of them fires, they are marked, execute nothing, and are cancelled when the firing has
ended. What the failure sets off is carried out by `State.work`. -/
def Obligations.FailedFuture : Prop :=
  ∀ (s s1 : State) (p k v : Nat) (a : Word), s.MemWf → s.futKey p a = .ok (k, s1) → s.poisoned k 8 = false →
    Mem.readN s.mem k 8 % 4 = 0 →
    (∀ names : List Word, SMap.getD s.futs k [] = names.map Waiter.task →
      ∃ u, s.futSet p a true v = .ok (u, names.flatMap fun n => (s.recordNamed n).toList.map fun t => .cancel t 0x49 true) ∧
        Mem.readN u.mem k 8 = v % 256 * 2 ^ 16 + 2 ∧ u.futs = SMap.del s.futs k ∧ u.tasks = s.tasks) ∧
    (∀ t, t < 262144 → (s.task t).live? = true → s.recordNamed (s.taskName t) = some t) ∧
    (∀ t count, (s.task t).live? = true →
      let x := s.task t
      let all := (s.instances t).filter fun i => (s.task i).live?
      let u := s.cancelTask t 0x49 count
      ((∀ i ∈ all, s.firing i = false) → (∀ q, (s.part q).hvec = 0) ∨ x.gang = none →
        (∀ i ∈ all, (u.1.task i).st = .cancelled) ∧ .resolve x.part x.compl true 0x49 ∈ u.2) ∧
      ((∃ i, i ∈ all ∧ s.firing i = true) → u.2 = [] ∧ (∀ i ∈ all, (u.1.task i).pend = (s.task i).pend.or (some (0x49, count)) ∧
        (u.1.task i).st = (s.task i).st ∧ ∀ key, s.slotOfTask i = some key → (u.1.ctx key).stall = some .cancelled))) ∧
    (∀ t count, (s.task t).pend = some (0x49, count) → s.firing t = false →
      s.afterFiring (.task t) = State.work (s, [.cancel t 0x49 count])) ∧
    (∀ t, (s.task t).live? = true → (s.task t).gang = none → s.firing t = false →
      ∃ (n : Nat) (u : State) (ws : List Work), 0 < n ∧ State.work (s, [.cancel t 0x49 true]) = (State.workTo n u ws).applyLimits ∧
        (u.task t).st = .cancelled ∧ .resolve (s.task t).part (s.task t).compl true 0x49 ∈ ws)

/-- R84 to R94: dispatch serves the partition of the greatest credit, the lowest where credits tie (log entry 30), and puts
the oldest task of its highest level on the deque of its core, or tries the next entry where that one cannot start; the
owner takes the oldest entry and a thief the newest, but a last entry that the owner can take goes to the owner; a task that
starts afresh has the registers of R94; a waiting entry of higher priority pre-empts, and the slot is kept for it (log entry
30); inputs outside the home move there. -/
def Obligations.SchedulerEvents : Prop :=
  ∀ s : State,
    (∀ die p u t, s.wrrNext die = (some p, u) → u.tryDispatch p die = some t → exec (.dispatch die) s = .next t) ∧
    (∀ die p, (s.wrrNext die).1 = some p →
      let can (x : Nat) : Prop := x < 8 ∧ (s.part x).st = .active ∧ (s.tryDispatch x die).isSome = true
      let credit (x : Nat) : Int := SMap.getD (s.part x).credit die 0 + ((s.part x).weight : Int)
      can p ∧ ∀ x, can x → credit x ≤ credit p ∧ (credit x = credit p → p ≤ x)) ∧
    (∀ die p e t c u, e.ent = .task t → e.level < 8 → (∀ x ∈ s.inPithead die p, x.level ≤ e.level) →
      (s.inPithead die p).find? (fun x => x.level = e.level) = some e → (s.task t).gang = none → s.objsMoving p = false →
      e.part = p → (s.task t).pend = none → s.startFault t = none → s.pickCore die (.task t) = some c → s.allocOutputs t c = some u →
      let v := u.modTask t fun x => { x with st := .queued }
      s.tryDispatch p die = some (({ v with pithead := v.pithead.filter (·.ent != Ent.task t) } : State).setDeque c
        (.task t :: v.deque c)).takeIn) ∧
    (∀ die p x e r u, s.inPithead die p = x :: e :: r → x.level = e.level → e.level < 8 → (∀ y ∈ r, y.level ≤ e.level) →
      s.tryEntry die x = none → s.tryEntry die e = some u → s.tryDispatch p die = some u) ∧
    (∀ core key e l, s.deque core = l ++ [e] → s.reservedCore core = false → s.entStays e = true → s.placeable core e = some key →
      exec (.dequeTake core) s = .next ((s.setDeque core l).placeEnt key e)) ∧
    (∀ core v s1 e, s.idleCore core = true → s.reservedCore core = false → s.victim core = some v → s.deque v = [e] →
      s.dequeTake v = some s1 → exec (.steal core) s = .next s1) ∧
    (∀ core v key e r, s.idleCore core = true → s.reservedCore core = false → s.victim core = some v → s.deque v = e :: r →
      r ≠ [] ∨ s.dequeTake v = none → s.entStays e = true → s.placeable core e = some key →
      exec (.steal core) s = .next ((s.setDeque v r).placeEnt key e)) ∧
    (∀ key t, s.startFault t = none → (s.task t).resume = .fresh → let x := s.task t
      let c := (s.place key t).ctx key
      (c.slot = .res ∨ c.slot = .run) ∧ c.task = t ∧ c.part = x.part ∧ c.prio = x.prio ∧ c.pc = x.code + word x.entry ∧
      c.etb = c.pc - 32 ∧ c.th = false ∧ c.direct = false ∧ c.depth = 0 ∧ c.stamp = x.stamp ∧ c.ptb = x.ptab ∧
      (∀ i : Nat, i < 4 → c.reg (BitVec.ofNat 5 (i + 1)) = x.args.getD i 0) ∧
      (x.gang = none → c.reg 5 = 0 ∧ c.reg 6 = 1) ∧ (∀ g i n, x.gang = some (g, i, n) → c.reg 5 = word i ∧ c.reg 6 = word n) ∧
      ((s.place key t).task t).st = .running) ∧
    (∀ die p e t key u, s.topEntry die p = some e → e.born + 4096 ≤ s.bclk → s.makingWay e.ent = false → e.ent = .task t →
      let cores := (s.homeCores die t).filter fun c => !s.leaving p (clusterOf c)
      (∀ c ∈ cores, s.freeSlot c = none ∧ 4 ≤ (s.deque c).length) → s.yielding p e.level (cores.flatMap slotsOf) = some key →
      (s.ctx key).inSlot = true → (s.ctx key).keeper = none → s.preempt key = some u →
      (u.ctx key).slot = .save →
      exec (.priorityPreemption die p) s = .next (u.modCtx key fun c => { c with heir := some e.ent })) ∧
    (∀ t r1 h1 k1 r2 h2 k2, let x := s.task t
      x.ins = [(r1, h1), (r2, h2)] → x.st = .waiting → x.live = 0 → x.lead = true → s.tileOf h1 = some k1 → s.tileOf h2 = some k2 →
      (s.tile k1).st ≠ .alloc → (s.tile k2).st ≠ .alloc → k1 / 8192 < 576 →
      inHome (.cluster (clusterOf (k1 / 8192))) (k2 / 8192) = false → (s.tile k2).moving = false →
      let die := clusterOf (k1 / 8192) / 12
      exec (.inputHomeMove t) s = .next (State.work ({ s.modTile k2 fun y => { y with moving := true } with
        tileMoves := s.tileMoves ++ [⟨k2, die⟩]
        reqs := s.reqs ++ [⟨576 + die, (s.tile k2).part, (s.tile k2).pg, s.dtime.toNat, die * 144, .move k2⟩] }, [.ready t]))) ∧
    (∀ core slot u v, let key := core * 4 + slot
      (s.ctx key).inSlot = true → (s.ctx key).ending = true → (s.ctx key).mx = [] → (s.ctx key).stall ≠ some .cancelled →
      s.inputMoving (s.ctx key).task = false → s.endMoving (s.ctx key).task = false → s.commitRegion key = .ok u → (u.endReads key).handover key = some v →
      exec (.taskEnd core slot) s = .next (v.finishTask key))

/-- R97, R98, R110, R113, R120, R121, R126, R356, R362, R398: a record and an image read into a slot, an image written, the
watchdog, a switch away from a stall, a page that is back, an asynchronous trap at a boundary, and waits that end: a
semaphore, for the `semw` or the other instruction that waits behind it; a `waita` whose bytes meet its condition when its
line is looked at again, which ends with 0 up to the bclk in which its limit expires, and with 1 after it or where the
condition does not hold in that bclk; a `barw` at its limit, which ends with 1, or with 0 where its phase has completed by
the bclk of the expiry; and a chunk of a matrix job. The die on which a parked task goes on is log entry 30; the entries of
MXRES and the asynchronous causes that stand beside an image, log entry 32. -/
def Obligations.ContextEvents : Prop :=
  ∀ (s s1 s2 : State) (core slot : Nat), let key := core * 4 + slot
    let c := s.ctx key
    (∀ a b, (s.task c.task).resume = .record a → c.slot = .load → s.gvRead c.part a 256 true = .ok (s1, b) → recordBad b = none →
      s.objsMoving c.part = false → s.startFault c.task = none → c.heir = none → s.moves = [] → (s1.task c.task).recObj = none →
      (s.task c.task).pend = none → s.gvBad c.part a 256 = [] →
      let looked := (s1.readEach c.part (s.startObjs c.task)).readObjs c.part ((s1.objAt c.part (word (slice b 0 8))).map (·.idx))
      ∃ t, exec (.continuationResume core slot) s = .next t ∧ let d := t.ctx key
        d.pc = word (slice b 0 8) ∧ d.pred = BitVec.ofNat 12 (slice b 8 2) ∧ d.etb = word (slice b 0x20 8) ∧
        d.ptb = word (slice b 0x28 8) ∧ d.ltb = word (slice b 0x30 8) ∧ d.stamp = word (slice b 0x58 8) ∧
        d.fpc = word (slice b 0x60 8) &&& 0x1F07 ∧ d.fps = word (slice b 0x68 8) &&& 0x1F ∧ d.task = c.task ∧
        d.taskR = word (slice b 0x38 8) ∧ d.th = false ∧ d.direct = false ∧
        (∀ i, i < 4 → d.loopc i = BitVec.ofNat 32 (slice b (0x10 + 4 * i) 4)) ∧
        (∀ n : BitVec 5, bit (slice b 0x40 4) n.toNat = false → d.reg n = 0) ∧
        (∀ i n, i < 16 → (liveRegs (slice b 0x40 4))[i]? = some n → d.reg (BitVec.ofNat 5 n) = word (slice b (0x80 + 8 * i) 8)) ∧
        (t.task c.task).restart = some a ∧ t.mem = looked.mem) ∧
    (∀ sk rd, (s.task c.task).resume = .image sk → c.slot = .load → c.keeper = none → c.heir = none →
      s.readImage sk = .ok (s1, rd) → rd.lx = [] → s.startFault c.task = none →
      s.objsMoving c.part = false → (s.task c.task).pend = none →
      let side := (SMap.get? s.saves sk).getD (SaveSlot.empty c.part)
      let d := rd.ctx c side
      let job := State.mxEntry { s1.setCtx key { d with mx := [] } with cur := key, jobs := [] } rd.base side
      mxBad rd.base job = none → rd.consumed = none → rd.broken = false →
      let x := s.task c.task
      let mx := (mxValid rd.base).filterMap job
      exec (.imageLoadComplete core slot) s = .next ((((((s1.readEach c.part (s.startObjs c.task)).freeSave sk).repin side.mx mx).setCtx key { d with
        mx := mx, launch := s.launchReg (s.task (taskNo d.taskR)), since := s.bclk, wd := s.bclk, wdFired := x.warned,
        started := s.bclk, heir := none }).modTask c.task fun y => { y with resume := .fresh }).promote (key / 4)).movesOn) ∧
    (∀ sk, c.image = some sk → c.slot = .save → c.heir = none → c.keeper = none → (s.task c.task).dbg = none →
      (s.task c.task).st ≠ .preempted → s1.ctx key = c → s1.task c.task = s.task c.task →
      s.writeImage (sk / 2 ^ 32) (sk % 2 ^ 32) key c
        (pobjOf ((SMap.get? s.saves sk).getD (SaveSlot.empty (sk / 2 ^ 32))).objs c.k) = .ok s1 →
      exec (.imageSaveComplete core slot) s = .next ((s1.modTask c.task fun x =>
        { x with resume := .image sk, h := c.h, dbg := none }).freeCtx key).movesOn) ∧
    (∀ l, (s.part c.part).wdog = l → l ≠ 0 → c.inSlot = true → c.keeper = none → l ≤ s.bclk - c.wd → c.stall ≠ some .cancelled →
      (c.wdFired = false → exec (.watchdogTimeout core slot) s = .next (s.setCtx key { c with
        async := c.async ++ [exc 0x5A l], wd := s.bclk, wdFired := true })) ∧
      (c.wdFired = true → exec (.watchdogTimeout core slot) s = .next (State.work
        (s.partEvent c.part (key / 4 / 144) 0x5A 0 (key / 4) (word l) 0, [.cancel c.task 0x5A true])))) ∧
    (∀ w, slot = 0 → c.slot = .run → c.stall = some w → w.switches = true → s.waitOver key w = false → max c.stallAt c.since + 64 ≤ s.bclk →
      exec (.stallSwitch core) s = .next (s.switch core)) ∧
    (∀ t, let x := s.task t
      x.st = .parked → x.gang = none → s.slotOfTask t = none → s.pageBack x = true →
      exec (.parkWake t) s = .next ((s.setTask t { x with st := .ready, page := none, die := s.dieFor t }).enqueue (s.dieFor t) x.part
        x.prio (.task t)).applyLimits) ∧
    (∀ e r, c.async = e :: r → c.inSlot = true → c.ending = false → c.th = false → c.stall ≠ some .cancelled → c.passed = none →
      s.objsMoving c.part = false →
      let f := (s.setCtx key { c with async := r }).fetchedClass key
      exec (.asyncTrapDelivery core slot) s = .next (f.2.trapEnter key e f.1 false c.pc)) ∧
    (s.waits key = true →
      (∀ i n j, c.stall = some (.sem i n) → n ≤ s.sem core i → fetch { s with cur := key } = .ok (j, s1) →
        (∀ q o, j ≠ .semw q o) → exec (.semaphoreWaitPass core slot) s =
          .next ((s.setSem core i (s.sem core i - n)).setCtx key { c with stall := none, passed := some (i, n) })) ∧
      (∀ q o j i n, c.stall = some (.sem i n) → n ≤ s.sem core i → fetch { s with cur := key } = .ok (j, s1) → j = .semw q o →
        let v := s1.sem (key / 4) o.semi.toNat
        o.thr.toNat ≤ v → exec (.semaphoreWaitPass core slot) s =
          .next { s1.retired j (s1.setSem (key / 4) o.semi.toNat (v - o.thr.toNat)) with cur := s.cur }) ∧
      (∀ q o v k, fetch { s with cur := key } = .ok (.waita q o, s1) → s1.hurt key (.waita q o) = false → s1.watches o v k s2 →
        (s1.waitaMet o v = true → (∀ w b, s2.me.stall = some w → w.till = some b → s2.bclk ≤ b) →
          exec (.waitaRecheck core slot) s = .next { s1.waitaEnds q o s2 0 with cur := s.cur } ∧
          ∀ line b, c.stall = some (.mon line (some b)) → b ≤ s.bclk →
            exec (.waitaTimeout core slot) s = .next { s1.waitaEnds q o s2 0 with cur := s.cur }) ∧
        (∀ line b, c.stall = some (.mon line (some b)) → s2.me.stall = some (.mon line (some b)) → b ≤ s.bclk →
          b < s2.bclk ∨ b = s2.bclk ∧ s1.waitaMet o v = false →
          exec (.waitaTimeout core slot) s = .next { s1.waitaEnds q o s2 1 with cur := s.cur })) ∧
      (∀ (q : Seqn) (o : BarwO) (ph b g i n : Nat) (x : Gang), fetch { s with cur := key } = .ok (.barw q o, s1) →
        s1.hurt key (.barw q o) = false →
        c.stall = some (.barw ph (some b)) → s1.me.stall = some (.barw ph (some b)) → b ≤ s.bclk → b ≤ s1.bclk →
        (s1.task s1.me.task).gang = some (g, i, n) → SMap.get? s1.gangs g = some x →
        (s1.me.reg o.a).toNat < SMap.getD x.arrived i 0 →
        exec (.barwTimeout core slot) s = .next { s1.retired (.barw q o) (s1.regs fun d =>
          d.setReg o.d (if (s1.me.reg o.a).toNat < x.phases ∧ s1.bclk ≤ b then 0 else 1)) with cur := s.cur })) ∧
    (∀ j r c' j', c.inSlot = true → c.stall ≠ some .cancelled → c.mx = j :: r → j.memb = none → c.accBad (chunkOf j).acc = false → s.viewMoving j.a = false →
      s.viewMoving j.b = false → j.o.be = false ∨ s.gvMoving c.part j.biasAt (4 * fNE j.o) = false → j.done < total j →
      s.runChunk c j = some (c', j') → j'.done < total j' →
      exec (.matrixChunk core slot) s = .next (s.setCtx key { c' with mx := j' :: r }))

/-- R142, R145, R149, R158 to R161: a grant; a multicast whose command becomes a job once every receiver's pool can grant,
and its landing, which with no read left fails with 0x30 (log entry 38); a deadlock of a pool after 65,536 bclk (the SRCID
of its event is log entry 34); and a tile that moves: it arrives in the die pool with its contents and its counts, and its
handles lead there. In a bclk that several acts share a pool also notes that it has granted (log entry 1). -/
def Obligations.PoolEvents : Prop :=
  ∀ (s s1 s2 : State),
    (∀ pool (r : Req) key x, s.reqs = [r] → r.pool = pool → r.part < 8 → s.mayGrant r = true → r.who = .loader key →
      SMap.get? s.subs key = some x →
      let g := ({ s with reqs := [] } : State).allocTile pool x.lvl x.part x.pg x.rds s.dtime (.pump key)
        (ownerWord 1 (x.die * 65536 + x.idx)) (.loader key)
      exec (.allocationGrant pool) s = .next { g.1.setSub key { x with grant := some g.2 } with
        shared := s.shared.map fun l => pool :: l }) ∧
    (∀ pool p, (∀ r, s.headReq pool p = some r → r ∈ s.reqs ∧ r.pool = pool ∧ r.part = p ∧
        ∀ r' ∈ s.reqs, r'.pool = pool → r'.part = p → r'.older r = false)) ∧
    (∀ core key q y o s0, s.waiting core = [key] → fetch { s with cur := key } = .ok (.cpym q y o, s1) →
      s1.hurt key (.cpym q y o) = false →
      s1.syncWait key (some y) = some s0 → s0.multicasts y o s2 →
      exec (.multicastGrant core) s = .next { s2.finish (.cpym q y o) key s1.me.pc false with cur := s.cur }) ∧
    (∀ id j core h b, SMap.get? s.jobs id = some j → j.st = .running → j.land = [(core, h)] → j.fail = none →
      ∀ src tk, j.a = .tile src → s.tileOf src = some tk → s.viewMoving (.tile src) = false →
      s.viewMoving (.tile h) = false → s.viewRead (.tile src) 0 ((s.tile tk).pg * 2048) = some b →
      exec (.landingComplete id) s = .next (State.work (andThen ((s.viewWrite (.tile h) 0 b).deliver id j (core, h)) fun u =>
        if (u.tile tk).rem = 0 then (u.setJob id { j with land := [], fail := some (exc 0x30 0 (tinfoTile src)) }, [])
        else ((u.consumeNow tk 1).setJob id { j with land := [] }, [])))) ∧
    (∀ p die since, SMap.get? s.dead (p * 4 + die) = some (since, false) → since + 65536 ≤ s.bclk → s.deadNow p die = true →
      (s.part p).hvec = 0 → ∀ r, s.oldestReq p die = some r → r.pool < 576 →
      let beyond := ((List.range 8).filter (· != p)).foldl (fun n q => n + (s.usedBy r.pool q - (s.quota r.pool q).g)) 0
      ∃ t, exec (.poolDeadlock p die) s = .next t ∧
        t = { s.partEvent p die 0x34 0 r.pool (word r.n) (word beyond) with dead := t.dead } ∧
        SMap.get? t.dead (p * 4 + die) = some (since, true)) ∧
    (∀ key m, s.MemWf → s.tileMoves.find? (·.key = key) = some m → m.key = key → (s.tile key).st ≠ .free → s.moves = [] →
      s.moveFits m = true → key / 8192 < 576 → key % 8192 < 512 → (∀ y ∈ s.tiles, y.2.gen < 2048) →
      let x := s.tile key
      let live := s.tilesIn (576 + m.die)
      let used := live.flatMap fun y => y.2.pmap.take y.2.pg
      (∃ i, i < 8192 ∧ ∀ y ∈ live, y.1 ≠ (576 + m.die) * 8192 + i) →
      x.pg ≤ ((List.range 8192).filter fun i => !used.contains i).length →
      ∃ (t : State) (new : Nat), exec (.tileMoveComplete key) s = .next (State.heldOn (State.work (t, t.tasks.filterMap fun y =>
          if y.2.st = .waiting then some (.ready y.1) else none))) ∧ t.tasks = s.tasks ∧ m ∉ t.tileMoves ∧
        (t.tile key).st = .free ∧ (t.tile key).gen = x.gen ∧ new / 8192 = 576 + m.die ∧
        t.tile new = { x with gen := (t.tile new).gen, pmap := (t.tile new).pmap, moving := false } ∧
        (∀ i, i < x.pg * 2048 → Mem.read t.mem (t.tileByte new i) = Mem.read s.mem (s.tileByte key i)) ∧
        ∀ h ∈ handlesOf (key / 8192) (key % 8192) x.gen, t.tileOf h = some new)

/-- R164 to R171, R221 to R224, R227: a loader asks for its tile, fills it, with the STAMP that the tensor's stamp vector
gives, and commits it as the next slice; a storer writes the slice and its STAMP, records STORED and consumes a read; both
end at the end of their stream, which the storer records in the tensor's entry; a stalled one tries again after 65,536 bclk.
In which step of its own a pump moves a slice, and that it reads the whole slice there, are log entries 37 and 39. -/
def Obligations.PumpEvents : Prop :=
  ∀ (s u s1 s2 : State) (key : Nat) (x : Sub) (t : Tensor), SMap.get? s.subs key = some x → x.retry = none →
    s.tensorFor x.part x.src = .ok (u, t) →
    (x.loader = true →
      (t.eosv = true → t.eosi ≤ x.pos → exec (.loaderSlice key) s = .next (State.work (andThen (u.commitEos x.part x.dst) fun v =>
        (v.endSub key x, [])))) ∧
      (t.eosv = false → t.stored ≤ x.pos → exec (.loaderSlice key) s = .next u) ∧
      (t.eosv = false → x.pos < t.stored → x.grant = none → (∀ r ∈ u.reqs, r.who ≠ .loader key) →
        let pool := if x.lvl = 2 then 576 + x.die else x.core
        0 < (u.quota pool x.part).c → x.pg ≤ (u.quota pool x.part).c →
        exec (.loaderSlice key) s = .next { u with reqs := u.reqs ++ [⟨pool, x.part, x.pg, u.dtime.toNat, x.core, .loader key⟩] }) ∧
      (∀ h tk vs, t.eosv = false → x.pos < t.stored → x.grant = some h → u.tileOf h = some tk → (u.tile tk).moving = false →
        let n := (u.stream x.part x.dst).next
        t.sliceBytes ≤ (u.tile tk).pg * 2048 → u.sliceBytesOf x.part x.dst ≤ (u.tile tk).pg * 2048 →
        u.sliceCheck x.part x.dst n 0 = none → u.holdsFault x.part x.dst n h = none →
        (u.readTensor x.part x.dst).loadSlice x.part x.src t x.pos = .ok (s1, vs) → (∀ v ∈ vs, v.2 = none) →
        let filled (v : State) : State := v.tileWrite tk 0 (packBits (etypeBits t.etype) (vs.map (·.1)))
        let done (v : State) : State := State.work (andThen (v.commitSlice x.part x.dst n h) fun v =>
          ((v.dropHold (.loader key) h false).setSub key { x with pos := x.pos + 1, grant := none, told := none }, []))
        (t.sstamp = 0 → exec (.loaderSlice key) s = .next (done (filled s1))) ∧
        (∀ b, t.sstamp ≠ 0 → s1.gvRead x.part (t.sstamp + word (8 * x.pos)) 8 true = .ok (s2, b) →
          exec (.loaderSlice key) s = .next (done ((filled s2).modTile tk fun y => { y with stamp := word (leNat b) }))))) ∧
    (∀ h tk u1 v, x.loader = false → let st := s.stream x.part x.src
      SMap.get? st.slices x.pos = some h → s.tileOf h = some tk → (s.tile tk).moving = false → x.pos < st.next →
      u.storeTiles x.part x.src t tk (numbered 0 (t.sliceTiles x.pos)) = (s1, none) →
      (t.sstamp = 0 ∧ u1 = s1 ∨ t.sstamp ≠ 0 ∧
        s1.gvWrite x.part (t.sstamp + word (8 * x.pos)) (leBytes 8 (u.tile tk).stamp.toNat) true = .ok u1) →
      u1.gvWrite x.part (t.addr + 0x38) (leBytes 6 (x.pos + 1)) true = .ok s2 → (s2.tile tk).rem ≠ 0 → v = s2.consumeNow tk 1 →
      exec (.storerSlice key) s =
        .next ((v.dropHold (.storer key) h false).setSub key { x with pos := x.pos + 1, told := none })) ∧
    (∀ e, x.loader = false → let st := s.stream x.part x.src
      (SMap.get? st.slices x.pos).bind s.tileOf = none → st.eosx = some e →
      (x.pos < e → exec (.storerSlice key) s = .next s) ∧
      (∀ v b, e ≤ x.pos → u.gvWrite x.part (t.addr + 0x40) (leBytes 6 e) true = .ok s1 → s1.gvRead x.part t.addr 1 = .ok (v, b) →
        (s1.markRead x.part t.addr 1).gvWrite x.part t.addr (leBytes 1 (insertField (leNat b) 2 1 1)) true = .ok s2 →
        exec (.storerSlice key) s = .next (s2.endSub key x))) ∧
    (∀ e, x.told ≠ some e → s.pumpStall key e = (s.partEvent x.part x.die e.cause.toNat 0 x.core e.tval e.tinfo).setSub key
      { x with retry := some (s.bclk + 65536), told := some e }) ∧
    (∀ b, b ≤ s.bclk → let y := { x with retry := some b }
      (x.loader = true → exec (.pumpRetry key) (s.setSub key y) = exec (.loaderSlice key) s) ∧
      (x.loader = false → exec (.pumpRetry key) (s.setSub key y) = exec (.storerSlice key) s)) ∧
    (∀ b, s.bclk < b → exec (.pumpRetry key) (s.setSub key { x with retry := some b }) =
      .next (s.setSub key { x with retry := some b }))

/-- R177 to R183, R186 to R189: an armed rule whose next slices are there, and before which no other goes, fires: it pins
its inputs and what the firing comes to, on what its operands then hold, is settled (log entry 37), 0x5B where one of them
is poisoned (log entry 12); or it asks for its result tile first. A firing that ends has its effects and passes its slice;
one that faults, also by a read that is not there at its end (log entry 37), stands FAULTED with none of them, and its
context, or the partition of its keeper, is told with 0x3C. A keeper with a rule that is ready enters the Pithead at its
priority, goes to the deque of a core and from there to a slot, where its image is loaded; it is saved again when idle. -/
def Obligations.RuleEvents : Prop :=
  ∀ (s s1 : State) (core slot k : Nat) (o : RuleOwner) (r : Rule), slot < 4 →
    let key := core * 4 + slot
    let p := s.partOf o
    let w := s.withdraw o
    (s.ruleAt key k = some (o, r) → w.ruleAt key k = some (o, r) →
      (w.mayFire key k = true → (∀ x ∈ w.fireable core r.engine, w.goesBefore x (key, k) = false) →
        let pins := (w.inputTiles (w.partOf o) r ++ r.named (w.fireCtx key o).h).filter fun h => (w.tileOf h).isSome
        let go (u : State) (x : Fired) : State := (pins.foldl State.pin u).putRule o k
          { r with st := .firing, pins := pins, ft := u.dtime.toNat, out := some x }
        (∀ u x, w.fireRun key k o r = .ok (u, x) → exec (.ruleFire core slot k) s = .next (go u x)) ∧
        (∀ e b, w.fireRun key k o r = .error (.trap e b) →
          exec (.ruleFire core slot k) s = .next (go { w with freeCtr := (b.getD w).freeCtr } (Fired.failed e.cause)))) ∧
      (w.ruleDue key k o r = true → r.tidd ≠ 0xFFFF → r.rslt = 0 →
        let lvl := r.outf.toNat / 2 ^ 30
        let pool := if lvl = 2 then 576 + core / 144 else core
        let n := r.outf.toNat / 2 ^ 24 % 64
        lvl ≠ 3 → 0 < (w.quota pool (w.partOf o)).c → n ≤ (w.quota pool (w.partOf o)).c → (∀ q ∈ w.reqs, q.who ≠ .rule o k) →
        exec (.ruleFire core slot k) s =
          .next { w with reqs := w.reqs ++ [⟨pool, w.partOf o, n, w.dtime.toNat, core, .rule o k⟩] })) ∧
    (s.ruleReady o k r = true → (∀ t, t = r.tida ∨ t = r.tidb → t ≠ 0xFFFF → r.cur < (s.stream p t.toNat).next ∧
      ∀ e, (s.stream p t.toNat).eosx = some e → r.cur < e)) ∧
    (∀ x, s.ruleAt key k = some (o, r) → r.st = .firing → r.out = some x →
      (∀ h ∈ r.target :: (s.inputTiles p r ++ x.uses), s.viewMoving (.tile h) = false) →
      (∀ c, x.cause = some c → exec (.firingEnd core slot k) s = .next ((s.ruleFault key o k r c).afterFiring o)) ∧
      (x.cause = none → s.writeFired p x = .ok s1 → s.resultFault o r (s.sliceBytesOf p r.tidd.toNat) = none →
        s.inputFault (s.inputTiles p r ++ x.uses) = none →
        exec (.firingEnd core slot k) s =
          .next (((if r.tidd = 0xFFFF then s1 else s1.readTensor p r.tidd.toNat).fired key k o r x).afterFiring o)) ∧
      (∀ e, x.cause = none → s.writeFired p x = .ok s1 → (s.resultFault o r (s.sliceBytesOf p r.tidd.toNat)).or
          (s.inputFault (s.inputTiles p r ++ x.uses)) = some e →
        exec (.firingEnd core slot k) s = .next ((s.ruleFault key o k r e.cause).afterFiring o))) ∧
    (∀ t c, o = .task t → r.sub = 0 → r.pins = [] → s.ruleFault key o k r c =
      (s.putRule o k { r.rested with st := .faulted, fcause := c }).modCtx key fun d =>
        { d with async := d.async ++ [exc 0x3C c.toNat (tinfoRule k r.cur)] }) ∧
    (∀ id c, o = .keeper id → r.sub = 0 → r.pins = [] →
      let t := s.putRule o k { r.rested with st := .faulted, fcause := c }
      let x := t.keeper id
      s.ruleFault key o k r c =
        t.partEvent x.part (core / 144) 0x3C 0 core (t.saveAddr x.part x.save) (word (tinfoRule k r.cur))) ∧
    (∀ id x, SMap.get? s.keepers id = some x → s.keeperWants id = true → (∀ e ∈ s.pithead, e.ent ≠ .keeper id) →
      (∀ d ∈ s.deques, Ent.keeper id ∉ d.2) →
      s.keeperEnter id = s.enqueue ((s.keeperHome id).dieOr x.die) x.part x.prio (.keeper id)) ∧
    (∀ die id c (e : PEntry), e.ent = .keeper id → s.objsMoving e.part = false → s.keeperDead id = none →
      s.pickCore die e.ent = some c → s.tryEntry die e = some (s.toDeque c e.ent)) ∧
    (∀ id d, s.pithead.find? (·.ent = Ent.keeper id) = none → s.deques.find? (fun d => d.2.getLast? = some (Ent.keeper id)) = some d →
      s.dequeTake d.1 = some s1 → exec (.keeperDispatch id) s = .next s1) ∧
    (∀ id x to_, SMap.get? s.keepers id = some x → s.keeperDead id = none → (∀ i, Held.ruleEnd (.keeper id) i ∉ s.held) →
      s.placeEnt to_ (.keeper id) = (s.setCtx to_ { Ctx.empty with
        slot := .load, keeper := some id, part := x.part, prio := x.prio, since := s.bclk, wd := s.bclk,
        image := some (saveKey x.part x.save) }).setKeeper id { x with at_ := some to_, lastFire := s.bclk }) ∧
    (∀ id x rd, let c := s.ctx key
      c.slot = .load → c.keeper = some id → SMap.get? s.keepers id = some x → s.keeperDead id = none →
      s.objsMoving c.part = false →
      let sk := saveKey c.part x.save
      s.readImage sk = .ok (s1, rd) → rd.consumed = none → rd.broken = false →
      let side := (SMap.get? s.saves sk).getD (SaveSlot.empty c.part)
      let d := rd.ctx c side
      let s2 := s1.dropRefs sk
      exec (.imageLoadComplete core slot) s = .next ((({ s2 with saves := SMap.put s2.saves sk { side with objs := [] } } : State).setKeeper
        id { x with status := d.modes, special := d.special, fpc := d.fpc, fps := d.fps, f := d.f, k := d.k, acc := d.acc, ovf := d.ovf,
                     bad := x.bad.filter (· < 0x80000) ++ d.bad.filter (0x80000 ≤ ·), lastFire := s.bclk }).setCtx key
          { c with slot := .res, image := none, heir := none, since := s.bclk, wd := s.bclk, started := s.bclk }).movesOn) ∧
    (∀ id x at_, SMap.get? s.keepers id = some x → x.at_ = some at_ → 4096 ≤ s.bclk - x.lastFire → (∀ y ∈ x.k, y.2.st ≠ .firing) →
      (s.ctx at_).slot = .res → s.imageFree (at_ / 4) = true →
      let sk := saveKey x.part x.save
      exec (.keeperIdleSave id) s = .next (((({ s with reqs := s.reqsWithout at_ } : State).modCtx at_ fun c =>
        { c with slot := .save, image := some sk }).keepSave sk
          (x.ctx.side none (some id) false (s.refsOf x.part x.ctx true))).readRefs x.part x.ctx true))

/-- R446 to R455, R225: a waiting command is accepted; the oldest job that no edge holds starts while fewer than four run; a
job that ends has its outcome, a failure its cause; the canary pass reports a page of the source or the destination that is
not there, and the data follow it `n` pages behind (R225). A source that its destination overlaps is kept as it stands at
the start (R448), where no page of it moves. That the canary pass moves by steps of its own, with marks, that the data which
no pass has let through move when the job ends, and that a poisoned header of a tile fails the job are log entries 38 and
12; INFO0 of the pass's events is log entry 34. -/
def Obligations.DriftEvents : Prop :=
  ∀ (s s1 s2 : State),
    (∀ core key i s0, s.waiting core = [key] → fetch { s with cur := key } = .ok (i, s1) → isDrift i = true →
      s1.hurt key i = false →
      s1.syncWait key (syncOf i) = some s0 → s0.accepts s2 i →
      exec (.driftAccept core) s = .next { s2.finish i key s1.me.pc false with cur := s.cur }) ∧
    (∀ core id, s.nextJob core = some id → let j := s.job id
      (j.op = .cpy ∨ j.op = .fill ∨ j.op = .copy ∨ j.op = .disc ∨ j.op = .cpym) → (∀ n a, j.d ≠ .peer n a) →
      let j' := { j with st := .running, src := s.sourceNow j, fail := j.fail.or (s.jobHurt j) }
      (s.keepMoves j = true → exec (.driftJobStart core) s = .next s) ∧
      (s.keepMoves j = false → (∀ h, j.d ≠ .tile h) → exec (.driftJobStart core) s = .next (s.setJob id j')) ∧
      (∀ h tk, s.keepMoves j = false → j.d = .tile h → j.dir = false → s.tileOf h = some tk → (s.tile tk).st = .alloc →
        (∀ h', j.a ≠ .tile h') →
        exec (.driftJobStart core) s =
          .next ((s.modTile tk fun t => { t with stamp := if j.stamp = 0 then s.dtime else j.stamp }).setJob id j'))) ∧
    (∀ core id, s.nextJob core = some id → ∃ j, (id, j) ∈ s.jobsOn core ∧ j.st = .accepted ∧ s.heldJob j = false ∧
      ((s.jobsOn core).filter fun x => x.2.st = .running).length < 4) ∧
    (∀ id page a e, let j := s.job id
      SMap.get? s.jobs id = some j → j.st = .running → j.scout ≠ 0 → j.fail = none → a.toNat / 65536 = page →
      (s.srcPages j = [a] → s.destPages j = [] → j.scouted.contains (scoutMark .rd a) = false → s.translate j.part a .rd = .fault e →
        exec (.canaryPass id page) s = .next ((s.partEvent j.part (j.core / 144) e.cause.toNat 0 j.core
          (word (a.toNat / 65536 * 65536)) 0).setJob id { j with scouted := scoutMark .rd a :: j.scouted })) ∧
      (s.srcPages j = [] → s.destPages j = [a] → j.scouted.contains (scoutMark .wr a) = false → s.translate j.part a .wr = .fault e →
        exec (.canaryPass id page) s = .next ((s.partEvent j.part (j.core / 144) e.cause.toNat 0 j.core
          (word (a.toNat / 65536 * 65536)) 0).setJob id { j with scouted := scoutMark .wr a :: j.scouted })) ∧
      ((∀ x ∈ s.scoutPages j, ∀ b ∈ x.2, j.scouted.contains (scoutMark x.1 b) = true) →
        exec (.canaryPass id page) s = .next s) ∧
      (∀ l m, s.srcPages j = l → s.destPages j = [] → j.scoutAt .rd l = some m → l[m]? = some a → j.scout < m → s.jobMoves j = false →
        (∀ n b, j.d ≠ .peer n b) →
        let x := s.moveOver j (s.piecesBefore j .rd (l.getD (m - j.scout) 0))
        let u := x.1.setJob id x.2
        (∀ e', x.2.fail = some e' → exec (.canaryPass id page) s = .next u) ∧
        (x.2.fail = none → exec (.canaryPass id page) s =
          .next ((u.lookAt x.2 .rd a).setJob id { x.2 with scouted := scoutMark .rd a :: x.2.scouted })))) ∧
    (∀ id j, SMap.get? s.jobs id = some j → j.st = .running → (∀ a, j.fut = some a → s.futMoving j.part a = false) →
      (∀ e, j.fail = some e → exec (.driftJobEnd id) s = .next (State.work (andThen (s.dropLandings id) fun u => u.endJob id (.error e)))) ∧
      (j.fail = none → j.len = 0 → (∀ n a, j.d = .peer n a → cvDst j.cv j.et j.h j.kk ≤ j.pos) →
        j.scout = 0 ∨ (s.srcPages j = [] ∧ s.destPages j = []) →
        exec (.driftJobEnd id) s = .next (State.work (s.endJob id (.ok 0)))))

/-- R446 to R449, R452, R455: a copy between local bytes leaves at the destination the bytes of its source, those that were
kept at its start where its ends overlap (R448), and else those that stand there when it ends (log entry 38, the model's
choice; a job without a canary pass); a fill leaves its pattern; no other byte changes; then the job ends. -/
def Obligations.DriftData : Prop :=
  ∀ (s : State) (id : Nat) (j : Job) (d : Nat), s.MemWf → SMap.get? s.jobs id = some j → j.st = .running → j.fail = none →
    0 < j.len → j.scout = 0 → j.done = 0 → (∀ a, j.fut = some a → s.futMoving j.part a = false) → j.d = .mem d → j.cv = 0 → (∀ off n, off + n ≤ j.len → s.dxFault (d + off) n = none) →
    (∀ a (b : Nat → Byte), j.op = .cpy → j.a = .mem a → (∀ k ∈ s.poison, k < a ∨ a + j.len ≤ k) →
      (∀ off n, off + n ≤ j.len → s.dxFault (a + off) n = none) →
      (j.src = [] ∧ (∀ i, i < j.len → b i = Mem.read s.mem (a + i)) ∨
        j.src = (cuts j.d j.a j.len).map fun c => (c.1, some ((List.range c.2).map fun i => b (c.1 + i)))) →
      ∃ t : State, exec (.driftJobEnd id) s = .next (State.work (t.endJob id (.ok 0))) ∧
        (∀ i, i < j.len → Mem.read t.mem (d + i) = b i) ∧
        (∀ k, k < d ∨ d + j.len ≤ k → Mem.read t.mem k = Mem.read s.mem k) ∧
        (∀ k, k ∈ t.poison ↔ k ∈ s.poison ∧ (k < d ∨ d + j.len ≤ k)) ∧ t = { s with mem := t.mem, poison := t.poison }) ∧
    (j.op = .fill → j.a = .none → 0 < j.pw → j.len % j.pw = 0 →
      ∃ t : State, exec (.driftJobEnd id) s = .next (State.work (t.endJob id (.ok 0))) ∧
        (∀ i, i < j.len → Mem.read t.mem (d + i) = BitVec.ofNat 8 (j.pat.toNat / 256 ^ (i % j.pw))) ∧
        (∀ k, k < d ∨ d + j.len ≤ k → Mem.read t.mem k = Mem.read s.mem k) ∧
        (∀ k, k ∈ t.poison ↔ k ∈ s.poison ∧ (k < d ∨ d + j.len ≤ k)) ∧ t = { s with mem := t.mem, poison := t.poison })
end

