-- ==== Sys2Proof/Laws/Codec.lean ====
section
/-! SUPPORT. Reading a field out of packed fields: what the round trip of an instruction's encoding rests on. -/

namespace Sys2Proof

theorem pack_cons_div {k v : Nat} {r : List (Nat × Nat)} {lo : Nat} (h : k ≤ lo) :
    pack ((k, v) :: r) / 2 ^ lo = pack r / 2 ^ (lo - k) := by
  obtain ⟨d, rfl⟩ := Nat.exists_eq_add_of_le h
  have hk : 0 < 2 ^ k := Nat.two_pow_pos k
  rw [pack, Nat.pow_add, ← Nat.div_div_eq_div_mul, Nat.add_mul_div_left _ _ hk, Nat.div_eq_of_lt (Nat.mod_lt _ hk), Nat.zero_add,
    Nat.add_sub_cancel_left]
theorem pack_cons_mod (k v : Nat) (r : List (Nat × Nat)) : pack ((k, v) :: r) % 2 ^ k = v % 2 ^ k := by
  rw [pack, Nat.add_mul_mod_self_left, Nat.mod_mod]

/-- A field above the first one. -/
theorem fld_skip {n k v : Nat} {r : List (Nat × Nat)} {lo : Nat} (h : k ≤ lo) :
    (fld (pack ((k, v) :: r)) lo : BitVec n) = fld (pack r) (lo - k) := by
  simp only [fld, pack_cons_div h]
/-- The first field. -/
theorem fld_here {k : Nat} (v : BitVec k) (r : List (Nat × Nat)) : (fld (pack ((k, v.toNat) :: r)) 0 : BitVec k) = v := by
  apply BitVec.eq_of_toNat_eq
  simp only [fld, Nat.pow_zero, Nat.div_one, BitVec.toNat_ofNat, pack_cons_mod]
  exact Nat.mod_eq_of_lt v.isLt
theorem flag_skip {k v : Nat} {r : List (Nat × Nat)} {lo : Nat} (h : k ≤ lo) :
    flag (pack ((k, v) :: r)) lo = flag (pack r) (lo - k) := by
  simp only [flag, pack_cons_div h]
theorem flag_here (b : Bool) (r : List (Nat × Nat)) : flag (pack ((1, b.toNat) :: r)) 0 = b := by
  have h := pack_cons_mod 1 b.toNat r
  simp only [Nat.pow_one] at h
  simp only [flag, Nat.pow_zero, Nat.div_one, h]
  cases b <;> rfl

/-- The width of packed fields. -/
def packWidth : List (Nat × Nat) → Nat
  | [] => 0
  | (k, _) :: r => k + packWidth r

theorem pack_append_div (l r : List (Nat × Nat)) {lo : Nat} (h : packWidth l ≤ lo) :
    pack (l ++ r) / 2 ^ lo = pack r / 2 ^ (lo - packWidth l) := by
  induction l generalizing lo with
  | nil => simp [packWidth]
  | cons x l ih =>
    obtain ⟨k, v⟩ := x
    simp only [packWidth] at h ⊢
    rw [List.cons_append, pack_cons_div (by omega), ih (by omega), Nat.sub_sub]

section
variable (ec op len : Nat) (q : Seqn) {low : List (Nat × Nat)} (high : List (Nat × Nat)) (hl : packWidth low = 42)
include hl

theorem packInstr_div (lo : Nat) : packInstr ec op len q low high / 2 ^ (44 + lo) =
    pack ((3, q.ti.toNat) :: (4, q.pr.toNat) :: (3, q.nxt.toNat) :: (7, op) :: (3, ec) :: high) / 2 ^ lo := by
  have hc : 44 + lo - 2 - 42 = lo := by omega
  rw [packInstr, pack_cons_div (by omega), pack_append_div _ _ (by omega), hl, hc]

/-- R249: the sequencing fields read back. -/
theorem decSeqn_packInstr : decSeqn (packInstr ec op len q low high) = q := by
  have h51 := packInstr_div ec op len q high hl 7
  have h47 := packInstr_div ec op len q high hl 3
  have h44 := packInstr_div ec op len q high hl 0
  simp only [Nat.reduceAdd] at h51 h47 h44
  simp only [decSeqn, fld, h51, h47, h44]
  have e1 := fld_here q.nxt ((7, op) :: (3, ec) :: high)
  have e2 := fld_here q.pr ((3, q.nxt.toNat) :: (7, op) :: (3, ec) :: high)
  have e3 := fld_here q.ti ((4, q.pr.toNat) :: (3, q.nxt.toNat) :: (7, op) :: (3, ec) :: high)
  rw [pack_cons_div (lo := 7) (by omega), pack_cons_div (lo := 7 - 3) (by omega), pack_cons_div (lo := 3) (by omega)]
  simp only [fld] at e1 e2 e3
  simp only [Nat.reduceSub, e1, e2, e3]

/-- R265: the engine class and the operation code read back. -/
theorem packInstr_class : packInstr ec op len q low high / 2 ^ 61 % 8 = ec % 8 := by
  have h := packInstr_div ec op len q high hl 17
  have m := pack_cons_mod 3 ec high
  simp only [Nat.reduceAdd] at h
  rw [h, pack_cons_div (by omega), pack_cons_div (by omega), pack_cons_div (by omega), pack_cons_div (by omega)]
  simpa using m
theorem packInstr_op : packInstr ec op len q low high / 2 ^ 54 % 128 = op % 128 := by
  have h := packInstr_div ec op len q high hl 10
  have m := pack_cons_mod 7 op ((3, ec) :: high)
  simp only [Nat.reduceAdd] at h
  rw [h, pack_cons_div (by omega), pack_cons_div (by omega), pack_cons_div (by omega)]
  simpa using m

end

/-- R249: LEN reads back. -/
theorem packInstr_len (ec op len : Nat) (q : Seqn) (low high : List (Nat × Nat)) : packInstr ec op len q low high % 4 = len % 4 :=
  pack_cons_mod 2 len _

/-- A bundle of fields in doubleword 0 reads back: every decoder of a bundle undoes its packing this way. -/
theorem decAlu_packInstr (ec op len : Nat) (q : Seqn) (high : List (Nat × Nat)) (o : Alu) :
    decAlu (packInstr ec op len q (lowAlu o) high) = o := by
  simp [decAlu, packInstr, lowAlu, fld_skip, flag_skip, fld_here, flag_here]
/-- The bundle that reaches furthest: all four doublewords of `lnop`. -/
theorem decLnopO_packInstr (ec op len : Nat) (q : Seqn) (y : Sync) (o : LnopO) :
    decLnopO (packInstr ec op len q (lowLnopO o) (packSync (cmdLnopO o) y (topLnopO o))) = o := by
  simp [decLnopO, packInstr, packSync, lowLnopO, cmdLnopO, topLnopO, fld_skip, flag_skip, fld_here, flag_here]

end Sys2Proof
end

