-- ==== Sys2Proof/Laws/Tables.lean ====
section
/-! SUPPORT. Laws of the sparse tables and of memory: reading after writing, and the canonical form, which every memory
operation keeps. -/

namespace Sys2Proof.Machine
open Sys2Proof

/-! Tables. -/

@[simp] theorem SMap.get?_nil {β : Type} (n : Nat) : SMap.get? ([] : SMap β) n = none := rfl

@[simp] theorem SMap.get?_put_same {β : Type} (m : SMap β) (n : Nat) (x : β) : SMap.get? (SMap.put m n x) n = some x := by
  induction m with
  | nil => simp [SMap.put, SMap.get?]
  | cons h r ih =>
    obtain ⟨k, v⟩ := h
    by_cases h1 : n < k
    · simp [SMap.put, SMap.get?, h1]
    · by_cases h2 : n = k
      · simp [SMap.put, SMap.get?, h2]
      · simp [SMap.put, SMap.get?, h1, h2, ih]

theorem SMap.get?_put_other {β : Type} (m : SMap β) {n j : Nat} (x : β) (hj : j ≠ n) :
    SMap.get? (SMap.put m n x) j = SMap.get? m j := by
  induction m with
  | nil => simp [SMap.put, SMap.get?, hj]
  | cons h r ih =>
    obtain ⟨k, v⟩ := h
    by_cases h1 : n < k
    · simp only [SMap.put, h1, if_true, SMap.get?, hj, if_false]
      by_cases h3 : j < n
      · simp [h3, show j ≠ k by omega, show j < k by omega]
      · simp [h3]
    · by_cases h2 : n = k
      · subst h2
        simp [SMap.put, SMap.get?, hj]
      · simp only [SMap.put, h1, h2, if_false, SMap.get?, ih]

/-- The later of two writes of a key stands. -/
@[simp] theorem SMap.put_put {β : Type} (m : SMap β) (n : Nat) (x y : β) : SMap.put (SMap.put m n x) n y = SMap.put m n y := by
  induction m with
  | nil => simp [SMap.put]
  | cons h r ih =>
    obtain ⟨k, v⟩ := h
    by_cases h1 : n < k
    · simp [SMap.put, h1]
    · by_cases h2 : n = k
      · simp [SMap.put, h2]
      · simp [SMap.put, h1, h2, ih]

@[simp] theorem SMap.getD_put_same {β : Type} (m : SMap β) (n : Nat) (x d : β) : SMap.getD (SMap.put m n x) n d = x := by
  simp [SMap.getD]

theorem SMap.getD_put_other {β : Type} (m : SMap β) {n j : Nat} (x d : β) (hj : j ≠ n) :
    SMap.getD (SMap.put m n x) j d = SMap.getD m j d := by
  simp [SMap.getD, SMap.get?_put_other m x hj]

/-- Keys strictly rising. -/
abbrev SMap.Rising {β : Type} (m : SMap β) : Prop := List.Pairwise (fun x y => x.1 < y.1) m

theorem SMap.get?_low {β : Type} {m : SMap β} {n : Nat} (h : ∀ x ∈ m, n < x.1) : SMap.get? m n = none := by
  cases m with
  | nil => rfl
  | cons x r =>
    obtain ⟨k, v⟩ := x
    have := h (k, v) (by simp)
    simp only [SMap.get?] at *
    simp [show n ≠ k by omega, this]

theorem SMap.mem_put {β : Type} {m : SMap β} {n : Nat} {x : β} {y : Nat × β} (h : y ∈ SMap.put m n x) : y = (n, x) ∨ y ∈ m := by
  induction m with
  | nil => simpa [SMap.put] using h
  | cons e r ih =>
    obtain ⟨k, v⟩ := e
    by_cases h1 : n < k
    · simpa [SMap.put, h1] using h
    · by_cases h2 : n = k
      · subst h2
        simp only [SMap.put, Nat.lt_irrefl, if_true, if_false, List.mem_cons] at h
        exact h.imp id fun h => by simp [h]
      · simp only [SMap.put, h1, h2, if_false, List.mem_cons] at h
        rcases h with h | h
        · exact .inr (by simp [h])
        · exact (ih h).imp id fun h => by simp [h]

theorem SMap.rising_put {β : Type} {m : SMap β} (n : Nat) (x : β) (h : SMap.Rising m) : SMap.Rising (SMap.put m n x) := by
  induction m with
  | nil => simp [SMap.put, SMap.Rising]
  | cons e r ih =>
    obtain ⟨k, v⟩ := e
    obtain ⟨hk, hr⟩ := List.pairwise_cons.1 h
    by_cases h1 : n < k
    · simp only [SMap.put, h1, if_true]
      refine List.pairwise_cons.2 ⟨fun y hy => ?_, h⟩
      rcases List.mem_cons.1 hy with hy | hy
      · subst hy; exact h1
      · exact Nat.lt_trans h1 (hk y hy)
    · by_cases h2 : n = k
      · subst h2
        simp only [SMap.put, Nat.lt_irrefl, if_true, if_false]
        exact List.pairwise_cons.2 ⟨hk, hr⟩
      · simp only [SMap.put, h1, h2, if_false]
        refine List.pairwise_cons.2 ⟨fun y hy => ?_, ih hr⟩
        rcases SMap.mem_put hy with rfl | hy
        · show k < n; omega
        · exact hk y hy

theorem SMap.mem_del {β : Type} {m : SMap β} {n : Nat} {y : Nat × β} (h : y ∈ SMap.del m n) : y ∈ m := by
  induction m with
  | nil => simp [SMap.del] at h
  | cons e r ih =>
    obtain ⟨k, v⟩ := e
    by_cases h1 : n = k
    · simp only [SMap.del, h1, if_true] at h; simp [h]
    · by_cases h2 : n < k
      · simpa [SMap.del, h1, h2] using h
      · simp only [SMap.del, h1, h2, if_false, List.mem_cons] at h
        rcases h with h | h
        · simp [h]
        · simp [ih h]

theorem SMap.rising_del {β : Type} {m : SMap β} (n : Nat) (h : SMap.Rising m) : SMap.Rising (SMap.del m n) := by
  induction m with
  | nil => simp [SMap.del, SMap.Rising]
  | cons e r ih =>
    obtain ⟨k, v⟩ := e
    obtain ⟨hk, hr⟩ := List.pairwise_cons.1 h
    by_cases h1 : n = k
    · simpa [SMap.del, h1] using hr
    · by_cases h2 : n < k
      · simpa [SMap.del, h1, h2] using h
      · simp only [SMap.del, h1, h2, if_false]
        exact List.pairwise_cons.2 ⟨fun y hy => hk y (SMap.mem_del hy), ih hr⟩

theorem SMap.get?_del_same {β : Type} {m : SMap β} (n : Nat) (h : SMap.Rising m) : SMap.get? (SMap.del m n) n = none := by
  induction m with
  | nil => rfl
  | cons e r ih =>
    obtain ⟨k, v⟩ := e
    obtain ⟨hk, hr⟩ := List.pairwise_cons.1 h
    by_cases h1 : n = k
    · simp only [SMap.del, h1, if_true]
      exact SMap.get?_low fun x hx => hk x hx
    · by_cases h2 : n < k
      · simp [SMap.del, h1, h2, SMap.get?]
      · simp [SMap.del, h1, h2, SMap.get?, ih hr]

theorem SMap.get?_del_other {β : Type} {m : SMap β} {n j : Nat} (h : SMap.Rising m) (hj : j ≠ n) :
    SMap.get? (SMap.del m n) j = SMap.get? m j := by
  induction m with
  | nil => rfl
  | cons e r ih =>
    obtain ⟨k, v⟩ := e
    obtain ⟨hk, hr⟩ := List.pairwise_cons.1 h
    by_cases h1 : n = k
    · subst h1
      simp only [SMap.del, if_true, SMap.get?, hj, if_false]
      by_cases h3 : j < n
      · simp only [h3, if_true]
        exact SMap.get?_low fun x hx => Nat.lt_trans h3 (hk x hx)
      · simp [h3]
    · by_cases h2 : n < k
      · simp [SMap.del, h1, h2]
      · simp only [SMap.del, h1, h2, if_false, SMap.get?, ih hr]

/-! Memory. -/

theorem Mem.wf_nil : Mem.wf [] := by simp [Mem.wf]

/-- A byte reads as it was written, and every other byte as before. -/
theorem Mem.read_write_same {m : SMap Byte} (k : Nat) (b : Byte) (h : Mem.wf m) : Mem.read (Mem.write m k b) k = b := by
  unfold Mem.read Mem.write
  split
  · next hb => simp [SMap.getD, SMap.get?_del_same k h.1, hb]
  · simp
theorem Mem.read_write_other {m : SMap Byte} {k j : Nat} (b : Byte) (h : Mem.wf m) (hj : j ≠ k) :
    Mem.read (Mem.write m k b) j = Mem.read m j := by
  unfold Mem.read Mem.write
  split
  · simp [SMap.getD, SMap.get?_del_other h.1 hj]
  · simp [SMap.getD_put_other m b Mem.fill hj]

theorem Mem.wf_write {m : SMap Byte} (k : Nat) (b : Byte) (h : Mem.wf m) : Mem.wf (Mem.write m k b) := by
  unfold Mem.write
  split
  · exact ⟨SMap.rising_del k h.1, fun x hx => h.2 x (SMap.mem_del hx)⟩
  · next hb =>
    refine ⟨SMap.rising_put k b h.1, fun x hx => ?_⟩
    rcases SMap.mem_put hx with rfl | hx
    · exact hb
    · exact h.2 x hx

theorem Mem.wf_writeN {m : SMap Byte} (k n v : Nat) (h : Mem.wf m) : Mem.wf (Mem.writeN m k n v) := by
  induction n generalizing m k v with
  | zero => exact h
  | succ n ih => exact ih _ _ (Mem.wf_write _ _ h)

theorem Mem.wf_writeL {m : SMap Byte} (k : Nat) (l : List Byte) (h : Mem.wf m) : Mem.wf (Mem.writeL m k l) := by
  induction l generalizing m k with
  | nil => exact h
  | cons b r ih => exact ih _ (Mem.wf_write _ _ h)

theorem Mem.wf_filter {m : SMap Byte} (p : Nat × Byte → Bool) (h : Mem.wf m) : Mem.wf (m.filter p) :=
  ⟨h.1.filter p, fun x hx => h.2 x (List.mem_filter.1 hx).1⟩

theorem Mem.wf_clear {m : SMap Byte} (lo n : Nat) (h : Mem.wf m) : Mem.wf (Mem.clear m lo n) := Mem.wf_filter _ h

/-- Bytes below or above a written range read as before. -/
theorem Mem.read_writeL_other {m : SMap Byte} {k j : Nat} (l : List Byte) (h : Mem.wf m) (hj : j < k ∨ k + l.length ≤ j) :
    Mem.read (Mem.writeL m k l) j = Mem.read m j := by
  induction l generalizing m k with
  | nil => rfl
  | cons b r ih =>
    simp only [List.length_cons] at hj
    rw [Mem.writeL, ih (Mem.wf_write k b h) (by omega), Mem.read_write_other b h (by omega)]

/-- Each byte of a written range reads as written. -/
theorem Mem.read_writeL_at {m : SMap Byte} (k : Nat) (l : List Byte) (h : Mem.wf m) (i : Nat) (hi : i < l.length) :
    Mem.read (Mem.writeL m k l) (k + i) = l[i] := by
  induction l generalizing m k i with
  | nil => simp at hi
  | cons b r ih =>
    cases i with
    | zero =>
      rw [Mem.writeL, Mem.read_writeL_other r (Mem.wf_write k b h) (by omega)]
      simpa using Mem.read_write_same k b h
    | succ i =>
      have := ih (k := k + 1) (Mem.wf_write k b h) i (by simpa using hi)
      rw [Mem.writeL, show k + (i + 1) = k + 1 + i by omega, this]
      rfl

theorem Mem.readL_writeL {m : SMap Byte} (k : Nat) (l : List Byte) (h : Mem.wf m) : Mem.readL (Mem.writeL m k l) k l.length = l := by
  refine List.ext_getElem (by simp [Mem.readL]) fun i h1 h2 => ?_
  simpa [Mem.readL] using Mem.read_writeL_at k l h i (by simpa using h2)

theorem Mem.readL_writeL_other {m : SMap Byte} {k j n : Nat} (l : List Byte) (h : Mem.wf m) (hj : j + n ≤ k ∨ k + l.length ≤ j) :
    Mem.readL (Mem.writeL m k l) j n = Mem.readL m j n := by
  unfold Mem.readL
  refine List.map_congr_left fun i hi => Mem.read_writeL_other l h ?_
  have := List.mem_range.1 hi
  omega

@[simp] theorem Mem.readL_length (m : SMap Byte) (k n : Nat) : (Mem.readL m k n).length = n := by simp [Mem.readL]

theorem leNat_lt (l : List Byte) : leNat l < 256 ^ l.length := by
  induction l with
  | nil => simp [leNat]
  | cons b r ih =>
    have := b.isLt
    simp only [leNat, List.length_cons, Nat.pow_succ]
    omega

@[simp] theorem leBytes_length (n v : Nat) : (leBytes n v).length = n := by
  induction n generalizing v with
  | zero => rfl
  | succ n ih => simp [leBytes, ih]

/-- A number read back from its bytes. -/
theorem leNat_leBytes (n v : Nat) : leNat (leBytes n v) = v % 256 ^ n := by
  induction n generalizing v with
  | zero => simp [leBytes, leNat, Nat.mod_one]
  | succ n ih =>
    show (BitVec.ofNat 8 v).toNat + 256 * leNat (leBytes n (v / 256)) = v % 256 ^ (n + 1)
    have h : 256 ^ (n + 1) = 256 * 256 ^ n := by rw [Nat.pow_succ, Nat.mul_comm]
    rw [ih, BitVec.toNat_ofNat, h, Nat.mod_mul]

end Sys2Proof.Machine
end

