-- ==== Sys2Proof/Laws/State.lean ====
section
/-! SUPPORT. One lemma for each field and each update of the state and of a context: what an update leaves as it was, and what
reads back. -/

namespace Sys2Proof.Machine
open Sys2Proof

/-! The state: fields that an update does not touch. -/

variable (s : State)
@[simp] theorem State.setCtx_mem (k : Nat) (c : Ctx) : (s.setCtx k c).mem = s.mem := rfl
@[simp] theorem State.setCtx_poison (k : Nat) (c : Ctx) : (s.setCtx k c).poison = s.poison := rfl
@[simp] theorem State.setCtx_mgmt (k : Nat) (c : Ctx) : (s.setCtx k c).mgmt = s.mgmt := rfl
@[simp] theorem State.setCtx_sec (k : Nat) (c : Ctx) : (s.setCtx k c).sec = s.sec := rfl
@[simp] theorem State.setCtx_power (k : Nat) (c : Ctx) : (s.setCtx k c).power = s.power := rfl
@[simp] theorem State.setCtx_net (k : Nat) (c : Ctx) : (s.setCtx k c).net = s.net := rfl
@[simp] theorem State.setCtx_bclk (k : Nat) (c : Ctx) : (s.setCtx k c).bclk = s.bclk := rfl
@[simp] theorem State.setCtx_parts (k : Nat) (c : Ctx) : (s.setCtx k c).parts = s.parts := rfl
@[simp] theorem State.setCtx_clusters (k : Nat) (c : Ctx) : (s.setCtx k c).clusters = s.clusters := rfl
@[simp] theorem State.setCtx_grants (k : Nat) (c : Ctx) : (s.setCtx k c).grants = s.grants := rfl
@[simp] theorem State.setCtx_qs (k : Nat) (c : Ctx) : (s.setCtx k c).qs = s.qs := rfl
@[simp] theorem State.setCtx_cur (k : Nat) (c : Ctx) : (s.setCtx k c).cur = s.cur := rfl
@[simp] theorem State.setCtx_sems (k : Nat) (c : Ctx) : (s.setCtx k c).sems = s.sems := rfl
@[simp] theorem State.setCtx_watch (k : Nat) (c : Ctx) : (s.setCtx k c).watch = s.watch := rfl
@[simp] theorem State.setCtx_tiles (k : Nat) (c : Ctx) : (s.setCtx k c).tiles = s.tiles := rfl
@[simp] theorem State.setCtx_pages (k : Nat) (c : Ctx) : (s.setCtx k c).pages = s.pages := rfl
@[simp] theorem State.setCtx_quotas (k : Nat) (c : Ctx) : (s.setCtx k c).quotas = s.quotas := rfl
@[simp] theorem State.setCtx_reqs (k : Nat) (c : Ctx) : (s.setCtx k c).reqs = s.reqs := rfl
@[simp] theorem State.setCtx_holds (k : Nat) (c : Ctx) : (s.setCtx k c).holds = s.holds := rfl
@[simp] theorem State.setCtx_moved (k : Nat) (c : Ctx) : (s.setCtx k c).moved = s.moved := rfl
@[simp] theorem State.setCtx_tileMoves (k : Nat) (c : Ctx) : (s.setCtx k c).tileMoves = s.tileMoves := rfl
@[simp] theorem State.setCtx_streams (k : Nat) (c : Ctx) : (s.setCtx k c).streams = s.streams := rfl
@[simp] theorem State.setCtx_subs (k : Nat) (c : Ctx) : (s.setCtx k c).subs = s.subs := rfl
@[simp] theorem State.setCtx_tasks (k : Nat) (c : Ctx) : (s.setCtx k c).tasks = s.tasks := rfl
@[simp] theorem State.setCtx_launches (k : Nat) (c : Ctx) : (s.setCtx k c).launches = s.launches := rfl
@[simp] theorem State.setCtx_gangs (k : Nat) (c : Ctx) : (s.setCtx k c).gangs = s.gangs := rfl
@[simp] theorem State.setCtx_pithead (k : Nat) (c : Ctx) : (s.setCtx k c).pithead = s.pithead := rfl
@[simp] theorem State.setCtx_deques (k : Nat) (c : Ctx) : (s.setCtx k c).deques = s.deques := rfl
@[simp] theorem State.setCtx_members (k : Nat) (c : Ctx) : (s.setCtx k c).members = s.members := rfl
@[simp] theorem State.setCtx_saves (k : Nat) (c : Ctx) : (s.setCtx k c).saves = s.saves := rfl
@[simp] theorem State.setCtx_keepers (k : Nat) (c : Ctx) : (s.setCtx k c).keepers = s.keepers := rfl
@[simp] theorem State.setCtx_jobs (k : Nat) (c : Ctx) : (s.setCtx k c).jobs = s.jobs := rfl
@[simp] theorem State.setCtx_futs (k : Nat) (c : Ctx) : (s.setCtx k c).futs = s.futs := rfl
@[simp] theorem State.setCtx_scratch (k : Nat) (c : Ctx) : (s.setCtx k c).scratch = s.scratch := rfl
@[simp] theorem State.setCtx_splits (k : Nat) (c : Ctx) : (s.setCtx k c).splits = s.splits := rfl
@[simp] theorem State.setCtx_monitors (k : Nat) (c : Ctx) : (s.setCtx k c).monitors = s.monitors := rfl
@[simp] theorem State.setCtx_moves (k : Nat) (c : Ctx) : (s.setCtx k c).moves = s.moves := rfl
@[simp] theorem State.setCtx_migs (k : Nat) (c : Ctx) : (s.setCtx k c).migs = s.migs := rfl
@[simp] theorem State.setCtx_dead (k : Nat) (c : Ctx) : (s.setCtx k c).dead = s.dead := rfl
@[simp] theorem State.setCtx_hdm (k : Nat) (c : Ctx) : (s.setCtx k c).hdm = s.hdm := rfl
@[simp] theorem State.setCtx_hostOut (k : Nat) (c : Ctx) : (s.setCtx k c).hostOut = s.hostOut := rfl
@[simp] theorem State.setCtx_refused (k : Nat) (c : Ctx) : (s.setCtx k c).refused = s.refused := rfl
@[simp] theorem State.setCtx_spdm (k : Nat) (c : Ctx) : (s.setCtx k c).spdm = s.spdm := rfl
@[simp] theorem State.setCtx_icache (k : Nat) (c : Ctx) : (s.setCtx k c).icache = s.icache := rfl
@[simp] theorem State.setCtx_names (k : Nat) (c : Ctx) : (s.setCtx k c).names = s.names := rfl
@[simp] theorem State.setCtx_held (k : Nat) (c : Ctx) : (s.setCtx k c).held = s.held := rfl
@[simp] theorem State.setCtx_shared (k : Nat) (c : Ctx) : (s.setCtx k c).shared = s.shared := rfl
@[simp] theorem State.setCtx_nextId (k : Nat) (c : Ctx) : (s.setCtx k c).nextId = s.nextId := rfl
@[simp] theorem State.setCtx_freeCtr (k : Nat) (c : Ctx) : (s.setCtx k c).freeCtr = s.freeCtr := rfl
@[simp] theorem State.setCtx_agenda (k : Nat) (c : Ctx) : (s.setCtx k c).agenda = s.agenda := rfl
@[simp] theorem State.modCtx_mem (k : Nat) (f : Ctx → Ctx) : (s.modCtx k f).mem = s.mem := rfl
@[simp] theorem State.modCtx_poison (k : Nat) (f : Ctx → Ctx) : (s.modCtx k f).poison = s.poison := rfl
@[simp] theorem State.modCtx_mgmt (k : Nat) (f : Ctx → Ctx) : (s.modCtx k f).mgmt = s.mgmt := rfl
@[simp] theorem State.modCtx_sec (k : Nat) (f : Ctx → Ctx) : (s.modCtx k f).sec = s.sec := rfl
@[simp] theorem State.modCtx_power (k : Nat) (f : Ctx → Ctx) : (s.modCtx k f).power = s.power := rfl
@[simp] theorem State.modCtx_net (k : Nat) (f : Ctx → Ctx) : (s.modCtx k f).net = s.net := rfl
@[simp] theorem State.modCtx_bclk (k : Nat) (f : Ctx → Ctx) : (s.modCtx k f).bclk = s.bclk := rfl
@[simp] theorem State.modCtx_parts (k : Nat) (f : Ctx → Ctx) : (s.modCtx k f).parts = s.parts := rfl
@[simp] theorem State.modCtx_clusters (k : Nat) (f : Ctx → Ctx) : (s.modCtx k f).clusters = s.clusters := rfl
@[simp] theorem State.modCtx_grants (k : Nat) (f : Ctx → Ctx) : (s.modCtx k f).grants = s.grants := rfl
@[simp] theorem State.modCtx_qs (k : Nat) (f : Ctx → Ctx) : (s.modCtx k f).qs = s.qs := rfl
@[simp] theorem State.modCtx_cur (k : Nat) (f : Ctx → Ctx) : (s.modCtx k f).cur = s.cur := rfl
@[simp] theorem State.modCtx_sems (k : Nat) (f : Ctx → Ctx) : (s.modCtx k f).sems = s.sems := rfl
@[simp] theorem State.modCtx_watch (k : Nat) (f : Ctx → Ctx) : (s.modCtx k f).watch = s.watch := rfl
@[simp] theorem State.modCtx_tiles (k : Nat) (f : Ctx → Ctx) : (s.modCtx k f).tiles = s.tiles := rfl
@[simp] theorem State.modCtx_pages (k : Nat) (f : Ctx → Ctx) : (s.modCtx k f).pages = s.pages := rfl
@[simp] theorem State.modCtx_quotas (k : Nat) (f : Ctx → Ctx) : (s.modCtx k f).quotas = s.quotas := rfl
@[simp] theorem State.modCtx_reqs (k : Nat) (f : Ctx → Ctx) : (s.modCtx k f).reqs = s.reqs := rfl
@[simp] theorem State.modCtx_holds (k : Nat) (f : Ctx → Ctx) : (s.modCtx k f).holds = s.holds := rfl
@[simp] theorem State.modCtx_moved (k : Nat) (f : Ctx → Ctx) : (s.modCtx k f).moved = s.moved := rfl
@[simp] theorem State.modCtx_tileMoves (k : Nat) (f : Ctx → Ctx) : (s.modCtx k f).tileMoves = s.tileMoves := rfl
@[simp] theorem State.modCtx_streams (k : Nat) (f : Ctx → Ctx) : (s.modCtx k f).streams = s.streams := rfl
@[simp] theorem State.modCtx_subs (k : Nat) (f : Ctx → Ctx) : (s.modCtx k f).subs = s.subs := rfl
@[simp] theorem State.modCtx_tasks (k : Nat) (f : Ctx → Ctx) : (s.modCtx k f).tasks = s.tasks := rfl
@[simp] theorem State.modCtx_launches (k : Nat) (f : Ctx → Ctx) : (s.modCtx k f).launches = s.launches := rfl
@[simp] theorem State.modCtx_gangs (k : Nat) (f : Ctx → Ctx) : (s.modCtx k f).gangs = s.gangs := rfl
@[simp] theorem State.modCtx_pithead (k : Nat) (f : Ctx → Ctx) : (s.modCtx k f).pithead = s.pithead := rfl
@[simp] theorem State.modCtx_deques (k : Nat) (f : Ctx → Ctx) : (s.modCtx k f).deques = s.deques := rfl
@[simp] theorem State.modCtx_members (k : Nat) (f : Ctx → Ctx) : (s.modCtx k f).members = s.members := rfl
@[simp] theorem State.modCtx_saves (k : Nat) (f : Ctx → Ctx) : (s.modCtx k f).saves = s.saves := rfl
@[simp] theorem State.modCtx_keepers (k : Nat) (f : Ctx → Ctx) : (s.modCtx k f).keepers = s.keepers := rfl
@[simp] theorem State.modCtx_jobs (k : Nat) (f : Ctx → Ctx) : (s.modCtx k f).jobs = s.jobs := rfl
@[simp] theorem State.modCtx_futs (k : Nat) (f : Ctx → Ctx) : (s.modCtx k f).futs = s.futs := rfl
@[simp] theorem State.modCtx_scratch (k : Nat) (f : Ctx → Ctx) : (s.modCtx k f).scratch = s.scratch := rfl
@[simp] theorem State.modCtx_splits (k : Nat) (f : Ctx → Ctx) : (s.modCtx k f).splits = s.splits := rfl
@[simp] theorem State.modCtx_monitors (k : Nat) (f : Ctx → Ctx) : (s.modCtx k f).monitors = s.monitors := rfl
@[simp] theorem State.modCtx_moves (k : Nat) (f : Ctx → Ctx) : (s.modCtx k f).moves = s.moves := rfl
@[simp] theorem State.modCtx_migs (k : Nat) (f : Ctx → Ctx) : (s.modCtx k f).migs = s.migs := rfl
@[simp] theorem State.modCtx_dead (k : Nat) (f : Ctx → Ctx) : (s.modCtx k f).dead = s.dead := rfl
@[simp] theorem State.modCtx_hdm (k : Nat) (f : Ctx → Ctx) : (s.modCtx k f).hdm = s.hdm := rfl
@[simp] theorem State.modCtx_hostOut (k : Nat) (f : Ctx → Ctx) : (s.modCtx k f).hostOut = s.hostOut := rfl
@[simp] theorem State.modCtx_refused (k : Nat) (f : Ctx → Ctx) : (s.modCtx k f).refused = s.refused := rfl
@[simp] theorem State.modCtx_spdm (k : Nat) (f : Ctx → Ctx) : (s.modCtx k f).spdm = s.spdm := rfl
@[simp] theorem State.modCtx_icache (k : Nat) (f : Ctx → Ctx) : (s.modCtx k f).icache = s.icache := rfl
@[simp] theorem State.modCtx_names (k : Nat) (f : Ctx → Ctx) : (s.modCtx k f).names = s.names := rfl
@[simp] theorem State.modCtx_held (k : Nat) (f : Ctx → Ctx) : (s.modCtx k f).held = s.held := rfl
@[simp] theorem State.modCtx_shared (k : Nat) (f : Ctx → Ctx) : (s.modCtx k f).shared = s.shared := rfl
@[simp] theorem State.modCtx_nextId (k : Nat) (f : Ctx → Ctx) : (s.modCtx k f).nextId = s.nextId := rfl
@[simp] theorem State.modCtx_freeCtr (k : Nat) (f : Ctx → Ctx) : (s.modCtx k f).freeCtr = s.freeCtr := rfl
@[simp] theorem State.modCtx_agenda (k : Nat) (f : Ctx → Ctx) : (s.modCtx k f).agenda = s.agenda := rfl
@[simp] theorem State.setPart_mem (p : Nat) (x : Part) : (s.setPart p x).mem = s.mem := rfl
@[simp] theorem State.setPart_poison (p : Nat) (x : Part) : (s.setPart p x).poison = s.poison := rfl
@[simp] theorem State.setPart_mgmt (p : Nat) (x : Part) : (s.setPart p x).mgmt = s.mgmt := rfl
@[simp] theorem State.setPart_sec (p : Nat) (x : Part) : (s.setPart p x).sec = s.sec := rfl
@[simp] theorem State.setPart_power (p : Nat) (x : Part) : (s.setPart p x).power = s.power := rfl
@[simp] theorem State.setPart_net (p : Nat) (x : Part) : (s.setPart p x).net = s.net := rfl
@[simp] theorem State.setPart_bclk (p : Nat) (x : Part) : (s.setPart p x).bclk = s.bclk := rfl
@[simp] theorem State.setPart_clusters (p : Nat) (x : Part) : (s.setPart p x).clusters = s.clusters := rfl
@[simp] theorem State.setPart_grants (p : Nat) (x : Part) : (s.setPart p x).grants = s.grants := rfl
@[simp] theorem State.setPart_qs (p : Nat) (x : Part) : (s.setPart p x).qs = s.qs := rfl
@[simp] theorem State.setPart_ctxs (p : Nat) (x : Part) : (s.setPart p x).ctxs = s.ctxs := rfl
@[simp] theorem State.setPart_cur (p : Nat) (x : Part) : (s.setPart p x).cur = s.cur := rfl
@[simp] theorem State.setPart_sems (p : Nat) (x : Part) : (s.setPart p x).sems = s.sems := rfl
@[simp] theorem State.setPart_watch (p : Nat) (x : Part) : (s.setPart p x).watch = s.watch := rfl
@[simp] theorem State.setPart_tiles (p : Nat) (x : Part) : (s.setPart p x).tiles = s.tiles := rfl
@[simp] theorem State.setPart_pages (p : Nat) (x : Part) : (s.setPart p x).pages = s.pages := rfl
@[simp] theorem State.setPart_quotas (p : Nat) (x : Part) : (s.setPart p x).quotas = s.quotas := rfl
@[simp] theorem State.setPart_reqs (p : Nat) (x : Part) : (s.setPart p x).reqs = s.reqs := rfl
@[simp] theorem State.setPart_holds (p : Nat) (x : Part) : (s.setPart p x).holds = s.holds := rfl
@[simp] theorem State.setPart_moved (p : Nat) (x : Part) : (s.setPart p x).moved = s.moved := rfl
@[simp] theorem State.setPart_tileMoves (p : Nat) (x : Part) : (s.setPart p x).tileMoves = s.tileMoves := rfl
@[simp] theorem State.setPart_streams (p : Nat) (x : Part) : (s.setPart p x).streams = s.streams := rfl
@[simp] theorem State.setPart_subs (p : Nat) (x : Part) : (s.setPart p x).subs = s.subs := rfl
@[simp] theorem State.setPart_tasks (p : Nat) (x : Part) : (s.setPart p x).tasks = s.tasks := rfl
@[simp] theorem State.setPart_launches (p : Nat) (x : Part) : (s.setPart p x).launches = s.launches := rfl
@[simp] theorem State.setPart_gangs (p : Nat) (x : Part) : (s.setPart p x).gangs = s.gangs := rfl
@[simp] theorem State.setPart_pithead (p : Nat) (x : Part) : (s.setPart p x).pithead = s.pithead := rfl
@[simp] theorem State.setPart_deques (p : Nat) (x : Part) : (s.setPart p x).deques = s.deques := rfl
@[simp] theorem State.setPart_members (p : Nat) (x : Part) : (s.setPart p x).members = s.members := rfl
@[simp] theorem State.setPart_saves (p : Nat) (x : Part) : (s.setPart p x).saves = s.saves := rfl
@[simp] theorem State.setPart_keepers (p : Nat) (x : Part) : (s.setPart p x).keepers = s.keepers := rfl
@[simp] theorem State.setPart_jobs (p : Nat) (x : Part) : (s.setPart p x).jobs = s.jobs := rfl
@[simp] theorem State.setPart_futs (p : Nat) (x : Part) : (s.setPart p x).futs = s.futs := rfl
@[simp] theorem State.setPart_scratch (p : Nat) (x : Part) : (s.setPart p x).scratch = s.scratch := rfl
@[simp] theorem State.setPart_splits (p : Nat) (x : Part) : (s.setPart p x).splits = s.splits := rfl
@[simp] theorem State.setPart_monitors (p : Nat) (x : Part) : (s.setPart p x).monitors = s.monitors := rfl
@[simp] theorem State.setPart_moves (p : Nat) (x : Part) : (s.setPart p x).moves = s.moves := rfl
@[simp] theorem State.setPart_migs (p : Nat) (x : Part) : (s.setPart p x).migs = s.migs := rfl
@[simp] theorem State.setPart_dead (p : Nat) (x : Part) : (s.setPart p x).dead = s.dead := rfl
@[simp] theorem State.setPart_hdm (p : Nat) (x : Part) : (s.setPart p x).hdm = s.hdm := rfl
@[simp] theorem State.setPart_hostOut (p : Nat) (x : Part) : (s.setPart p x).hostOut = s.hostOut := rfl
@[simp] theorem State.setPart_refused (p : Nat) (x : Part) : (s.setPart p x).refused = s.refused := rfl
@[simp] theorem State.setPart_spdm (p : Nat) (x : Part) : (s.setPart p x).spdm = s.spdm := rfl
@[simp] theorem State.setPart_icache (p : Nat) (x : Part) : (s.setPart p x).icache = s.icache := rfl
@[simp] theorem State.setPart_names (p : Nat) (x : Part) : (s.setPart p x).names = s.names := rfl
@[simp] theorem State.setPart_held (p : Nat) (x : Part) : (s.setPart p x).held = s.held := rfl
@[simp] theorem State.setPart_shared (p : Nat) (x : Part) : (s.setPart p x).shared = s.shared := rfl
@[simp] theorem State.setPart_nextId (p : Nat) (x : Part) : (s.setPart p x).nextId = s.nextId := rfl
@[simp] theorem State.setPart_freeCtr (p : Nat) (x : Part) : (s.setPart p x).freeCtr = s.freeCtr := rfl
@[simp] theorem State.setPart_agenda (p : Nat) (x : Part) : (s.setPart p x).agenda = s.agenda := rfl
@[simp] theorem State.setTask_mem (t : Nat) (x : Task) : (s.setTask t x).mem = s.mem := rfl
@[simp] theorem State.setTask_poison (t : Nat) (x : Task) : (s.setTask t x).poison = s.poison := rfl
@[simp] theorem State.setTask_mgmt (t : Nat) (x : Task) : (s.setTask t x).mgmt = s.mgmt := rfl
@[simp] theorem State.setTask_sec (t : Nat) (x : Task) : (s.setTask t x).sec = s.sec := rfl
@[simp] theorem State.setTask_power (t : Nat) (x : Task) : (s.setTask t x).power = s.power := rfl
@[simp] theorem State.setTask_net (t : Nat) (x : Task) : (s.setTask t x).net = s.net := rfl
@[simp] theorem State.setTask_bclk (t : Nat) (x : Task) : (s.setTask t x).bclk = s.bclk := rfl
@[simp] theorem State.setTask_parts (t : Nat) (x : Task) : (s.setTask t x).parts = s.parts := rfl
@[simp] theorem State.setTask_clusters (t : Nat) (x : Task) : (s.setTask t x).clusters = s.clusters := rfl
@[simp] theorem State.setTask_grants (t : Nat) (x : Task) : (s.setTask t x).grants = s.grants := rfl
@[simp] theorem State.setTask_qs (t : Nat) (x : Task) : (s.setTask t x).qs = s.qs := rfl
@[simp] theorem State.setTask_ctxs (t : Nat) (x : Task) : (s.setTask t x).ctxs = s.ctxs := rfl
@[simp] theorem State.setTask_cur (t : Nat) (x : Task) : (s.setTask t x).cur = s.cur := rfl
@[simp] theorem State.setTask_sems (t : Nat) (x : Task) : (s.setTask t x).sems = s.sems := rfl
@[simp] theorem State.setTask_watch (t : Nat) (x : Task) : (s.setTask t x).watch = s.watch := rfl
@[simp] theorem State.setTask_tiles (t : Nat) (x : Task) : (s.setTask t x).tiles = s.tiles := rfl
@[simp] theorem State.setTask_pages (t : Nat) (x : Task) : (s.setTask t x).pages = s.pages := rfl
@[simp] theorem State.setTask_quotas (t : Nat) (x : Task) : (s.setTask t x).quotas = s.quotas := rfl
@[simp] theorem State.setTask_reqs (t : Nat) (x : Task) : (s.setTask t x).reqs = s.reqs := rfl
@[simp] theorem State.setTask_holds (t : Nat) (x : Task) : (s.setTask t x).holds = s.holds := rfl
@[simp] theorem State.setTask_moved (t : Nat) (x : Task) : (s.setTask t x).moved = s.moved := rfl
@[simp] theorem State.setTask_tileMoves (t : Nat) (x : Task) : (s.setTask t x).tileMoves = s.tileMoves := rfl
@[simp] theorem State.setTask_streams (t : Nat) (x : Task) : (s.setTask t x).streams = s.streams := rfl
@[simp] theorem State.setTask_subs (t : Nat) (x : Task) : (s.setTask t x).subs = s.subs := rfl
@[simp] theorem State.setTask_launches (t : Nat) (x : Task) : (s.setTask t x).launches = s.launches := rfl
@[simp] theorem State.setTask_gangs (t : Nat) (x : Task) : (s.setTask t x).gangs = s.gangs := rfl
@[simp] theorem State.setTask_pithead (t : Nat) (x : Task) : (s.setTask t x).pithead = s.pithead := rfl
@[simp] theorem State.setTask_deques (t : Nat) (x : Task) : (s.setTask t x).deques = s.deques := rfl
@[simp] theorem State.setTask_members (t : Nat) (x : Task) : (s.setTask t x).members = s.members := rfl
@[simp] theorem State.setTask_saves (t : Nat) (x : Task) : (s.setTask t x).saves = s.saves := rfl
@[simp] theorem State.setTask_keepers (t : Nat) (x : Task) : (s.setTask t x).keepers = s.keepers := rfl
@[simp] theorem State.setTask_jobs (t : Nat) (x : Task) : (s.setTask t x).jobs = s.jobs := rfl
@[simp] theorem State.setTask_futs (t : Nat) (x : Task) : (s.setTask t x).futs = s.futs := rfl
@[simp] theorem State.setTask_scratch (t : Nat) (x : Task) : (s.setTask t x).scratch = s.scratch := rfl
@[simp] theorem State.setTask_splits (t : Nat) (x : Task) : (s.setTask t x).splits = s.splits := rfl
@[simp] theorem State.setTask_monitors (t : Nat) (x : Task) : (s.setTask t x).monitors = s.monitors := rfl
@[simp] theorem State.setTask_moves (t : Nat) (x : Task) : (s.setTask t x).moves = s.moves := rfl
@[simp] theorem State.setTask_migs (t : Nat) (x : Task) : (s.setTask t x).migs = s.migs := rfl
@[simp] theorem State.setTask_dead (t : Nat) (x : Task) : (s.setTask t x).dead = s.dead := rfl
@[simp] theorem State.setTask_hdm (t : Nat) (x : Task) : (s.setTask t x).hdm = s.hdm := rfl
@[simp] theorem State.setTask_hostOut (t : Nat) (x : Task) : (s.setTask t x).hostOut = s.hostOut := rfl
@[simp] theorem State.setTask_refused (t : Nat) (x : Task) : (s.setTask t x).refused = s.refused := rfl
@[simp] theorem State.setTask_spdm (t : Nat) (x : Task) : (s.setTask t x).spdm = s.spdm := rfl
@[simp] theorem State.setTask_icache (t : Nat) (x : Task) : (s.setTask t x).icache = s.icache := rfl
@[simp] theorem State.setTask_names (t : Nat) (x : Task) : (s.setTask t x).names = s.names := rfl
@[simp] theorem State.setTask_held (t : Nat) (x : Task) : (s.setTask t x).held = s.held := rfl
@[simp] theorem State.setTask_shared (t : Nat) (x : Task) : (s.setTask t x).shared = s.shared := rfl
@[simp] theorem State.setTask_nextId (t : Nat) (x : Task) : (s.setTask t x).nextId = s.nextId := rfl
@[simp] theorem State.setTask_freeCtr (t : Nat) (x : Task) : (s.setTask t x).freeCtr = s.freeCtr := rfl
@[simp] theorem State.setTask_agenda (t : Nat) (x : Task) : (s.setTask t x).agenda = s.agenda := rfl
@[simp] theorem State.modTask_mem (t : Nat) (f : Task → Task) : (s.modTask t f).mem = s.mem := rfl
@[simp] theorem State.modTask_poison (t : Nat) (f : Task → Task) : (s.modTask t f).poison = s.poison := rfl
@[simp] theorem State.modTask_mgmt (t : Nat) (f : Task → Task) : (s.modTask t f).mgmt = s.mgmt := rfl
@[simp] theorem State.modTask_sec (t : Nat) (f : Task → Task) : (s.modTask t f).sec = s.sec := rfl
@[simp] theorem State.modTask_power (t : Nat) (f : Task → Task) : (s.modTask t f).power = s.power := rfl
@[simp] theorem State.modTask_net (t : Nat) (f : Task → Task) : (s.modTask t f).net = s.net := rfl
@[simp] theorem State.modTask_bclk (t : Nat) (f : Task → Task) : (s.modTask t f).bclk = s.bclk := rfl
@[simp] theorem State.modTask_parts (t : Nat) (f : Task → Task) : (s.modTask t f).parts = s.parts := rfl
@[simp] theorem State.modTask_clusters (t : Nat) (f : Task → Task) : (s.modTask t f).clusters = s.clusters := rfl
@[simp] theorem State.modTask_grants (t : Nat) (f : Task → Task) : (s.modTask t f).grants = s.grants := rfl
@[simp] theorem State.modTask_qs (t : Nat) (f : Task → Task) : (s.modTask t f).qs = s.qs := rfl
@[simp] theorem State.modTask_ctxs (t : Nat) (f : Task → Task) : (s.modTask t f).ctxs = s.ctxs := rfl
@[simp] theorem State.modTask_cur (t : Nat) (f : Task → Task) : (s.modTask t f).cur = s.cur := rfl
@[simp] theorem State.modTask_sems (t : Nat) (f : Task → Task) : (s.modTask t f).sems = s.sems := rfl
@[simp] theorem State.modTask_watch (t : Nat) (f : Task → Task) : (s.modTask t f).watch = s.watch := rfl
@[simp] theorem State.modTask_tiles (t : Nat) (f : Task → Task) : (s.modTask t f).tiles = s.tiles := rfl
@[simp] theorem State.modTask_pages (t : Nat) (f : Task → Task) : (s.modTask t f).pages = s.pages := rfl
@[simp] theorem State.modTask_quotas (t : Nat) (f : Task → Task) : (s.modTask t f).quotas = s.quotas := rfl
@[simp] theorem State.modTask_reqs (t : Nat) (f : Task → Task) : (s.modTask t f).reqs = s.reqs := rfl
@[simp] theorem State.modTask_holds (t : Nat) (f : Task → Task) : (s.modTask t f).holds = s.holds := rfl
@[simp] theorem State.modTask_moved (t : Nat) (f : Task → Task) : (s.modTask t f).moved = s.moved := rfl
@[simp] theorem State.modTask_tileMoves (t : Nat) (f : Task → Task) : (s.modTask t f).tileMoves = s.tileMoves := rfl
@[simp] theorem State.modTask_streams (t : Nat) (f : Task → Task) : (s.modTask t f).streams = s.streams := rfl
@[simp] theorem State.modTask_subs (t : Nat) (f : Task → Task) : (s.modTask t f).subs = s.subs := rfl
@[simp] theorem State.modTask_launches (t : Nat) (f : Task → Task) : (s.modTask t f).launches = s.launches := rfl
@[simp] theorem State.modTask_gangs (t : Nat) (f : Task → Task) : (s.modTask t f).gangs = s.gangs := rfl
@[simp] theorem State.modTask_pithead (t : Nat) (f : Task → Task) : (s.modTask t f).pithead = s.pithead := rfl
@[simp] theorem State.modTask_deques (t : Nat) (f : Task → Task) : (s.modTask t f).deques = s.deques := rfl
@[simp] theorem State.modTask_members (t : Nat) (f : Task → Task) : (s.modTask t f).members = s.members := rfl
@[simp] theorem State.modTask_saves (t : Nat) (f : Task → Task) : (s.modTask t f).saves = s.saves := rfl
@[simp] theorem State.modTask_keepers (t : Nat) (f : Task → Task) : (s.modTask t f).keepers = s.keepers := rfl
@[simp] theorem State.modTask_jobs (t : Nat) (f : Task → Task) : (s.modTask t f).jobs = s.jobs := rfl
@[simp] theorem State.modTask_futs (t : Nat) (f : Task → Task) : (s.modTask t f).futs = s.futs := rfl
@[simp] theorem State.modTask_scratch (t : Nat) (f : Task → Task) : (s.modTask t f).scratch = s.scratch := rfl
@[simp] theorem State.modTask_splits (t : Nat) (f : Task → Task) : (s.modTask t f).splits = s.splits := rfl
@[simp] theorem State.modTask_monitors (t : Nat) (f : Task → Task) : (s.modTask t f).monitors = s.monitors := rfl
@[simp] theorem State.modTask_moves (t : Nat) (f : Task → Task) : (s.modTask t f).moves = s.moves := rfl
@[simp] theorem State.modTask_migs (t : Nat) (f : Task → Task) : (s.modTask t f).migs = s.migs := rfl
@[simp] theorem State.modTask_dead (t : Nat) (f : Task → Task) : (s.modTask t f).dead = s.dead := rfl
@[simp] theorem State.modTask_hdm (t : Nat) (f : Task → Task) : (s.modTask t f).hdm = s.hdm := rfl
@[simp] theorem State.modTask_hostOut (t : Nat) (f : Task → Task) : (s.modTask t f).hostOut = s.hostOut := rfl
@[simp] theorem State.modTask_refused (t : Nat) (f : Task → Task) : (s.modTask t f).refused = s.refused := rfl
@[simp] theorem State.modTask_spdm (t : Nat) (f : Task → Task) : (s.modTask t f).spdm = s.spdm := rfl
@[simp] theorem State.modTask_icache (t : Nat) (f : Task → Task) : (s.modTask t f).icache = s.icache := rfl
@[simp] theorem State.modTask_names (t : Nat) (f : Task → Task) : (s.modTask t f).names = s.names := rfl
@[simp] theorem State.modTask_held (t : Nat) (f : Task → Task) : (s.modTask t f).held = s.held := rfl
@[simp] theorem State.modTask_shared (t : Nat) (f : Task → Task) : (s.modTask t f).shared = s.shared := rfl
@[simp] theorem State.modTask_nextId (t : Nat) (f : Task → Task) : (s.modTask t f).nextId = s.nextId := rfl
@[simp] theorem State.modTask_freeCtr (t : Nat) (f : Task → Task) : (s.modTask t f).freeCtr = s.freeCtr := rfl
@[simp] theorem State.modTask_agenda (t : Nat) (f : Task → Task) : (s.modTask t f).agenda = s.agenda := rfl
@[simp] theorem State.setTile_mem (k : Nat) (x : Tile) : (s.setTile k x).mem = s.mem := rfl
@[simp] theorem State.setTile_poison (k : Nat) (x : Tile) : (s.setTile k x).poison = s.poison := rfl
@[simp] theorem State.setTile_mgmt (k : Nat) (x : Tile) : (s.setTile k x).mgmt = s.mgmt := rfl
@[simp] theorem State.setTile_sec (k : Nat) (x : Tile) : (s.setTile k x).sec = s.sec := rfl
@[simp] theorem State.setTile_power (k : Nat) (x : Tile) : (s.setTile k x).power = s.power := rfl
@[simp] theorem State.setTile_net (k : Nat) (x : Tile) : (s.setTile k x).net = s.net := rfl
@[simp] theorem State.setTile_bclk (k : Nat) (x : Tile) : (s.setTile k x).bclk = s.bclk := rfl
@[simp] theorem State.setTile_parts (k : Nat) (x : Tile) : (s.setTile k x).parts = s.parts := rfl
@[simp] theorem State.setTile_clusters (k : Nat) (x : Tile) : (s.setTile k x).clusters = s.clusters := rfl
@[simp] theorem State.setTile_grants (k : Nat) (x : Tile) : (s.setTile k x).grants = s.grants := rfl
@[simp] theorem State.setTile_qs (k : Nat) (x : Tile) : (s.setTile k x).qs = s.qs := rfl
@[simp] theorem State.setTile_ctxs (k : Nat) (x : Tile) : (s.setTile k x).ctxs = s.ctxs := rfl
@[simp] theorem State.setTile_cur (k : Nat) (x : Tile) : (s.setTile k x).cur = s.cur := rfl
@[simp] theorem State.setTile_sems (k : Nat) (x : Tile) : (s.setTile k x).sems = s.sems := rfl
@[simp] theorem State.setTile_watch (k : Nat) (x : Tile) : (s.setTile k x).watch = s.watch := rfl
@[simp] theorem State.setTile_pages (k : Nat) (x : Tile) : (s.setTile k x).pages = s.pages := rfl
@[simp] theorem State.setTile_quotas (k : Nat) (x : Tile) : (s.setTile k x).quotas = s.quotas := rfl
@[simp] theorem State.setTile_reqs (k : Nat) (x : Tile) : (s.setTile k x).reqs = s.reqs := rfl
@[simp] theorem State.setTile_holds (k : Nat) (x : Tile) : (s.setTile k x).holds = s.holds := rfl
@[simp] theorem State.setTile_moved (k : Nat) (x : Tile) : (s.setTile k x).moved = s.moved := rfl
@[simp] theorem State.setTile_tileMoves (k : Nat) (x : Tile) : (s.setTile k x).tileMoves = s.tileMoves := rfl
@[simp] theorem State.setTile_streams (k : Nat) (x : Tile) : (s.setTile k x).streams = s.streams := rfl
@[simp] theorem State.setTile_subs (k : Nat) (x : Tile) : (s.setTile k x).subs = s.subs := rfl
@[simp] theorem State.setTile_tasks (k : Nat) (x : Tile) : (s.setTile k x).tasks = s.tasks := rfl
@[simp] theorem State.setTile_launches (k : Nat) (x : Tile) : (s.setTile k x).launches = s.launches := rfl
@[simp] theorem State.setTile_gangs (k : Nat) (x : Tile) : (s.setTile k x).gangs = s.gangs := rfl
@[simp] theorem State.setTile_pithead (k : Nat) (x : Tile) : (s.setTile k x).pithead = s.pithead := rfl
@[simp] theorem State.setTile_deques (k : Nat) (x : Tile) : (s.setTile k x).deques = s.deques := rfl
@[simp] theorem State.setTile_members (k : Nat) (x : Tile) : (s.setTile k x).members = s.members := rfl
@[simp] theorem State.setTile_saves (k : Nat) (x : Tile) : (s.setTile k x).saves = s.saves := rfl
@[simp] theorem State.setTile_keepers (k : Nat) (x : Tile) : (s.setTile k x).keepers = s.keepers := rfl
@[simp] theorem State.setTile_jobs (k : Nat) (x : Tile) : (s.setTile k x).jobs = s.jobs := rfl
@[simp] theorem State.setTile_futs (k : Nat) (x : Tile) : (s.setTile k x).futs = s.futs := rfl
@[simp] theorem State.setTile_scratch (k : Nat) (x : Tile) : (s.setTile k x).scratch = s.scratch := rfl
@[simp] theorem State.setTile_splits (k : Nat) (x : Tile) : (s.setTile k x).splits = s.splits := rfl
@[simp] theorem State.setTile_monitors (k : Nat) (x : Tile) : (s.setTile k x).monitors = s.monitors := rfl
@[simp] theorem State.setTile_moves (k : Nat) (x : Tile) : (s.setTile k x).moves = s.moves := rfl
@[simp] theorem State.setTile_migs (k : Nat) (x : Tile) : (s.setTile k x).migs = s.migs := rfl
@[simp] theorem State.setTile_dead (k : Nat) (x : Tile) : (s.setTile k x).dead = s.dead := rfl
@[simp] theorem State.setTile_hdm (k : Nat) (x : Tile) : (s.setTile k x).hdm = s.hdm := rfl
@[simp] theorem State.setTile_hostOut (k : Nat) (x : Tile) : (s.setTile k x).hostOut = s.hostOut := rfl
@[simp] theorem State.setTile_refused (k : Nat) (x : Tile) : (s.setTile k x).refused = s.refused := rfl
@[simp] theorem State.setTile_spdm (k : Nat) (x : Tile) : (s.setTile k x).spdm = s.spdm := rfl
@[simp] theorem State.setTile_icache (k : Nat) (x : Tile) : (s.setTile k x).icache = s.icache := rfl
@[simp] theorem State.setTile_names (k : Nat) (x : Tile) : (s.setTile k x).names = s.names := rfl
@[simp] theorem State.setTile_held (k : Nat) (x : Tile) : (s.setTile k x).held = s.held := rfl
@[simp] theorem State.setTile_shared (k : Nat) (x : Tile) : (s.setTile k x).shared = s.shared := rfl
@[simp] theorem State.setTile_nextId (k : Nat) (x : Tile) : (s.setTile k x).nextId = s.nextId := rfl
@[simp] theorem State.setTile_freeCtr (k : Nat) (x : Tile) : (s.setTile k x).freeCtr = s.freeCtr := rfl
@[simp] theorem State.setTile_agenda (k : Nat) (x : Tile) : (s.setTile k x).agenda = s.agenda := rfl
@[simp] theorem State.modTile_mem (k : Nat) (f : Tile → Tile) : (s.modTile k f).mem = s.mem := rfl
@[simp] theorem State.modTile_poison (k : Nat) (f : Tile → Tile) : (s.modTile k f).poison = s.poison := rfl
@[simp] theorem State.modTile_mgmt (k : Nat) (f : Tile → Tile) : (s.modTile k f).mgmt = s.mgmt := rfl
@[simp] theorem State.modTile_sec (k : Nat) (f : Tile → Tile) : (s.modTile k f).sec = s.sec := rfl
@[simp] theorem State.modTile_power (k : Nat) (f : Tile → Tile) : (s.modTile k f).power = s.power := rfl
@[simp] theorem State.modTile_net (k : Nat) (f : Tile → Tile) : (s.modTile k f).net = s.net := rfl
@[simp] theorem State.modTile_bclk (k : Nat) (f : Tile → Tile) : (s.modTile k f).bclk = s.bclk := rfl
@[simp] theorem State.modTile_parts (k : Nat) (f : Tile → Tile) : (s.modTile k f).parts = s.parts := rfl
@[simp] theorem State.modTile_clusters (k : Nat) (f : Tile → Tile) : (s.modTile k f).clusters = s.clusters := rfl
@[simp] theorem State.modTile_grants (k : Nat) (f : Tile → Tile) : (s.modTile k f).grants = s.grants := rfl
@[simp] theorem State.modTile_qs (k : Nat) (f : Tile → Tile) : (s.modTile k f).qs = s.qs := rfl
@[simp] theorem State.modTile_ctxs (k : Nat) (f : Tile → Tile) : (s.modTile k f).ctxs = s.ctxs := rfl
@[simp] theorem State.modTile_cur (k : Nat) (f : Tile → Tile) : (s.modTile k f).cur = s.cur := rfl
@[simp] theorem State.modTile_sems (k : Nat) (f : Tile → Tile) : (s.modTile k f).sems = s.sems := rfl
@[simp] theorem State.modTile_watch (k : Nat) (f : Tile → Tile) : (s.modTile k f).watch = s.watch := rfl
@[simp] theorem State.modTile_pages (k : Nat) (f : Tile → Tile) : (s.modTile k f).pages = s.pages := rfl
@[simp] theorem State.modTile_quotas (k : Nat) (f : Tile → Tile) : (s.modTile k f).quotas = s.quotas := rfl
@[simp] theorem State.modTile_reqs (k : Nat) (f : Tile → Tile) : (s.modTile k f).reqs = s.reqs := rfl
@[simp] theorem State.modTile_holds (k : Nat) (f : Tile → Tile) : (s.modTile k f).holds = s.holds := rfl
@[simp] theorem State.modTile_moved (k : Nat) (f : Tile → Tile) : (s.modTile k f).moved = s.moved := rfl
@[simp] theorem State.modTile_tileMoves (k : Nat) (f : Tile → Tile) : (s.modTile k f).tileMoves = s.tileMoves := rfl
@[simp] theorem State.modTile_streams (k : Nat) (f : Tile → Tile) : (s.modTile k f).streams = s.streams := rfl
@[simp] theorem State.modTile_subs (k : Nat) (f : Tile → Tile) : (s.modTile k f).subs = s.subs := rfl
@[simp] theorem State.modTile_tasks (k : Nat) (f : Tile → Tile) : (s.modTile k f).tasks = s.tasks := rfl
@[simp] theorem State.modTile_launches (k : Nat) (f : Tile → Tile) : (s.modTile k f).launches = s.launches := rfl
@[simp] theorem State.modTile_gangs (k : Nat) (f : Tile → Tile) : (s.modTile k f).gangs = s.gangs := rfl
@[simp] theorem State.modTile_pithead (k : Nat) (f : Tile → Tile) : (s.modTile k f).pithead = s.pithead := rfl
@[simp] theorem State.modTile_deques (k : Nat) (f : Tile → Tile) : (s.modTile k f).deques = s.deques := rfl
@[simp] theorem State.modTile_members (k : Nat) (f : Tile → Tile) : (s.modTile k f).members = s.members := rfl
@[simp] theorem State.modTile_saves (k : Nat) (f : Tile → Tile) : (s.modTile k f).saves = s.saves := rfl
@[simp] theorem State.modTile_keepers (k : Nat) (f : Tile → Tile) : (s.modTile k f).keepers = s.keepers := rfl
@[simp] theorem State.modTile_jobs (k : Nat) (f : Tile → Tile) : (s.modTile k f).jobs = s.jobs := rfl
@[simp] theorem State.modTile_futs (k : Nat) (f : Tile → Tile) : (s.modTile k f).futs = s.futs := rfl
@[simp] theorem State.modTile_scratch (k : Nat) (f : Tile → Tile) : (s.modTile k f).scratch = s.scratch := rfl
@[simp] theorem State.modTile_splits (k : Nat) (f : Tile → Tile) : (s.modTile k f).splits = s.splits := rfl
@[simp] theorem State.modTile_monitors (k : Nat) (f : Tile → Tile) : (s.modTile k f).monitors = s.monitors := rfl
@[simp] theorem State.modTile_moves (k : Nat) (f : Tile → Tile) : (s.modTile k f).moves = s.moves := rfl
@[simp] theorem State.modTile_migs (k : Nat) (f : Tile → Tile) : (s.modTile k f).migs = s.migs := rfl
@[simp] theorem State.modTile_dead (k : Nat) (f : Tile → Tile) : (s.modTile k f).dead = s.dead := rfl
@[simp] theorem State.modTile_hdm (k : Nat) (f : Tile → Tile) : (s.modTile k f).hdm = s.hdm := rfl
@[simp] theorem State.modTile_hostOut (k : Nat) (f : Tile → Tile) : (s.modTile k f).hostOut = s.hostOut := rfl
@[simp] theorem State.modTile_refused (k : Nat) (f : Tile → Tile) : (s.modTile k f).refused = s.refused := rfl
@[simp] theorem State.modTile_spdm (k : Nat) (f : Tile → Tile) : (s.modTile k f).spdm = s.spdm := rfl
@[simp] theorem State.modTile_icache (k : Nat) (f : Tile → Tile) : (s.modTile k f).icache = s.icache := rfl
@[simp] theorem State.modTile_names (k : Nat) (f : Tile → Tile) : (s.modTile k f).names = s.names := rfl
@[simp] theorem State.modTile_held (k : Nat) (f : Tile → Tile) : (s.modTile k f).held = s.held := rfl
@[simp] theorem State.modTile_shared (k : Nat) (f : Tile → Tile) : (s.modTile k f).shared = s.shared := rfl
@[simp] theorem State.modTile_nextId (k : Nat) (f : Tile → Tile) : (s.modTile k f).nextId = s.nextId := rfl
@[simp] theorem State.modTile_freeCtr (k : Nat) (f : Tile → Tile) : (s.modTile k f).freeCtr = s.freeCtr := rfl
@[simp] theorem State.modTile_agenda (k : Nat) (f : Tile → Tile) : (s.modTile k f).agenda = s.agenda := rfl
@[simp] theorem State.setJob_mem (j : Nat) (x : Job) : (s.setJob j x).mem = s.mem := rfl
@[simp] theorem State.setJob_poison (j : Nat) (x : Job) : (s.setJob j x).poison = s.poison := rfl
@[simp] theorem State.setJob_mgmt (j : Nat) (x : Job) : (s.setJob j x).mgmt = s.mgmt := rfl
@[simp] theorem State.setJob_sec (j : Nat) (x : Job) : (s.setJob j x).sec = s.sec := rfl
@[simp] theorem State.setJob_power (j : Nat) (x : Job) : (s.setJob j x).power = s.power := rfl
@[simp] theorem State.setJob_net (j : Nat) (x : Job) : (s.setJob j x).net = s.net := rfl
@[simp] theorem State.setJob_bclk (j : Nat) (x : Job) : (s.setJob j x).bclk = s.bclk := rfl
@[simp] theorem State.setJob_parts (j : Nat) (x : Job) : (s.setJob j x).parts = s.parts := rfl
@[simp] theorem State.setJob_clusters (j : Nat) (x : Job) : (s.setJob j x).clusters = s.clusters := rfl
@[simp] theorem State.setJob_grants (j : Nat) (x : Job) : (s.setJob j x).grants = s.grants := rfl
@[simp] theorem State.setJob_qs (j : Nat) (x : Job) : (s.setJob j x).qs = s.qs := rfl
@[simp] theorem State.setJob_ctxs (j : Nat) (x : Job) : (s.setJob j x).ctxs = s.ctxs := rfl
@[simp] theorem State.setJob_cur (j : Nat) (x : Job) : (s.setJob j x).cur = s.cur := rfl
@[simp] theorem State.setJob_sems (j : Nat) (x : Job) : (s.setJob j x).sems = s.sems := rfl
@[simp] theorem State.setJob_watch (j : Nat) (x : Job) : (s.setJob j x).watch = s.watch := rfl
@[simp] theorem State.setJob_tiles (j : Nat) (x : Job) : (s.setJob j x).tiles = s.tiles := rfl
@[simp] theorem State.setJob_pages (j : Nat) (x : Job) : (s.setJob j x).pages = s.pages := rfl
@[simp] theorem State.setJob_quotas (j : Nat) (x : Job) : (s.setJob j x).quotas = s.quotas := rfl
@[simp] theorem State.setJob_reqs (j : Nat) (x : Job) : (s.setJob j x).reqs = s.reqs := rfl
@[simp] theorem State.setJob_holds (j : Nat) (x : Job) : (s.setJob j x).holds = s.holds := rfl
@[simp] theorem State.setJob_moved (j : Nat) (x : Job) : (s.setJob j x).moved = s.moved := rfl
@[simp] theorem State.setJob_tileMoves (j : Nat) (x : Job) : (s.setJob j x).tileMoves = s.tileMoves := rfl
@[simp] theorem State.setJob_streams (j : Nat) (x : Job) : (s.setJob j x).streams = s.streams := rfl
@[simp] theorem State.setJob_subs (j : Nat) (x : Job) : (s.setJob j x).subs = s.subs := rfl
@[simp] theorem State.setJob_tasks (j : Nat) (x : Job) : (s.setJob j x).tasks = s.tasks := rfl
@[simp] theorem State.setJob_launches (j : Nat) (x : Job) : (s.setJob j x).launches = s.launches := rfl
@[simp] theorem State.setJob_gangs (j : Nat) (x : Job) : (s.setJob j x).gangs = s.gangs := rfl
@[simp] theorem State.setJob_pithead (j : Nat) (x : Job) : (s.setJob j x).pithead = s.pithead := rfl
@[simp] theorem State.setJob_deques (j : Nat) (x : Job) : (s.setJob j x).deques = s.deques := rfl
@[simp] theorem State.setJob_members (j : Nat) (x : Job) : (s.setJob j x).members = s.members := rfl
@[simp] theorem State.setJob_saves (j : Nat) (x : Job) : (s.setJob j x).saves = s.saves := rfl
@[simp] theorem State.setJob_keepers (j : Nat) (x : Job) : (s.setJob j x).keepers = s.keepers := rfl
@[simp] theorem State.setJob_futs (j : Nat) (x : Job) : (s.setJob j x).futs = s.futs := rfl
@[simp] theorem State.setJob_scratch (j : Nat) (x : Job) : (s.setJob j x).scratch = s.scratch := rfl
@[simp] theorem State.setJob_splits (j : Nat) (x : Job) : (s.setJob j x).splits = s.splits := rfl
@[simp] theorem State.setJob_monitors (j : Nat) (x : Job) : (s.setJob j x).monitors = s.monitors := rfl
@[simp] theorem State.setJob_moves (j : Nat) (x : Job) : (s.setJob j x).moves = s.moves := rfl
@[simp] theorem State.setJob_migs (j : Nat) (x : Job) : (s.setJob j x).migs = s.migs := rfl
@[simp] theorem State.setJob_dead (j : Nat) (x : Job) : (s.setJob j x).dead = s.dead := rfl
@[simp] theorem State.setJob_hdm (j : Nat) (x : Job) : (s.setJob j x).hdm = s.hdm := rfl
@[simp] theorem State.setJob_hostOut (j : Nat) (x : Job) : (s.setJob j x).hostOut = s.hostOut := rfl
@[simp] theorem State.setJob_refused (j : Nat) (x : Job) : (s.setJob j x).refused = s.refused := rfl
@[simp] theorem State.setJob_spdm (j : Nat) (x : Job) : (s.setJob j x).spdm = s.spdm := rfl
@[simp] theorem State.setJob_icache (j : Nat) (x : Job) : (s.setJob j x).icache = s.icache := rfl
@[simp] theorem State.setJob_names (j : Nat) (x : Job) : (s.setJob j x).names = s.names := rfl
@[simp] theorem State.setJob_held (j : Nat) (x : Job) : (s.setJob j x).held = s.held := rfl
@[simp] theorem State.setJob_shared (j : Nat) (x : Job) : (s.setJob j x).shared = s.shared := rfl
@[simp] theorem State.setJob_nextId (j : Nat) (x : Job) : (s.setJob j x).nextId = s.nextId := rfl
@[simp] theorem State.setJob_freeCtr (j : Nat) (x : Job) : (s.setJob j x).freeCtr = s.freeCtr := rfl
@[simp] theorem State.setJob_agenda (j : Nat) (x : Job) : (s.setJob j x).agenda = s.agenda := rfl
@[simp] theorem State.setEng_mem (q : Nat) (x : QEng) : (s.setEng q x).mem = s.mem := rfl
@[simp] theorem State.setEng_poison (q : Nat) (x : QEng) : (s.setEng q x).poison = s.poison := rfl
@[simp] theorem State.setEng_mgmt (q : Nat) (x : QEng) : (s.setEng q x).mgmt = s.mgmt := rfl
@[simp] theorem State.setEng_sec (q : Nat) (x : QEng) : (s.setEng q x).sec = s.sec := rfl
@[simp] theorem State.setEng_power (q : Nat) (x : QEng) : (s.setEng q x).power = s.power := rfl
@[simp] theorem State.setEng_net (q : Nat) (x : QEng) : (s.setEng q x).net = s.net := rfl
@[simp] theorem State.setEng_bclk (q : Nat) (x : QEng) : (s.setEng q x).bclk = s.bclk := rfl
@[simp] theorem State.setEng_parts (q : Nat) (x : QEng) : (s.setEng q x).parts = s.parts := rfl
@[simp] theorem State.setEng_clusters (q : Nat) (x : QEng) : (s.setEng q x).clusters = s.clusters := rfl
@[simp] theorem State.setEng_grants (q : Nat) (x : QEng) : (s.setEng q x).grants = s.grants := rfl
@[simp] theorem State.setEng_ctxs (q : Nat) (x : QEng) : (s.setEng q x).ctxs = s.ctxs := rfl
@[simp] theorem State.setEng_cur (q : Nat) (x : QEng) : (s.setEng q x).cur = s.cur := rfl
@[simp] theorem State.setEng_sems (q : Nat) (x : QEng) : (s.setEng q x).sems = s.sems := rfl
@[simp] theorem State.setEng_watch (q : Nat) (x : QEng) : (s.setEng q x).watch = s.watch := rfl
@[simp] theorem State.setEng_tiles (q : Nat) (x : QEng) : (s.setEng q x).tiles = s.tiles := rfl
@[simp] theorem State.setEng_pages (q : Nat) (x : QEng) : (s.setEng q x).pages = s.pages := rfl
@[simp] theorem State.setEng_quotas (q : Nat) (x : QEng) : (s.setEng q x).quotas = s.quotas := rfl
@[simp] theorem State.setEng_reqs (q : Nat) (x : QEng) : (s.setEng q x).reqs = s.reqs := rfl
@[simp] theorem State.setEng_holds (q : Nat) (x : QEng) : (s.setEng q x).holds = s.holds := rfl
@[simp] theorem State.setEng_moved (q : Nat) (x : QEng) : (s.setEng q x).moved = s.moved := rfl
@[simp] theorem State.setEng_tileMoves (q : Nat) (x : QEng) : (s.setEng q x).tileMoves = s.tileMoves := rfl
@[simp] theorem State.setEng_streams (q : Nat) (x : QEng) : (s.setEng q x).streams = s.streams := rfl
@[simp] theorem State.setEng_subs (q : Nat) (x : QEng) : (s.setEng q x).subs = s.subs := rfl
@[simp] theorem State.setEng_tasks (q : Nat) (x : QEng) : (s.setEng q x).tasks = s.tasks := rfl
@[simp] theorem State.setEng_launches (q : Nat) (x : QEng) : (s.setEng q x).launches = s.launches := rfl
@[simp] theorem State.setEng_gangs (q : Nat) (x : QEng) : (s.setEng q x).gangs = s.gangs := rfl
@[simp] theorem State.setEng_pithead (q : Nat) (x : QEng) : (s.setEng q x).pithead = s.pithead := rfl
@[simp] theorem State.setEng_deques (q : Nat) (x : QEng) : (s.setEng q x).deques = s.deques := rfl
@[simp] theorem State.setEng_members (q : Nat) (x : QEng) : (s.setEng q x).members = s.members := rfl
@[simp] theorem State.setEng_saves (q : Nat) (x : QEng) : (s.setEng q x).saves = s.saves := rfl
@[simp] theorem State.setEng_keepers (q : Nat) (x : QEng) : (s.setEng q x).keepers = s.keepers := rfl
@[simp] theorem State.setEng_jobs (q : Nat) (x : QEng) : (s.setEng q x).jobs = s.jobs := rfl
@[simp] theorem State.setEng_futs (q : Nat) (x : QEng) : (s.setEng q x).futs = s.futs := rfl
@[simp] theorem State.setEng_scratch (q : Nat) (x : QEng) : (s.setEng q x).scratch = s.scratch := rfl
@[simp] theorem State.setEng_splits (q : Nat) (x : QEng) : (s.setEng q x).splits = s.splits := rfl
@[simp] theorem State.setEng_monitors (q : Nat) (x : QEng) : (s.setEng q x).monitors = s.monitors := rfl
@[simp] theorem State.setEng_moves (q : Nat) (x : QEng) : (s.setEng q x).moves = s.moves := rfl
@[simp] theorem State.setEng_migs (q : Nat) (x : QEng) : (s.setEng q x).migs = s.migs := rfl
@[simp] theorem State.setEng_dead (q : Nat) (x : QEng) : (s.setEng q x).dead = s.dead := rfl
@[simp] theorem State.setEng_hdm (q : Nat) (x : QEng) : (s.setEng q x).hdm = s.hdm := rfl
@[simp] theorem State.setEng_hostOut (q : Nat) (x : QEng) : (s.setEng q x).hostOut = s.hostOut := rfl
@[simp] theorem State.setEng_refused (q : Nat) (x : QEng) : (s.setEng q x).refused = s.refused := rfl
@[simp] theorem State.setEng_spdm (q : Nat) (x : QEng) : (s.setEng q x).spdm = s.spdm := rfl
@[simp] theorem State.setEng_icache (q : Nat) (x : QEng) : (s.setEng q x).icache = s.icache := rfl
@[simp] theorem State.setEng_names (q : Nat) (x : QEng) : (s.setEng q x).names = s.names := rfl
@[simp] theorem State.setEng_held (q : Nat) (x : QEng) : (s.setEng q x).held = s.held := rfl
@[simp] theorem State.setEng_shared (q : Nat) (x : QEng) : (s.setEng q x).shared = s.shared := rfl
@[simp] theorem State.setEng_nextId (q : Nat) (x : QEng) : (s.setEng q x).nextId = s.nextId := rfl
@[simp] theorem State.setEng_freeCtr (q : Nat) (x : QEng) : (s.setEng q x).freeCtr = s.freeCtr := rfl
@[simp] theorem State.setEng_agenda (q : Nat) (x : QEng) : (s.setEng q x).agenda = s.agenda := rfl
@[simp] theorem State.setSem_mem (c i v : Nat) : (s.setSem c i v).mem = s.mem := rfl
@[simp] theorem State.setSem_poison (c i v : Nat) : (s.setSem c i v).poison = s.poison := rfl
@[simp] theorem State.setSem_mgmt (c i v : Nat) : (s.setSem c i v).mgmt = s.mgmt := rfl
@[simp] theorem State.setSem_sec (c i v : Nat) : (s.setSem c i v).sec = s.sec := rfl
@[simp] theorem State.setSem_power (c i v : Nat) : (s.setSem c i v).power = s.power := rfl
@[simp] theorem State.setSem_net (c i v : Nat) : (s.setSem c i v).net = s.net := rfl
@[simp] theorem State.setSem_bclk (c i v : Nat) : (s.setSem c i v).bclk = s.bclk := rfl
@[simp] theorem State.setSem_parts (c i v : Nat) : (s.setSem c i v).parts = s.parts := rfl
@[simp] theorem State.setSem_clusters (c i v : Nat) : (s.setSem c i v).clusters = s.clusters := rfl
@[simp] theorem State.setSem_grants (c i v : Nat) : (s.setSem c i v).grants = s.grants := rfl
@[simp] theorem State.setSem_qs (c i v : Nat) : (s.setSem c i v).qs = s.qs := rfl
@[simp] theorem State.setSem_ctxs (c i v : Nat) : (s.setSem c i v).ctxs = s.ctxs := rfl
@[simp] theorem State.setSem_cur (c i v : Nat) : (s.setSem c i v).cur = s.cur := rfl
@[simp] theorem State.setSem_watch (c i v : Nat) : (s.setSem c i v).watch = s.watch := rfl
@[simp] theorem State.setSem_tiles (c i v : Nat) : (s.setSem c i v).tiles = s.tiles := rfl
@[simp] theorem State.setSem_pages (c i v : Nat) : (s.setSem c i v).pages = s.pages := rfl
@[simp] theorem State.setSem_quotas (c i v : Nat) : (s.setSem c i v).quotas = s.quotas := rfl
@[simp] theorem State.setSem_reqs (c i v : Nat) : (s.setSem c i v).reqs = s.reqs := rfl
@[simp] theorem State.setSem_holds (c i v : Nat) : (s.setSem c i v).holds = s.holds := rfl
@[simp] theorem State.setSem_moved (c i v : Nat) : (s.setSem c i v).moved = s.moved := rfl
@[simp] theorem State.setSem_tileMoves (c i v : Nat) : (s.setSem c i v).tileMoves = s.tileMoves := rfl
@[simp] theorem State.setSem_streams (c i v : Nat) : (s.setSem c i v).streams = s.streams := rfl
@[simp] theorem State.setSem_subs (c i v : Nat) : (s.setSem c i v).subs = s.subs := rfl
@[simp] theorem State.setSem_tasks (c i v : Nat) : (s.setSem c i v).tasks = s.tasks := rfl
@[simp] theorem State.setSem_launches (c i v : Nat) : (s.setSem c i v).launches = s.launches := rfl
@[simp] theorem State.setSem_gangs (c i v : Nat) : (s.setSem c i v).gangs = s.gangs := rfl
@[simp] theorem State.setSem_pithead (c i v : Nat) : (s.setSem c i v).pithead = s.pithead := rfl
@[simp] theorem State.setSem_deques (c i v : Nat) : (s.setSem c i v).deques = s.deques := rfl
@[simp] theorem State.setSem_members (c i v : Nat) : (s.setSem c i v).members = s.members := rfl
@[simp] theorem State.setSem_saves (c i v : Nat) : (s.setSem c i v).saves = s.saves := rfl
@[simp] theorem State.setSem_keepers (c i v : Nat) : (s.setSem c i v).keepers = s.keepers := rfl
@[simp] theorem State.setSem_jobs (c i v : Nat) : (s.setSem c i v).jobs = s.jobs := rfl
@[simp] theorem State.setSem_futs (c i v : Nat) : (s.setSem c i v).futs = s.futs := rfl
@[simp] theorem State.setSem_scratch (c i v : Nat) : (s.setSem c i v).scratch = s.scratch := rfl
@[simp] theorem State.setSem_splits (c i v : Nat) : (s.setSem c i v).splits = s.splits := rfl
@[simp] theorem State.setSem_monitors (c i v : Nat) : (s.setSem c i v).monitors = s.monitors := rfl
@[simp] theorem State.setSem_moves (c i v : Nat) : (s.setSem c i v).moves = s.moves := rfl
@[simp] theorem State.setSem_migs (c i v : Nat) : (s.setSem c i v).migs = s.migs := rfl
@[simp] theorem State.setSem_dead (c i v : Nat) : (s.setSem c i v).dead = s.dead := rfl
@[simp] theorem State.setSem_hdm (c i v : Nat) : (s.setSem c i v).hdm = s.hdm := rfl
@[simp] theorem State.setSem_hostOut (c i v : Nat) : (s.setSem c i v).hostOut = s.hostOut := rfl
@[simp] theorem State.setSem_refused (c i v : Nat) : (s.setSem c i v).refused = s.refused := rfl
@[simp] theorem State.setSem_spdm (c i v : Nat) : (s.setSem c i v).spdm = s.spdm := rfl
@[simp] theorem State.setSem_icache (c i v : Nat) : (s.setSem c i v).icache = s.icache := rfl
@[simp] theorem State.setSem_names (c i v : Nat) : (s.setSem c i v).names = s.names := rfl
@[simp] theorem State.setSem_held (c i v : Nat) : (s.setSem c i v).held = s.held := rfl
@[simp] theorem State.setSem_shared (c i v : Nat) : (s.setSem c i v).shared = s.shared := rfl
@[simp] theorem State.setSem_nextId (c i v : Nat) : (s.setSem c i v).nextId = s.nextId := rfl
@[simp] theorem State.setSem_freeCtr (c i v : Nat) : (s.setSem c i v).freeCtr = s.freeCtr := rfl
@[simp] theorem State.setSem_agenda (c i v : Nat) : (s.setSem c i v).agenda = s.agenda := rfl
@[simp] theorem State.store_mgmt (k : Nat) (l : List Byte) : (s.store k l).mgmt = s.mgmt := rfl
@[simp] theorem State.store_sec (k : Nat) (l : List Byte) : (s.store k l).sec = s.sec := rfl
@[simp] theorem State.store_power (k : Nat) (l : List Byte) : (s.store k l).power = s.power := rfl
@[simp] theorem State.store_net (k : Nat) (l : List Byte) : (s.store k l).net = s.net := rfl
@[simp] theorem State.store_bclk (k : Nat) (l : List Byte) : (s.store k l).bclk = s.bclk := rfl
@[simp] theorem State.store_parts (k : Nat) (l : List Byte) : (s.store k l).parts = s.parts := rfl
@[simp] theorem State.store_clusters (k : Nat) (l : List Byte) : (s.store k l).clusters = s.clusters := rfl
@[simp] theorem State.store_grants (k : Nat) (l : List Byte) : (s.store k l).grants = s.grants := rfl
@[simp] theorem State.store_qs (k : Nat) (l : List Byte) : (s.store k l).qs = s.qs := rfl
@[simp] theorem State.store_ctxs (k : Nat) (l : List Byte) : (s.store k l).ctxs = s.ctxs := rfl
@[simp] theorem State.store_cur (k : Nat) (l : List Byte) : (s.store k l).cur = s.cur := rfl
@[simp] theorem State.store_sems (k : Nat) (l : List Byte) : (s.store k l).sems = s.sems := rfl
@[simp] theorem State.store_watch (k : Nat) (l : List Byte) : (s.store k l).watch = s.watch := rfl
@[simp] theorem State.store_tiles (k : Nat) (l : List Byte) : (s.store k l).tiles = s.tiles := rfl
@[simp] theorem State.store_pages (k : Nat) (l : List Byte) : (s.store k l).pages = s.pages := rfl
@[simp] theorem State.store_quotas (k : Nat) (l : List Byte) : (s.store k l).quotas = s.quotas := rfl
@[simp] theorem State.store_reqs (k : Nat) (l : List Byte) : (s.store k l).reqs = s.reqs := rfl
@[simp] theorem State.store_holds (k : Nat) (l : List Byte) : (s.store k l).holds = s.holds := rfl
@[simp] theorem State.store_moved (k : Nat) (l : List Byte) : (s.store k l).moved = s.moved := rfl
@[simp] theorem State.store_tileMoves (k : Nat) (l : List Byte) : (s.store k l).tileMoves = s.tileMoves := rfl
@[simp] theorem State.store_streams (k : Nat) (l : List Byte) : (s.store k l).streams = s.streams := rfl
@[simp] theorem State.store_subs (k : Nat) (l : List Byte) : (s.store k l).subs = s.subs := rfl
@[simp] theorem State.store_tasks (k : Nat) (l : List Byte) : (s.store k l).tasks = s.tasks := rfl
@[simp] theorem State.store_launches (k : Nat) (l : List Byte) : (s.store k l).launches = s.launches := rfl
@[simp] theorem State.store_gangs (k : Nat) (l : List Byte) : (s.store k l).gangs = s.gangs := rfl
@[simp] theorem State.store_pithead (k : Nat) (l : List Byte) : (s.store k l).pithead = s.pithead := rfl
@[simp] theorem State.store_deques (k : Nat) (l : List Byte) : (s.store k l).deques = s.deques := rfl
@[simp] theorem State.store_members (k : Nat) (l : List Byte) : (s.store k l).members = s.members := rfl
@[simp] theorem State.store_saves (k : Nat) (l : List Byte) : (s.store k l).saves = s.saves := rfl
@[simp] theorem State.store_keepers (k : Nat) (l : List Byte) : (s.store k l).keepers = s.keepers := rfl
@[simp] theorem State.store_jobs (k : Nat) (l : List Byte) : (s.store k l).jobs = s.jobs := rfl
@[simp] theorem State.store_futs (k : Nat) (l : List Byte) : (s.store k l).futs = s.futs := rfl
@[simp] theorem State.store_scratch (k : Nat) (l : List Byte) : (s.store k l).scratch = s.scratch := rfl
@[simp] theorem State.store_splits (k : Nat) (l : List Byte) : (s.store k l).splits = s.splits := rfl
@[simp] theorem State.store_monitors (k : Nat) (l : List Byte) : (s.store k l).monitors = s.monitors := rfl
@[simp] theorem State.store_moves (k : Nat) (l : List Byte) : (s.store k l).moves = s.moves := rfl
@[simp] theorem State.store_migs (k : Nat) (l : List Byte) : (s.store k l).migs = s.migs := rfl
@[simp] theorem State.store_dead (k : Nat) (l : List Byte) : (s.store k l).dead = s.dead := rfl
@[simp] theorem State.store_hdm (k : Nat) (l : List Byte) : (s.store k l).hdm = s.hdm := rfl
@[simp] theorem State.store_hostOut (k : Nat) (l : List Byte) : (s.store k l).hostOut = s.hostOut := rfl
@[simp] theorem State.store_refused (k : Nat) (l : List Byte) : (s.store k l).refused = s.refused := rfl
@[simp] theorem State.store_spdm (k : Nat) (l : List Byte) : (s.store k l).spdm = s.spdm := rfl
@[simp] theorem State.store_icache (k : Nat) (l : List Byte) : (s.store k l).icache = s.icache := rfl
@[simp] theorem State.store_names (k : Nat) (l : List Byte) : (s.store k l).names = s.names := rfl
@[simp] theorem State.store_held (k : Nat) (l : List Byte) : (s.store k l).held = s.held := rfl
@[simp] theorem State.store_shared (k : Nat) (l : List Byte) : (s.store k l).shared = s.shared := rfl
@[simp] theorem State.store_nextId (k : Nat) (l : List Byte) : (s.store k l).nextId = s.nextId := rfl
@[simp] theorem State.store_freeCtr (k : Nat) (l : List Byte) : (s.store k l).freeCtr = s.freeCtr := rfl
@[simp] theorem State.store_agenda (k : Nat) (l : List Byte) : (s.store k l).agenda = s.agenda := rfl
@[simp] theorem State.markUsed_poison (l : Nat) (u : Use) : (s.markUsed l u).poison = s.poison := rfl
@[simp] theorem State.markUsed_mgmt (l : Nat) (u : Use) : (s.markUsed l u).mgmt = s.mgmt := rfl
@[simp] theorem State.markUsed_sec (l : Nat) (u : Use) : (s.markUsed l u).sec = s.sec := rfl
@[simp] theorem State.markUsed_power (l : Nat) (u : Use) : (s.markUsed l u).power = s.power := rfl
@[simp] theorem State.markUsed_net (l : Nat) (u : Use) : (s.markUsed l u).net = s.net := rfl
@[simp] theorem State.markUsed_bclk (l : Nat) (u : Use) : (s.markUsed l u).bclk = s.bclk := rfl
@[simp] theorem State.markUsed_parts (l : Nat) (u : Use) : (s.markUsed l u).parts = s.parts := rfl
@[simp] theorem State.markUsed_clusters (l : Nat) (u : Use) : (s.markUsed l u).clusters = s.clusters := rfl
@[simp] theorem State.markUsed_grants (l : Nat) (u : Use) : (s.markUsed l u).grants = s.grants := rfl
@[simp] theorem State.markUsed_qs (l : Nat) (u : Use) : (s.markUsed l u).qs = s.qs := rfl
@[simp] theorem State.markUsed_ctxs (l : Nat) (u : Use) : (s.markUsed l u).ctxs = s.ctxs := rfl
@[simp] theorem State.markUsed_cur (l : Nat) (u : Use) : (s.markUsed l u).cur = s.cur := rfl
@[simp] theorem State.markUsed_sems (l : Nat) (u : Use) : (s.markUsed l u).sems = s.sems := rfl
@[simp] theorem State.markUsed_watch (l : Nat) (u : Use) : (s.markUsed l u).watch = s.watch := rfl
@[simp] theorem State.markUsed_tiles (l : Nat) (u : Use) : (s.markUsed l u).tiles = s.tiles := rfl
@[simp] theorem State.markUsed_pages (l : Nat) (u : Use) : (s.markUsed l u).pages = s.pages := rfl
@[simp] theorem State.markUsed_quotas (l : Nat) (u : Use) : (s.markUsed l u).quotas = s.quotas := rfl
@[simp] theorem State.markUsed_reqs (l : Nat) (u : Use) : (s.markUsed l u).reqs = s.reqs := rfl
@[simp] theorem State.markUsed_holds (l : Nat) (u : Use) : (s.markUsed l u).holds = s.holds := rfl
@[simp] theorem State.markUsed_moved (l : Nat) (u : Use) : (s.markUsed l u).moved = s.moved := rfl
@[simp] theorem State.markUsed_tileMoves (l : Nat) (u : Use) : (s.markUsed l u).tileMoves = s.tileMoves := rfl
@[simp] theorem State.markUsed_streams (l : Nat) (u : Use) : (s.markUsed l u).streams = s.streams := rfl
@[simp] theorem State.markUsed_subs (l : Nat) (u : Use) : (s.markUsed l u).subs = s.subs := rfl
@[simp] theorem State.markUsed_tasks (l : Nat) (u : Use) : (s.markUsed l u).tasks = s.tasks := rfl
@[simp] theorem State.markUsed_launches (l : Nat) (u : Use) : (s.markUsed l u).launches = s.launches := rfl
@[simp] theorem State.markUsed_gangs (l : Nat) (u : Use) : (s.markUsed l u).gangs = s.gangs := rfl
@[simp] theorem State.markUsed_pithead (l : Nat) (u : Use) : (s.markUsed l u).pithead = s.pithead := rfl
@[simp] theorem State.markUsed_deques (l : Nat) (u : Use) : (s.markUsed l u).deques = s.deques := rfl
@[simp] theorem State.markUsed_members (l : Nat) (u : Use) : (s.markUsed l u).members = s.members := rfl
@[simp] theorem State.markUsed_saves (l : Nat) (u : Use) : (s.markUsed l u).saves = s.saves := rfl
@[simp] theorem State.markUsed_keepers (l : Nat) (u : Use) : (s.markUsed l u).keepers = s.keepers := rfl
@[simp] theorem State.markUsed_jobs (l : Nat) (u : Use) : (s.markUsed l u).jobs = s.jobs := rfl
@[simp] theorem State.markUsed_futs (l : Nat) (u : Use) : (s.markUsed l u).futs = s.futs := rfl
@[simp] theorem State.markUsed_scratch (l : Nat) (u : Use) : (s.markUsed l u).scratch = s.scratch := rfl
@[simp] theorem State.markUsed_splits (l : Nat) (u : Use) : (s.markUsed l u).splits = s.splits := rfl
@[simp] theorem State.markUsed_monitors (l : Nat) (u : Use) : (s.markUsed l u).monitors = s.monitors := rfl
@[simp] theorem State.markUsed_moves (l : Nat) (u : Use) : (s.markUsed l u).moves = s.moves := rfl
@[simp] theorem State.markUsed_migs (l : Nat) (u : Use) : (s.markUsed l u).migs = s.migs := rfl
@[simp] theorem State.markUsed_dead (l : Nat) (u : Use) : (s.markUsed l u).dead = s.dead := rfl
@[simp] theorem State.markUsed_hdm (l : Nat) (u : Use) : (s.markUsed l u).hdm = s.hdm := rfl
@[simp] theorem State.markUsed_hostOut (l : Nat) (u : Use) : (s.markUsed l u).hostOut = s.hostOut := rfl
@[simp] theorem State.markUsed_refused (l : Nat) (u : Use) : (s.markUsed l u).refused = s.refused := rfl
@[simp] theorem State.markUsed_spdm (l : Nat) (u : Use) : (s.markUsed l u).spdm = s.spdm := rfl
@[simp] theorem State.markUsed_icache (l : Nat) (u : Use) : (s.markUsed l u).icache = s.icache := rfl
@[simp] theorem State.markUsed_names (l : Nat) (u : Use) : (s.markUsed l u).names = s.names := rfl
@[simp] theorem State.markUsed_held (l : Nat) (u : Use) : (s.markUsed l u).held = s.held := rfl
@[simp] theorem State.markUsed_shared (l : Nat) (u : Use) : (s.markUsed l u).shared = s.shared := rfl
@[simp] theorem State.markUsed_nextId (l : Nat) (u : Use) : (s.markUsed l u).nextId = s.nextId := rfl
@[simp] theorem State.markUsed_freeCtr (l : Nat) (u : Use) : (s.markUsed l u).freeCtr = s.freeCtr := rfl
@[simp] theorem State.markUsed_agenda (l : Nat) (u : Use) : (s.markUsed l u).agenda = s.agenda := rfl

/-! The state: accessors of another table. -/

@[simp] theorem State.part_setCtx (k : Nat) (c : Ctx) (j : Nat) : (s.setCtx k c).part j = s.part j := rfl
@[simp] theorem State.task_setCtx (k : Nat) (c : Ctx) (j : Nat) : (s.setCtx k c).task j = s.task j := rfl
@[simp] theorem State.tile_setCtx (k : Nat) (c : Ctx) (j : Nat) : (s.setCtx k c).tile j = s.tile j := rfl
@[simp] theorem State.stream_setCtx (k : Nat) (c : Ctx) (j n : Nat) : (s.setCtx k c).stream j n = s.stream j n := rfl
@[simp] theorem State.keeper_setCtx (k : Nat) (c : Ctx) (j : Nat) : (s.setCtx k c).keeper j = s.keeper j := rfl
@[simp] theorem State.job_setCtx (k : Nat) (c : Ctx) (j : Nat) : (s.setCtx k c).job j = s.job j := rfl
@[simp] theorem State.eng_setCtx (k : Nat) (c : Ctx) (j : Nat) : (s.setCtx k c).eng j = s.eng j := rfl
@[simp] theorem State.scratchOf_setCtx (k : Nat) (c : Ctx) (j : Nat) : (s.setCtx k c).scratchOf j = s.scratchOf j := rfl
@[simp] theorem State.ownerOf_setCtx (k : Nat) (c : Ctx) (j : Nat) : (s.setCtx k c).ownerOf j = s.ownerOf j := rfl
@[simp] theorem State.feature_setCtx (k : Nat) (c : Ctx) (j : Nat) : (s.setCtx k c).feature j = s.feature j := rfl
@[simp] theorem State.fver_setCtx (k : Nat) (c : Ctx) : (s.setCtx k c).fver = s.fver := rfl
@[simp] theorem State.dtime_setCtx (k : Nat) (c : Ctx) : (s.setCtx k c).dtime = s.dtime := rfl
@[simp] theorem State.sem_setCtx (k : Nat) (c : Ctx) (j n : Nat) : (s.setCtx k c).sem j n = s.sem j n := rfl
@[simp] theorem State.quota_setCtx (k : Nat) (c : Ctx) (j n : Nat) : (s.setCtx k c).quota j n = s.quota j n := rfl
@[simp] theorem State.cpoolOf_setCtx (k : Nat) (c : Ctx) (j : Nat) : (s.setCtx k c).cpoolOf j = s.cpoolOf j := rfl
@[simp] theorem State.part_modCtx (k : Nat) (f : Ctx → Ctx) (j : Nat) : (s.modCtx k f).part j = s.part j := rfl
@[simp] theorem State.task_modCtx (k : Nat) (f : Ctx → Ctx) (j : Nat) : (s.modCtx k f).task j = s.task j := rfl
@[simp] theorem State.tile_modCtx (k : Nat) (f : Ctx → Ctx) (j : Nat) : (s.modCtx k f).tile j = s.tile j := rfl
@[simp] theorem State.stream_modCtx (k : Nat) (f : Ctx → Ctx) (j n : Nat) : (s.modCtx k f).stream j n = s.stream j n := rfl
@[simp] theorem State.keeper_modCtx (k : Nat) (f : Ctx → Ctx) (j : Nat) : (s.modCtx k f).keeper j = s.keeper j := rfl
@[simp] theorem State.job_modCtx (k : Nat) (f : Ctx → Ctx) (j : Nat) : (s.modCtx k f).job j = s.job j := rfl
@[simp] theorem State.eng_modCtx (k : Nat) (f : Ctx → Ctx) (j : Nat) : (s.modCtx k f).eng j = s.eng j := rfl
@[simp] theorem State.scratchOf_modCtx (k : Nat) (f : Ctx → Ctx) (j : Nat) : (s.modCtx k f).scratchOf j = s.scratchOf j := rfl
@[simp] theorem State.ownerOf_modCtx (k : Nat) (f : Ctx → Ctx) (j : Nat) : (s.modCtx k f).ownerOf j = s.ownerOf j := rfl
@[simp] theorem State.feature_modCtx (k : Nat) (f : Ctx → Ctx) (j : Nat) : (s.modCtx k f).feature j = s.feature j := rfl
@[simp] theorem State.fver_modCtx (k : Nat) (f : Ctx → Ctx) : (s.modCtx k f).fver = s.fver := rfl
@[simp] theorem State.dtime_modCtx (k : Nat) (f : Ctx → Ctx) : (s.modCtx k f).dtime = s.dtime := rfl
@[simp] theorem State.sem_modCtx (k : Nat) (f : Ctx → Ctx) (j n : Nat) : (s.modCtx k f).sem j n = s.sem j n := rfl
@[simp] theorem State.quota_modCtx (k : Nat) (f : Ctx → Ctx) (j n : Nat) : (s.modCtx k f).quota j n = s.quota j n := rfl
@[simp] theorem State.cpoolOf_modCtx (k : Nat) (f : Ctx → Ctx) (j : Nat) : (s.modCtx k f).cpoolOf j = s.cpoolOf j := rfl
@[simp] theorem State.ctx_setPart (p : Nat) (x : Part) (j : Nat) : (s.setPart p x).ctx j = s.ctx j := rfl
@[simp] theorem State.task_setPart (p : Nat) (x : Part) (j : Nat) : (s.setPart p x).task j = s.task j := rfl
@[simp] theorem State.tile_setPart (p : Nat) (x : Part) (j : Nat) : (s.setPart p x).tile j = s.tile j := rfl
@[simp] theorem State.stream_setPart (p : Nat) (x : Part) (j n : Nat) : (s.setPart p x).stream j n = s.stream j n := rfl
@[simp] theorem State.keeper_setPart (p : Nat) (x : Part) (j : Nat) : (s.setPart p x).keeper j = s.keeper j := rfl
@[simp] theorem State.job_setPart (p : Nat) (x : Part) (j : Nat) : (s.setPart p x).job j = s.job j := rfl
@[simp] theorem State.eng_setPart (p : Nat) (x : Part) (j : Nat) : (s.setPart p x).eng j = s.eng j := rfl
@[simp] theorem State.scratchOf_setPart (p : Nat) (x : Part) (j : Nat) : (s.setPart p x).scratchOf j = s.scratchOf j := rfl
@[simp] theorem State.ownerOf_setPart (p : Nat) (x : Part) (j : Nat) : (s.setPart p x).ownerOf j = s.ownerOf j := rfl
@[simp] theorem State.feature_setPart (p : Nat) (x : Part) (j : Nat) : (s.setPart p x).feature j = s.feature j := rfl
@[simp] theorem State.fver_setPart (p : Nat) (x : Part) : (s.setPart p x).fver = s.fver := rfl
@[simp] theorem State.dtime_setPart (p : Nat) (x : Part) : (s.setPart p x).dtime = s.dtime := rfl
@[simp] theorem State.sem_setPart (p : Nat) (x : Part) (j n : Nat) : (s.setPart p x).sem j n = s.sem j n := rfl
@[simp] theorem State.quota_setPart (p : Nat) (x : Part) (j n : Nat) : (s.setPart p x).quota j n = s.quota j n := rfl
@[simp] theorem State.cpoolOf_setPart (p : Nat) (x : Part) (j : Nat) : (s.setPart p x).cpoolOf j = s.cpoolOf j := rfl
@[simp] theorem State.ctx_setTask (t : Nat) (x : Task) (j : Nat) : (s.setTask t x).ctx j = s.ctx j := rfl
@[simp] theorem State.part_setTask (t : Nat) (x : Task) (j : Nat) : (s.setTask t x).part j = s.part j := rfl
@[simp] theorem State.tile_setTask (t : Nat) (x : Task) (j : Nat) : (s.setTask t x).tile j = s.tile j := rfl
@[simp] theorem State.stream_setTask (t : Nat) (x : Task) (j n : Nat) : (s.setTask t x).stream j n = s.stream j n := rfl
@[simp] theorem State.keeper_setTask (t : Nat) (x : Task) (j : Nat) : (s.setTask t x).keeper j = s.keeper j := rfl
@[simp] theorem State.job_setTask (t : Nat) (x : Task) (j : Nat) : (s.setTask t x).job j = s.job j := rfl
@[simp] theorem State.eng_setTask (t : Nat) (x : Task) (j : Nat) : (s.setTask t x).eng j = s.eng j := rfl
@[simp] theorem State.scratchOf_setTask (t : Nat) (x : Task) (j : Nat) : (s.setTask t x).scratchOf j = s.scratchOf j := rfl
@[simp] theorem State.ownerOf_setTask (t : Nat) (x : Task) (j : Nat) : (s.setTask t x).ownerOf j = s.ownerOf j := rfl
@[simp] theorem State.feature_setTask (t : Nat) (x : Task) (j : Nat) : (s.setTask t x).feature j = s.feature j := rfl
@[simp] theorem State.fver_setTask (t : Nat) (x : Task) : (s.setTask t x).fver = s.fver := rfl
@[simp] theorem State.dtime_setTask (t : Nat) (x : Task) : (s.setTask t x).dtime = s.dtime := rfl
@[simp] theorem State.sem_setTask (t : Nat) (x : Task) (j n : Nat) : (s.setTask t x).sem j n = s.sem j n := rfl
@[simp] theorem State.quota_setTask (t : Nat) (x : Task) (j n : Nat) : (s.setTask t x).quota j n = s.quota j n := rfl
@[simp] theorem State.cpoolOf_setTask (t : Nat) (x : Task) (j : Nat) : (s.setTask t x).cpoolOf j = s.cpoolOf j := rfl
@[simp] theorem State.ctx_modTask (t : Nat) (f : Task → Task) (j : Nat) : (s.modTask t f).ctx j = s.ctx j := rfl
@[simp] theorem State.part_modTask (t : Nat) (f : Task → Task) (j : Nat) : (s.modTask t f).part j = s.part j := rfl
@[simp] theorem State.tile_modTask (t : Nat) (f : Task → Task) (j : Nat) : (s.modTask t f).tile j = s.tile j := rfl
@[simp] theorem State.stream_modTask (t : Nat) (f : Task → Task) (j n : Nat) : (s.modTask t f).stream j n = s.stream j n := rfl
@[simp] theorem State.keeper_modTask (t : Nat) (f : Task → Task) (j : Nat) : (s.modTask t f).keeper j = s.keeper j := rfl
@[simp] theorem State.job_modTask (t : Nat) (f : Task → Task) (j : Nat) : (s.modTask t f).job j = s.job j := rfl
@[simp] theorem State.eng_modTask (t : Nat) (f : Task → Task) (j : Nat) : (s.modTask t f).eng j = s.eng j := rfl
@[simp] theorem State.scratchOf_modTask (t : Nat) (f : Task → Task) (j : Nat) : (s.modTask t f).scratchOf j = s.scratchOf j := rfl
@[simp] theorem State.ownerOf_modTask (t : Nat) (f : Task → Task) (j : Nat) : (s.modTask t f).ownerOf j = s.ownerOf j := rfl
@[simp] theorem State.feature_modTask (t : Nat) (f : Task → Task) (j : Nat) : (s.modTask t f).feature j = s.feature j := rfl
@[simp] theorem State.fver_modTask (t : Nat) (f : Task → Task) : (s.modTask t f).fver = s.fver := rfl
@[simp] theorem State.dtime_modTask (t : Nat) (f : Task → Task) : (s.modTask t f).dtime = s.dtime := rfl
@[simp] theorem State.sem_modTask (t : Nat) (f : Task → Task) (j n : Nat) : (s.modTask t f).sem j n = s.sem j n := rfl
@[simp] theorem State.quota_modTask (t : Nat) (f : Task → Task) (j n : Nat) : (s.modTask t f).quota j n = s.quota j n := rfl
@[simp] theorem State.cpoolOf_modTask (t : Nat) (f : Task → Task) (j : Nat) : (s.modTask t f).cpoolOf j = s.cpoolOf j := rfl
@[simp] theorem State.ctx_setTile (k : Nat) (x : Tile) (j : Nat) : (s.setTile k x).ctx j = s.ctx j := rfl
@[simp] theorem State.part_setTile (k : Nat) (x : Tile) (j : Nat) : (s.setTile k x).part j = s.part j := rfl
@[simp] theorem State.task_setTile (k : Nat) (x : Tile) (j : Nat) : (s.setTile k x).task j = s.task j := rfl
@[simp] theorem State.stream_setTile (k : Nat) (x : Tile) (j n : Nat) : (s.setTile k x).stream j n = s.stream j n := rfl
@[simp] theorem State.keeper_setTile (k : Nat) (x : Tile) (j : Nat) : (s.setTile k x).keeper j = s.keeper j := rfl
@[simp] theorem State.job_setTile (k : Nat) (x : Tile) (j : Nat) : (s.setTile k x).job j = s.job j := rfl
@[simp] theorem State.eng_setTile (k : Nat) (x : Tile) (j : Nat) : (s.setTile k x).eng j = s.eng j := rfl
@[simp] theorem State.scratchOf_setTile (k : Nat) (x : Tile) (j : Nat) : (s.setTile k x).scratchOf j = s.scratchOf j := rfl
@[simp] theorem State.ownerOf_setTile (k : Nat) (x : Tile) (j : Nat) : (s.setTile k x).ownerOf j = s.ownerOf j := rfl
@[simp] theorem State.feature_setTile (k : Nat) (x : Tile) (j : Nat) : (s.setTile k x).feature j = s.feature j := rfl
@[simp] theorem State.fver_setTile (k : Nat) (x : Tile) : (s.setTile k x).fver = s.fver := rfl
@[simp] theorem State.dtime_setTile (k : Nat) (x : Tile) : (s.setTile k x).dtime = s.dtime := rfl
@[simp] theorem State.sem_setTile (k : Nat) (x : Tile) (j n : Nat) : (s.setTile k x).sem j n = s.sem j n := rfl
@[simp] theorem State.quota_setTile (k : Nat) (x : Tile) (j n : Nat) : (s.setTile k x).quota j n = s.quota j n := rfl
@[simp] theorem State.cpoolOf_setTile (k : Nat) (x : Tile) (j : Nat) : (s.setTile k x).cpoolOf j = s.cpoolOf j := rfl
@[simp] theorem State.ctx_modTile (k : Nat) (f : Tile → Tile) (j : Nat) : (s.modTile k f).ctx j = s.ctx j := rfl
@[simp] theorem State.part_modTile (k : Nat) (f : Tile → Tile) (j : Nat) : (s.modTile k f).part j = s.part j := rfl
@[simp] theorem State.task_modTile (k : Nat) (f : Tile → Tile) (j : Nat) : (s.modTile k f).task j = s.task j := rfl
@[simp] theorem State.stream_modTile (k : Nat) (f : Tile → Tile) (j n : Nat) : (s.modTile k f).stream j n = s.stream j n := rfl
@[simp] theorem State.keeper_modTile (k : Nat) (f : Tile → Tile) (j : Nat) : (s.modTile k f).keeper j = s.keeper j := rfl
@[simp] theorem State.job_modTile (k : Nat) (f : Tile → Tile) (j : Nat) : (s.modTile k f).job j = s.job j := rfl
@[simp] theorem State.eng_modTile (k : Nat) (f : Tile → Tile) (j : Nat) : (s.modTile k f).eng j = s.eng j := rfl
@[simp] theorem State.scratchOf_modTile (k : Nat) (f : Tile → Tile) (j : Nat) : (s.modTile k f).scratchOf j = s.scratchOf j := rfl
@[simp] theorem State.ownerOf_modTile (k : Nat) (f : Tile → Tile) (j : Nat) : (s.modTile k f).ownerOf j = s.ownerOf j := rfl
@[simp] theorem State.feature_modTile (k : Nat) (f : Tile → Tile) (j : Nat) : (s.modTile k f).feature j = s.feature j := rfl
@[simp] theorem State.fver_modTile (k : Nat) (f : Tile → Tile) : (s.modTile k f).fver = s.fver := rfl
@[simp] theorem State.dtime_modTile (k : Nat) (f : Tile → Tile) : (s.modTile k f).dtime = s.dtime := rfl
@[simp] theorem State.sem_modTile (k : Nat) (f : Tile → Tile) (j n : Nat) : (s.modTile k f).sem j n = s.sem j n := rfl
@[simp] theorem State.quota_modTile (k : Nat) (f : Tile → Tile) (j n : Nat) : (s.modTile k f).quota j n = s.quota j n := rfl
@[simp] theorem State.cpoolOf_modTile (k : Nat) (f : Tile → Tile) (j : Nat) : (s.modTile k f).cpoolOf j = s.cpoolOf j := rfl
@[simp] theorem State.ctx_setJob (j : Nat) (x : Job) (j : Nat) : (s.setJob j x).ctx j = s.ctx j := rfl
@[simp] theorem State.part_setJob (j : Nat) (x : Job) (j : Nat) : (s.setJob j x).part j = s.part j := rfl
@[simp] theorem State.task_setJob (j : Nat) (x : Job) (j : Nat) : (s.setJob j x).task j = s.task j := rfl
@[simp] theorem State.tile_setJob (j : Nat) (x : Job) (j : Nat) : (s.setJob j x).tile j = s.tile j := rfl
@[simp] theorem State.stream_setJob (j : Nat) (x : Job) (j n : Nat) : (s.setJob j x).stream j n = s.stream j n := rfl
@[simp] theorem State.keeper_setJob (j : Nat) (x : Job) (j : Nat) : (s.setJob j x).keeper j = s.keeper j := rfl
@[simp] theorem State.eng_setJob (j : Nat) (x : Job) (j : Nat) : (s.setJob j x).eng j = s.eng j := rfl
@[simp] theorem State.scratchOf_setJob (j : Nat) (x : Job) (j : Nat) : (s.setJob j x).scratchOf j = s.scratchOf j := rfl
@[simp] theorem State.ownerOf_setJob (j : Nat) (x : Job) (j : Nat) : (s.setJob j x).ownerOf j = s.ownerOf j := rfl
@[simp] theorem State.feature_setJob (j : Nat) (x : Job) (j : Nat) : (s.setJob j x).feature j = s.feature j := rfl
@[simp] theorem State.fver_setJob (j : Nat) (x : Job) : (s.setJob j x).fver = s.fver := rfl
@[simp] theorem State.dtime_setJob (j : Nat) (x : Job) : (s.setJob j x).dtime = s.dtime := rfl
@[simp] theorem State.sem_setJob (j : Nat) (x : Job) (j n : Nat) : (s.setJob j x).sem j n = s.sem j n := rfl
@[simp] theorem State.quota_setJob (j : Nat) (x : Job) (j n : Nat) : (s.setJob j x).quota j n = s.quota j n := rfl
@[simp] theorem State.cpoolOf_setJob (j : Nat) (x : Job) (j : Nat) : (s.setJob j x).cpoolOf j = s.cpoolOf j := rfl
@[simp] theorem State.ctx_setEng (q : Nat) (x : QEng) (j : Nat) : (s.setEng q x).ctx j = s.ctx j := rfl
@[simp] theorem State.part_setEng (q : Nat) (x : QEng) (j : Nat) : (s.setEng q x).part j = s.part j := rfl
@[simp] theorem State.task_setEng (q : Nat) (x : QEng) (j : Nat) : (s.setEng q x).task j = s.task j := rfl
@[simp] theorem State.tile_setEng (q : Nat) (x : QEng) (j : Nat) : (s.setEng q x).tile j = s.tile j := rfl
@[simp] theorem State.stream_setEng (q : Nat) (x : QEng) (j n : Nat) : (s.setEng q x).stream j n = s.stream j n := rfl
@[simp] theorem State.keeper_setEng (q : Nat) (x : QEng) (j : Nat) : (s.setEng q x).keeper j = s.keeper j := rfl
@[simp] theorem State.job_setEng (q : Nat) (x : QEng) (j : Nat) : (s.setEng q x).job j = s.job j := rfl
@[simp] theorem State.scratchOf_setEng (q : Nat) (x : QEng) (j : Nat) : (s.setEng q x).scratchOf j = s.scratchOf j := rfl
@[simp] theorem State.ownerOf_setEng (q : Nat) (x : QEng) (j : Nat) : (s.setEng q x).ownerOf j = s.ownerOf j := rfl
@[simp] theorem State.feature_setEng (q : Nat) (x : QEng) (j : Nat) : (s.setEng q x).feature j = s.feature j := rfl
@[simp] theorem State.fver_setEng (q : Nat) (x : QEng) : (s.setEng q x).fver = s.fver := rfl
@[simp] theorem State.dtime_setEng (q : Nat) (x : QEng) : (s.setEng q x).dtime = s.dtime := rfl
@[simp] theorem State.sem_setEng (q : Nat) (x : QEng) (j n : Nat) : (s.setEng q x).sem j n = s.sem j n := rfl
@[simp] theorem State.quota_setEng (q : Nat) (x : QEng) (j n : Nat) : (s.setEng q x).quota j n = s.quota j n := rfl
@[simp] theorem State.cpoolOf_setEng (q : Nat) (x : QEng) (j : Nat) : (s.setEng q x).cpoolOf j = s.cpoolOf j := rfl
@[simp] theorem State.ctx_setSem (c i v : Nat) (j : Nat) : (s.setSem c i v).ctx j = s.ctx j := rfl
@[simp] theorem State.part_setSem (c i v : Nat) (j : Nat) : (s.setSem c i v).part j = s.part j := rfl
@[simp] theorem State.task_setSem (c i v : Nat) (j : Nat) : (s.setSem c i v).task j = s.task j := rfl
@[simp] theorem State.tile_setSem (c i v : Nat) (j : Nat) : (s.setSem c i v).tile j = s.tile j := rfl
@[simp] theorem State.stream_setSem (c i v : Nat) (j n : Nat) : (s.setSem c i v).stream j n = s.stream j n := rfl
@[simp] theorem State.keeper_setSem (c i v : Nat) (j : Nat) : (s.setSem c i v).keeper j = s.keeper j := rfl
@[simp] theorem State.job_setSem (c i v : Nat) (j : Nat) : (s.setSem c i v).job j = s.job j := rfl
@[simp] theorem State.eng_setSem (c i v : Nat) (j : Nat) : (s.setSem c i v).eng j = s.eng j := rfl
@[simp] theorem State.scratchOf_setSem (c i v : Nat) (j : Nat) : (s.setSem c i v).scratchOf j = s.scratchOf j := rfl
@[simp] theorem State.ownerOf_setSem (c i v : Nat) (j : Nat) : (s.setSem c i v).ownerOf j = s.ownerOf j := rfl
@[simp] theorem State.feature_setSem (c i v : Nat) (j : Nat) : (s.setSem c i v).feature j = s.feature j := rfl
@[simp] theorem State.fver_setSem (c i v : Nat) : (s.setSem c i v).fver = s.fver := rfl
@[simp] theorem State.dtime_setSem (c i v : Nat) : (s.setSem c i v).dtime = s.dtime := rfl
@[simp] theorem State.quota_setSem (c i v : Nat) (j n : Nat) : (s.setSem c i v).quota j n = s.quota j n := rfl
@[simp] theorem State.cpoolOf_setSem (c i v : Nat) (j : Nat) : (s.setSem c i v).cpoolOf j = s.cpoolOf j := rfl
@[simp] theorem State.ctx_store (k : Nat) (l : List Byte) (j : Nat) : (s.store k l).ctx j = s.ctx j := rfl
@[simp] theorem State.part_store (k : Nat) (l : List Byte) (j : Nat) : (s.store k l).part j = s.part j := rfl
@[simp] theorem State.task_store (k : Nat) (l : List Byte) (j : Nat) : (s.store k l).task j = s.task j := rfl
@[simp] theorem State.tile_store (k : Nat) (l : List Byte) (j : Nat) : (s.store k l).tile j = s.tile j := rfl
@[simp] theorem State.stream_store (k : Nat) (l : List Byte) (j n : Nat) : (s.store k l).stream j n = s.stream j n := rfl
@[simp] theorem State.keeper_store (k : Nat) (l : List Byte) (j : Nat) : (s.store k l).keeper j = s.keeper j := rfl
@[simp] theorem State.job_store (k : Nat) (l : List Byte) (j : Nat) : (s.store k l).job j = s.job j := rfl
@[simp] theorem State.eng_store (k : Nat) (l : List Byte) (j : Nat) : (s.store k l).eng j = s.eng j := rfl
@[simp] theorem State.scratchOf_store (k : Nat) (l : List Byte) (j : Nat) : (s.store k l).scratchOf j = s.scratchOf j := rfl
@[simp] theorem State.ownerOf_store (k : Nat) (l : List Byte) (j : Nat) : (s.store k l).ownerOf j = s.ownerOf j := rfl
@[simp] theorem State.feature_store (k : Nat) (l : List Byte) (j : Nat) : (s.store k l).feature j = s.feature j := rfl
@[simp] theorem State.fver_store (k : Nat) (l : List Byte) : (s.store k l).fver = s.fver := rfl
@[simp] theorem State.dtime_store (k : Nat) (l : List Byte) : (s.store k l).dtime = s.dtime := rfl
@[simp] theorem State.sem_store (k : Nat) (l : List Byte) (j n : Nat) : (s.store k l).sem j n = s.sem j n := rfl
@[simp] theorem State.quota_store (k : Nat) (l : List Byte) (j n : Nat) : (s.store k l).quota j n = s.quota j n := rfl
@[simp] theorem State.cpoolOf_store (k : Nat) (l : List Byte) (j : Nat) : (s.store k l).cpoolOf j = s.cpoolOf j := rfl
@[simp] theorem State.ctx_markUsed (l : Nat) (u : Use) (j : Nat) : (s.markUsed l u).ctx j = s.ctx j := rfl
@[simp] theorem State.part_markUsed (l : Nat) (u : Use) (j : Nat) : (s.markUsed l u).part j = s.part j := rfl
@[simp] theorem State.task_markUsed (l : Nat) (u : Use) (j : Nat) : (s.markUsed l u).task j = s.task j := rfl
@[simp] theorem State.tile_markUsed (l : Nat) (u : Use) (j : Nat) : (s.markUsed l u).tile j = s.tile j := rfl
@[simp] theorem State.stream_markUsed (l : Nat) (u : Use) (j n : Nat) : (s.markUsed l u).stream j n = s.stream j n := rfl
@[simp] theorem State.keeper_markUsed (l : Nat) (u : Use) (j : Nat) : (s.markUsed l u).keeper j = s.keeper j := rfl
@[simp] theorem State.job_markUsed (l : Nat) (u : Use) (j : Nat) : (s.markUsed l u).job j = s.job j := rfl
@[simp] theorem State.eng_markUsed (l : Nat) (u : Use) (j : Nat) : (s.markUsed l u).eng j = s.eng j := rfl
@[simp] theorem State.scratchOf_markUsed (l : Nat) (u : Use) (j : Nat) : (s.markUsed l u).scratchOf j = s.scratchOf j := rfl
@[simp] theorem State.ownerOf_markUsed (l : Nat) (u : Use) (j : Nat) : (s.markUsed l u).ownerOf j = s.ownerOf j := rfl
@[simp] theorem State.feature_markUsed (l : Nat) (u : Use) (j : Nat) : (s.markUsed l u).feature j = s.feature j := rfl
@[simp] theorem State.fver_markUsed (l : Nat) (u : Use) : (s.markUsed l u).fver = s.fver := rfl
@[simp] theorem State.dtime_markUsed (l : Nat) (u : Use) : (s.markUsed l u).dtime = s.dtime := rfl
@[simp] theorem State.sem_markUsed (l : Nat) (u : Use) (j n : Nat) : (s.markUsed l u).sem j n = s.sem j n := rfl
@[simp] theorem State.quota_markUsed (l : Nat) (u : Use) (j n : Nat) : (s.markUsed l u).quota j n = s.quota j n := rfl
@[simp] theorem State.cpoolOf_markUsed (l : Nat) (u : Use) (j : Nat) : (s.markUsed l u).cpoolOf j = s.cpoolOf j := rfl

/-! The state: what reads back. -/

@[simp] theorem State.ctx_setCtx (s : State) (k : Nat) (c : Ctx) : (s.setCtx k c).ctx k = c := by simp [State.ctx, State.setCtx]
theorem State.ctx_setCtx_other (s : State) {k j : Nat} (c : Ctx) (h : j ≠ k) : (s.setCtx k c).ctx j = s.ctx j := by
  simp [State.ctx, State.setCtx, SMap.getD_put_other _ _ _ h]
@[simp] theorem State.ctx_modCtx (s : State) (k : Nat) (f : Ctx → Ctx) : (s.modCtx k f).ctx k = f (s.ctx k) := by
  simp [State.modCtx]
theorem State.ctx_modCtx_other (s : State) {k j : Nat} (f : Ctx → Ctx) (h : j ≠ k) : (s.modCtx k f).ctx j = s.ctx j :=
  State.ctx_setCtx_other s _ h
@[simp] theorem State.setCtx_setCtx (s : State) (k : Nat) (c d : Ctx) : (s.setCtx k c).setCtx k d = s.setCtx k d := by
  simp [State.setCtx]
@[simp] theorem State.modCtx_setCtx (s : State) (k : Nat) (c : Ctx) (f : Ctx → Ctx) : (s.setCtx k c).modCtx k f = s.setCtx k (f c) := by
  simp [State.modCtx]
@[simp] theorem State.setCtx_modCtx (s : State) (k : Nat) (c : Ctx) (f : Ctx → Ctx) : (s.modCtx k f).setCtx k c = s.setCtx k c := by
  simp [State.modCtx]
@[simp] theorem State.modCtx_modCtx (s : State) (k : Nat) (f g : Ctx → Ctx) :
    (s.modCtx k f).modCtx k g = s.modCtx k fun c => g (f c) := by
  simp [State.modCtx]
@[simp] theorem State.part_setPart (s : State) (p : Nat) (x : Part) : (s.setPart p x).part p = x := by simp [State.part, State.setPart]
theorem State.part_setPart_other (s : State) {p j : Nat} (x : Part) (h : j ≠ p) : (s.setPart p x).part j = s.part j := by
  simp [State.part, State.setPart, SMap.getD_put_other _ _ _ h]
@[simp] theorem State.task_setTask (s : State) (t : Nat) (x : Task) : (s.setTask t x).task t = x := by simp [State.task, State.setTask]
theorem State.task_setTask_other (s : State) {t j : Nat} (x : Task) (h : j ≠ t) : (s.setTask t x).task j = s.task j := by
  simp [State.task, State.setTask, SMap.getD_put_other _ _ _ h]
@[simp] theorem State.tile_setTile (s : State) (k : Nat) (x : Tile) : (s.setTile k x).tile k = x := by simp [State.tile, State.setTile]
theorem State.tile_setTile_other (s : State) {k j : Nat} (x : Tile) (h : j ≠ k) : (s.setTile k x).tile j = s.tile j := by
  simp [State.tile, State.setTile, SMap.getD_put_other _ _ _ h]
@[simp] theorem State.job_setJob (s : State) (j : Nat) (x : Job) : (s.setJob j x).job j = x := by simp [State.job, State.setJob]
@[simp] theorem State.eng_setEng (s : State) (q : Nat) (x : QEng) : (s.setEng q x).eng q = x := by simp [State.eng, State.setEng]
@[simp] theorem State.sem_setSem (s : State) (c i v : Nat) : (s.setSem c i v).sem c i = v % 65536 := by
  simp [State.sem, State.setSem]
theorem State.sem_setSem_other (s : State) {c i d j : Nat} (v : Nat) (h : d * 256 + j ≠ c * 256 + i) :
    (s.setSem c i v).sem d j = s.sem d j := by
  simp [State.sem, State.setSem, SMap.getD_put_other _ _ _ h]

/-! A context: fields that an update does not touch. -/

variable (c : Ctx)
@[simp] theorem Ctx.setReg_slot (n : BitVec 5) (v : Word) : (c.setReg n v).slot = c.slot := by unfold Ctx.setReg; split <;> rfl
@[simp] theorem Ctx.setReg_task (n : BitVec 5) (v : Word) : (c.setReg n v).task = c.task := by unfold Ctx.setReg; split <;> rfl
@[simp] theorem Ctx.setReg_taskR (n : BitVec 5) (v : Word) : (c.setReg n v).taskR = c.taskR := by unfold Ctx.setReg; split <;> rfl
@[simp] theorem Ctx.setReg_keeper (n : BitVec 5) (v : Word) : (c.setReg n v).keeper = c.keeper := by unfold Ctx.setReg; split <;> rfl
@[simp] theorem Ctx.setReg_part (n : BitVec 5) (v : Word) : (c.setReg n v).part = c.part := by unfold Ctx.setReg; split <;> rfl
@[simp] theorem Ctx.setReg_prio (n : BitVec 5) (v : Word) : (c.setReg n v).prio = c.prio := by unfold Ctx.setReg; split <;> rfl
@[simp] theorem Ctx.setReg_pc (n : BitVec 5) (v : Word) : (c.setReg n v).pc = c.pc := by unfold Ctx.setReg; split <;> rfl
@[simp] theorem Ctx.setReg_pred (n : BitVec 5) (v : Word) : (c.setReg n v).pred = c.pred := by unfold Ctx.setReg; split <;> rfl
@[simp] theorem Ctx.setReg_th (n : BitVec 5) (v : Word) : (c.setReg n v).th = c.th := by unfold Ctx.setReg; split <;> rfl
@[simp] theorem Ctx.setReg_ph (n : BitVec 5) (v : Word) : (c.setReg n v).ph = c.ph := by unfold Ctx.setReg; split <;> rfl
@[simp] theorem Ctx.setReg_direct (n : BitVec 5) (v : Word) : (c.setReg n v).direct = c.direct := by unfold Ctx.setReg; split <;> rfl
@[simp] theorem Ctx.setReg_lxu (n : BitVec 5) (v : Word) : (c.setReg n v).lxu = c.lxu := by unfold Ctx.setReg; split <;> rfl
@[simp] theorem Ctx.setReg_depth (n : BitVec 5) (v : Word) : (c.setReg n v).depth = c.depth := by unfold Ctx.setReg; split <;> rfl
@[simp] theorem Ctx.setReg_async (n : BitVec 5) (v : Word) : (c.setReg n v).async = c.async := by unfold Ctx.setReg; split <;> rfl
@[simp] theorem Ctx.setReg_lc (n : BitVec 5) (v : Word) : (c.setReg n v).lc = c.lc := by unfold Ctx.setReg; split <;> rfl
@[simp] theorem Ctx.setReg_etb (n : BitVec 5) (v : Word) : (c.setReg n v).etb = c.etb := by unfold Ctx.setReg; split <;> rfl
@[simp] theorem Ctx.setReg_ptb (n : BitVec 5) (v : Word) : (c.setReg n v).ptb = c.ptb := by unfold Ctx.setReg; split <;> rfl
@[simp] theorem Ctx.setReg_ltb (n : BitVec 5) (v : Word) : (c.setReg n v).ltb = c.ltb := by unfold Ctx.setReg; split <;> rfl
@[simp] theorem Ctx.setReg_stamp (n : BitVec 5) (v : Word) : (c.setReg n v).stamp = c.stamp := by unfold Ctx.setReg; split <;> rfl
@[simp] theorem Ctx.setReg_fpc (n : BitVec 5) (v : Word) : (c.setReg n v).fpc = c.fpc := by unfold Ctx.setReg; split <;> rfl
@[simp] theorem Ctx.setReg_fps (n : BitVec 5) (v : Word) : (c.setReg n v).fps = c.fps := by unfold Ctx.setReg; split <;> rfl
@[simp] theorem Ctx.setReg_tcause (n : BitVec 5) (v : Word) : (c.setReg n v).tcause = c.tcause := by unfold Ctx.setReg; split <;> rfl
@[simp] theorem Ctx.setReg_tpc (n : BitVec 5) (v : Word) : (c.setReg n v).tpc = c.tpc := by unfold Ctx.setReg; split <;> rfl
@[simp] theorem Ctx.setReg_tval (n : BitVec 5) (v : Word) : (c.setReg n v).tval = c.tval := by unfold Ctx.setReg; split <;> rfl
@[simp] theorem Ctx.setReg_tinfo (n : BitVec 5) (v : Word) : (c.setReg n v).tinfo = c.tinfo := by unfold Ctx.setReg; split <;> rfl
@[simp] theorem Ctx.setReg_tvec (n : BitVec 5) (v : Word) : (c.setReg n v).tvec = c.tvec := by unfold Ctx.setReg; split <;> rfl
@[simp] theorem Ctx.setReg_tsave (n : BitVec 5) (v : Word) : (c.setReg n v).tsave = c.tsave := by unfold Ctx.setReg; split <;> rfl
@[simp] theorem Ctx.setReg_tsavd (n : BitVec 5) (v : Word) : (c.setReg n v).tsavd = c.tsavd := by unfold Ctx.setReg; split <;> rfl
@[simp] theorem Ctx.setReg_launch (n : BitVec 5) (v : Word) : (c.setReg n v).launch = c.launch := by unfold Ctx.setReg; split <;> rfl
@[simp] theorem Ctx.setReg_exits (n : BitVec 5) (v : Word) : (c.setReg n v).exits = c.exits := by unfold Ctx.setReg; split <;> rfl
@[simp] theorem Ctx.setReg_calls (n : BitVec 5) (v : Word) : (c.setReg n v).calls = c.calls := by unfold Ctx.setReg; split <;> rfl
@[simp] theorem Ctx.setReg_h (n : BitVec 5) (v : Word) : (c.setReg n v).h = c.h := by unfold Ctx.setReg; split <;> rfl
@[simp] theorem Ctx.setReg_f (n : BitVec 5) (v : Word) : (c.setReg n v).f = c.f := by unfold Ctx.setReg; split <;> rfl
@[simp] theorem Ctx.setReg_k (n : BitVec 5) (v : Word) : (c.setReg n v).k = c.k := by unfold Ctx.setReg; split <;> rfl
@[simp] theorem Ctx.setReg_installs (n : BitVec 5) (v : Word) : (c.setReg n v).installs = c.installs := by unfold Ctx.setReg; split <;> rfl
@[simp] theorem Ctx.setReg_v (n : BitVec 5) (v : Word) : (c.setReg n v).v = c.v := by unfold Ctx.setReg; split <;> rfl
@[simp] theorem Ctx.setReg_acc (n : BitVec 5) (v : Word) : (c.setReg n v).acc = c.acc := by unfold Ctx.setReg; split <;> rfl
@[simp] theorem Ctx.setReg_ovf (n : BitVec 5) (v : Word) : (c.setReg n v).ovf = c.ovf := by unfold Ctx.setReg; split <;> rfl
@[simp] theorem Ctx.setReg_mx (n : BitVec 5) (v : Word) : (c.setReg n v).mx = c.mx := by unfold Ctx.setReg; split <;> rfl
@[simp] theorem Ctx.setReg_sbuf (n : BitVec 5) (v : Word) : (c.setReg n v).sbuf = c.sbuf := by unfold Ctx.setReg; split <;> rfl
@[simp] theorem Ctx.setReg_sbits (n : BitVec 5) (v : Word) : (c.setReg n v).sbits = c.sbits := by unfold Ctx.setReg; split <;> rfl
@[simp] theorem Ctx.setReg_secs (n : BitVec 5) (v : Word) : (c.setReg n v).secs = c.secs := by unfold Ctx.setReg; split <;> rfl
@[simp] theorem Ctx.setReg_cbuf (n : BitVec 5) (v : Word) : (c.setReg n v).cbuf = c.cbuf := by unfold Ctx.setReg; split <;> rfl
@[simp] theorem Ctx.setReg_region (n : BitVec 5) (v : Word) : (c.setReg n v).region = c.region := by unfold Ctx.setReg; split <;> rfl
@[simp] theorem Ctx.setReg_patch (n : BitVec 5) (v : Word) : (c.setReg n v).patch = c.patch := by unfold Ctx.setReg; split <;> rfl
@[simp] theorem Ctx.setReg_stall (n : BitVec 5) (v : Word) : (c.setReg n v).stall = c.stall := by unfold Ctx.setReg; split <;> rfl
@[simp] theorem Ctx.setReg_since (n : BitVec 5) (v : Word) : (c.setReg n v).since = c.since := by unfold Ctx.setReg; split <;> rfl
@[simp] theorem Ctx.setReg_stallAt (n : BitVec 5) (v : Word) : (c.setReg n v).stallAt = c.stallAt := by unfold Ctx.setReg; split <;> rfl
@[simp] theorem Ctx.setReg_passed (n : BitVec 5) (v : Word) : (c.setReg n v).passed = c.passed := by unfold Ctx.setReg; split <;> rfl
@[simp] theorem Ctx.setReg_ending (n : BitVec 5) (v : Word) : (c.setReg n v).ending = c.ending := by unfold Ctx.setReg; split <;> rfl
@[simp] theorem Ctx.setReg_wd (n : BitVec 5) (v : Word) : (c.setReg n v).wd = c.wd := by unfold Ctx.setReg; split <;> rfl
@[simp] theorem Ctx.setReg_wdFired (n : BitVec 5) (v : Word) : (c.setReg n v).wdFired = c.wdFired := by unfold Ctx.setReg; split <;> rfl
@[simp] theorem Ctx.setReg_started (n : BitVec 5) (v : Word) : (c.setReg n v).started = c.started := by unfold Ctx.setReg; split <;> rfl
@[simp] theorem Ctx.setReg_image (n : BitVec 5) (v : Word) : (c.setReg n v).image = c.image := by unfold Ctx.setReg; split <;> rfl
@[simp] theorem Ctx.setReg_heir (n : BitVec 5) (v : Word) : (c.setReg n v).heir = c.heir := by unfold Ctx.setReg; split <;> rfl
@[simp] theorem Ctx.setReg_upset (n : BitVec 5) (v : Word) : (c.setReg n v).upset = c.upset := by unfold Ctx.setReg; split <;> rfl
@[simp] theorem Ctx.setPrd_slot (n : Nat) (b : Bool) : (c.setPrd n b).slot = c.slot := rfl
@[simp] theorem Ctx.setPrd_task (n : Nat) (b : Bool) : (c.setPrd n b).task = c.task := rfl
@[simp] theorem Ctx.setPrd_taskR (n : Nat) (b : Bool) : (c.setPrd n b).taskR = c.taskR := rfl
@[simp] theorem Ctx.setPrd_keeper (n : Nat) (b : Bool) : (c.setPrd n b).keeper = c.keeper := rfl
@[simp] theorem Ctx.setPrd_part (n : Nat) (b : Bool) : (c.setPrd n b).part = c.part := rfl
@[simp] theorem Ctx.setPrd_prio (n : Nat) (b : Bool) : (c.setPrd n b).prio = c.prio := rfl
@[simp] theorem Ctx.setPrd_pc (n : Nat) (b : Bool) : (c.setPrd n b).pc = c.pc := rfl
@[simp] theorem Ctx.setPrd_th (n : Nat) (b : Bool) : (c.setPrd n b).th = c.th := rfl
@[simp] theorem Ctx.setPrd_ph (n : Nat) (b : Bool) : (c.setPrd n b).ph = c.ph := rfl
@[simp] theorem Ctx.setPrd_direct (n : Nat) (b : Bool) : (c.setPrd n b).direct = c.direct := rfl
@[simp] theorem Ctx.setPrd_lxu (n : Nat) (b : Bool) : (c.setPrd n b).lxu = c.lxu := rfl
@[simp] theorem Ctx.setPrd_depth (n : Nat) (b : Bool) : (c.setPrd n b).depth = c.depth := rfl
@[simp] theorem Ctx.setPrd_async (n : Nat) (b : Bool) : (c.setPrd n b).async = c.async := rfl
@[simp] theorem Ctx.setPrd_lc (n : Nat) (b : Bool) : (c.setPrd n b).lc = c.lc := rfl
@[simp] theorem Ctx.setPrd_etb (n : Nat) (b : Bool) : (c.setPrd n b).etb = c.etb := rfl
@[simp] theorem Ctx.setPrd_ptb (n : Nat) (b : Bool) : (c.setPrd n b).ptb = c.ptb := rfl
@[simp] theorem Ctx.setPrd_ltb (n : Nat) (b : Bool) : (c.setPrd n b).ltb = c.ltb := rfl
@[simp] theorem Ctx.setPrd_stamp (n : Nat) (b : Bool) : (c.setPrd n b).stamp = c.stamp := rfl
@[simp] theorem Ctx.setPrd_fpc (n : Nat) (b : Bool) : (c.setPrd n b).fpc = c.fpc := rfl
@[simp] theorem Ctx.setPrd_fps (n : Nat) (b : Bool) : (c.setPrd n b).fps = c.fps := rfl
@[simp] theorem Ctx.setPrd_tcause (n : Nat) (b : Bool) : (c.setPrd n b).tcause = c.tcause := rfl
@[simp] theorem Ctx.setPrd_tpc (n : Nat) (b : Bool) : (c.setPrd n b).tpc = c.tpc := rfl
@[simp] theorem Ctx.setPrd_tval (n : Nat) (b : Bool) : (c.setPrd n b).tval = c.tval := rfl
@[simp] theorem Ctx.setPrd_tinfo (n : Nat) (b : Bool) : (c.setPrd n b).tinfo = c.tinfo := rfl
@[simp] theorem Ctx.setPrd_tvec (n : Nat) (b : Bool) : (c.setPrd n b).tvec = c.tvec := rfl
@[simp] theorem Ctx.setPrd_tsave (n : Nat) (b : Bool) : (c.setPrd n b).tsave = c.tsave := rfl
@[simp] theorem Ctx.setPrd_tsavd (n : Nat) (b : Bool) : (c.setPrd n b).tsavd = c.tsavd := rfl
@[simp] theorem Ctx.setPrd_launch (n : Nat) (b : Bool) : (c.setPrd n b).launch = c.launch := rfl
@[simp] theorem Ctx.setPrd_exits (n : Nat) (b : Bool) : (c.setPrd n b).exits = c.exits := rfl
@[simp] theorem Ctx.setPrd_calls (n : Nat) (b : Bool) : (c.setPrd n b).calls = c.calls := rfl
@[simp] theorem Ctx.setPrd_s (n : Nat) (b : Bool) : (c.setPrd n b).s = c.s := rfl
@[simp] theorem Ctx.setPrd_h (n : Nat) (b : Bool) : (c.setPrd n b).h = c.h := rfl
@[simp] theorem Ctx.setPrd_f (n : Nat) (b : Bool) : (c.setPrd n b).f = c.f := rfl
@[simp] theorem Ctx.setPrd_k (n : Nat) (b : Bool) : (c.setPrd n b).k = c.k := rfl
@[simp] theorem Ctx.setPrd_installs (n : Nat) (b : Bool) : (c.setPrd n b).installs = c.installs := rfl
@[simp] theorem Ctx.setPrd_v (n : Nat) (b : Bool) : (c.setPrd n b).v = c.v := rfl
@[simp] theorem Ctx.setPrd_acc (n : Nat) (b : Bool) : (c.setPrd n b).acc = c.acc := rfl
@[simp] theorem Ctx.setPrd_ovf (n : Nat) (b : Bool) : (c.setPrd n b).ovf = c.ovf := rfl
@[simp] theorem Ctx.setPrd_mx (n : Nat) (b : Bool) : (c.setPrd n b).mx = c.mx := rfl
@[simp] theorem Ctx.setPrd_sbuf (n : Nat) (b : Bool) : (c.setPrd n b).sbuf = c.sbuf := rfl
@[simp] theorem Ctx.setPrd_sbits (n : Nat) (b : Bool) : (c.setPrd n b).sbits = c.sbits := rfl
@[simp] theorem Ctx.setPrd_secs (n : Nat) (b : Bool) : (c.setPrd n b).secs = c.secs := rfl
@[simp] theorem Ctx.setPrd_cbuf (n : Nat) (b : Bool) : (c.setPrd n b).cbuf = c.cbuf := rfl
@[simp] theorem Ctx.setPrd_region (n : Nat) (b : Bool) : (c.setPrd n b).region = c.region := rfl
@[simp] theorem Ctx.setPrd_patch (n : Nat) (b : Bool) : (c.setPrd n b).patch = c.patch := rfl
@[simp] theorem Ctx.setPrd_stall (n : Nat) (b : Bool) : (c.setPrd n b).stall = c.stall := rfl
@[simp] theorem Ctx.setPrd_since (n : Nat) (b : Bool) : (c.setPrd n b).since = c.since := rfl
@[simp] theorem Ctx.setPrd_stallAt (n : Nat) (b : Bool) : (c.setPrd n b).stallAt = c.stallAt := rfl
@[simp] theorem Ctx.setPrd_passed (n : Nat) (b : Bool) : (c.setPrd n b).passed = c.passed := rfl
@[simp] theorem Ctx.setPrd_ending (n : Nat) (b : Bool) : (c.setPrd n b).ending = c.ending := rfl
@[simp] theorem Ctx.setPrd_wd (n : Nat) (b : Bool) : (c.setPrd n b).wd = c.wd := rfl
@[simp] theorem Ctx.setPrd_wdFired (n : Nat) (b : Bool) : (c.setPrd n b).wdFired = c.wdFired := rfl
@[simp] theorem Ctx.setPrd_started (n : Nat) (b : Bool) : (c.setPrd n b).started = c.started := rfl
@[simp] theorem Ctx.setPrd_image (n : Nat) (b : Bool) : (c.setPrd n b).image = c.image := rfl
@[simp] theorem Ctx.setPrd_heir (n : Nat) (b : Bool) : (c.setPrd n b).heir = c.heir := rfl
@[simp] theorem Ctx.setPrd_bad (n : Nat) (b : Bool) : (c.setPrd n b).bad = c.bad := rfl
@[simp] theorem Ctx.setPrd_upset (n : Nat) (b : Bool) : (c.setPrd n b).upset = c.upset := rfl
@[simp] theorem Ctx.setH_slot (n : BitVec 5) (v : BitVec 32) : (c.setH n v).slot = c.slot := rfl
@[simp] theorem Ctx.setH_task (n : BitVec 5) (v : BitVec 32) : (c.setH n v).task = c.task := rfl
@[simp] theorem Ctx.setH_taskR (n : BitVec 5) (v : BitVec 32) : (c.setH n v).taskR = c.taskR := rfl
@[simp] theorem Ctx.setH_keeper (n : BitVec 5) (v : BitVec 32) : (c.setH n v).keeper = c.keeper := rfl
@[simp] theorem Ctx.setH_part (n : BitVec 5) (v : BitVec 32) : (c.setH n v).part = c.part := rfl
@[simp] theorem Ctx.setH_prio (n : BitVec 5) (v : BitVec 32) : (c.setH n v).prio = c.prio := rfl
@[simp] theorem Ctx.setH_pc (n : BitVec 5) (v : BitVec 32) : (c.setH n v).pc = c.pc := rfl
@[simp] theorem Ctx.setH_pred (n : BitVec 5) (v : BitVec 32) : (c.setH n v).pred = c.pred := rfl
@[simp] theorem Ctx.setH_th (n : BitVec 5) (v : BitVec 32) : (c.setH n v).th = c.th := rfl
@[simp] theorem Ctx.setH_ph (n : BitVec 5) (v : BitVec 32) : (c.setH n v).ph = c.ph := rfl
@[simp] theorem Ctx.setH_direct (n : BitVec 5) (v : BitVec 32) : (c.setH n v).direct = c.direct := rfl
@[simp] theorem Ctx.setH_lxu (n : BitVec 5) (v : BitVec 32) : (c.setH n v).lxu = c.lxu := rfl
@[simp] theorem Ctx.setH_depth (n : BitVec 5) (v : BitVec 32) : (c.setH n v).depth = c.depth := rfl
@[simp] theorem Ctx.setH_async (n : BitVec 5) (v : BitVec 32) : (c.setH n v).async = c.async := rfl
@[simp] theorem Ctx.setH_lc (n : BitVec 5) (v : BitVec 32) : (c.setH n v).lc = c.lc := rfl
@[simp] theorem Ctx.setH_etb (n : BitVec 5) (v : BitVec 32) : (c.setH n v).etb = c.etb := rfl
@[simp] theorem Ctx.setH_ptb (n : BitVec 5) (v : BitVec 32) : (c.setH n v).ptb = c.ptb := rfl
@[simp] theorem Ctx.setH_ltb (n : BitVec 5) (v : BitVec 32) : (c.setH n v).ltb = c.ltb := rfl
@[simp] theorem Ctx.setH_stamp (n : BitVec 5) (v : BitVec 32) : (c.setH n v).stamp = c.stamp := rfl
@[simp] theorem Ctx.setH_fpc (n : BitVec 5) (v : BitVec 32) : (c.setH n v).fpc = c.fpc := rfl
@[simp] theorem Ctx.setH_fps (n : BitVec 5) (v : BitVec 32) : (c.setH n v).fps = c.fps := rfl
@[simp] theorem Ctx.setH_tcause (n : BitVec 5) (v : BitVec 32) : (c.setH n v).tcause = c.tcause := rfl
@[simp] theorem Ctx.setH_tpc (n : BitVec 5) (v : BitVec 32) : (c.setH n v).tpc = c.tpc := rfl
@[simp] theorem Ctx.setH_tval (n : BitVec 5) (v : BitVec 32) : (c.setH n v).tval = c.tval := rfl
@[simp] theorem Ctx.setH_tinfo (n : BitVec 5) (v : BitVec 32) : (c.setH n v).tinfo = c.tinfo := rfl
@[simp] theorem Ctx.setH_tvec (n : BitVec 5) (v : BitVec 32) : (c.setH n v).tvec = c.tvec := rfl
@[simp] theorem Ctx.setH_tsave (n : BitVec 5) (v : BitVec 32) : (c.setH n v).tsave = c.tsave := rfl
@[simp] theorem Ctx.setH_tsavd (n : BitVec 5) (v : BitVec 32) : (c.setH n v).tsavd = c.tsavd := rfl
@[simp] theorem Ctx.setH_launch (n : BitVec 5) (v : BitVec 32) : (c.setH n v).launch = c.launch := rfl
@[simp] theorem Ctx.setH_exits (n : BitVec 5) (v : BitVec 32) : (c.setH n v).exits = c.exits := rfl
@[simp] theorem Ctx.setH_calls (n : BitVec 5) (v : BitVec 32) : (c.setH n v).calls = c.calls := rfl
@[simp] theorem Ctx.setH_s (n : BitVec 5) (v : BitVec 32) : (c.setH n v).s = c.s := rfl
@[simp] theorem Ctx.setH_f (n : BitVec 5) (v : BitVec 32) : (c.setH n v).f = c.f := rfl
@[simp] theorem Ctx.setH_k (n : BitVec 5) (v : BitVec 32) : (c.setH n v).k = c.k := rfl
@[simp] theorem Ctx.setH_installs (n : BitVec 5) (v : BitVec 32) : (c.setH n v).installs = c.installs := rfl
@[simp] theorem Ctx.setH_v (n : BitVec 5) (v : BitVec 32) : (c.setH n v).v = c.v := rfl
@[simp] theorem Ctx.setH_acc (n : BitVec 5) (v : BitVec 32) : (c.setH n v).acc = c.acc := rfl
@[simp] theorem Ctx.setH_ovf (n : BitVec 5) (v : BitVec 32) : (c.setH n v).ovf = c.ovf := rfl
@[simp] theorem Ctx.setH_mx (n : BitVec 5) (v : BitVec 32) : (c.setH n v).mx = c.mx := rfl
@[simp] theorem Ctx.setH_sbuf (n : BitVec 5) (v : BitVec 32) : (c.setH n v).sbuf = c.sbuf := rfl
@[simp] theorem Ctx.setH_sbits (n : BitVec 5) (v : BitVec 32) : (c.setH n v).sbits = c.sbits := rfl
@[simp] theorem Ctx.setH_secs (n : BitVec 5) (v : BitVec 32) : (c.setH n v).secs = c.secs := rfl
@[simp] theorem Ctx.setH_cbuf (n : BitVec 5) (v : BitVec 32) : (c.setH n v).cbuf = c.cbuf := rfl
@[simp] theorem Ctx.setH_region (n : BitVec 5) (v : BitVec 32) : (c.setH n v).region = c.region := rfl
@[simp] theorem Ctx.setH_patch (n : BitVec 5) (v : BitVec 32) : (c.setH n v).patch = c.patch := rfl
@[simp] theorem Ctx.setH_stall (n : BitVec 5) (v : BitVec 32) : (c.setH n v).stall = c.stall := rfl
@[simp] theorem Ctx.setH_since (n : BitVec 5) (v : BitVec 32) : (c.setH n v).since = c.since := rfl
@[simp] theorem Ctx.setH_stallAt (n : BitVec 5) (v : BitVec 32) : (c.setH n v).stallAt = c.stallAt := rfl
@[simp] theorem Ctx.setH_passed (n : BitVec 5) (v : BitVec 32) : (c.setH n v).passed = c.passed := rfl
@[simp] theorem Ctx.setH_ending (n : BitVec 5) (v : BitVec 32) : (c.setH n v).ending = c.ending := rfl
@[simp] theorem Ctx.setH_wd (n : BitVec 5) (v : BitVec 32) : (c.setH n v).wd = c.wd := rfl
@[simp] theorem Ctx.setH_wdFired (n : BitVec 5) (v : BitVec 32) : (c.setH n v).wdFired = c.wdFired := rfl
@[simp] theorem Ctx.setH_started (n : BitVec 5) (v : BitVec 32) : (c.setH n v).started = c.started := rfl
@[simp] theorem Ctx.setH_image (n : BitVec 5) (v : BitVec 32) : (c.setH n v).image = c.image := rfl
@[simp] theorem Ctx.setH_heir (n : BitVec 5) (v : BitVec 32) : (c.setH n v).heir = c.heir := rfl
@[simp] theorem Ctx.setH_upset (n : BitVec 5) (v : BitVec 32) : (c.setH n v).upset = c.upset := rfl
@[simp] theorem Ctx.setLoopc_slot (n : Nat) (v : BitVec 32) : (c.setLoopc n v).slot = c.slot := rfl
@[simp] theorem Ctx.setLoopc_task (n : Nat) (v : BitVec 32) : (c.setLoopc n v).task = c.task := rfl
@[simp] theorem Ctx.setLoopc_taskR (n : Nat) (v : BitVec 32) : (c.setLoopc n v).taskR = c.taskR := rfl
@[simp] theorem Ctx.setLoopc_keeper (n : Nat) (v : BitVec 32) : (c.setLoopc n v).keeper = c.keeper := rfl
@[simp] theorem Ctx.setLoopc_part (n : Nat) (v : BitVec 32) : (c.setLoopc n v).part = c.part := rfl
@[simp] theorem Ctx.setLoopc_prio (n : Nat) (v : BitVec 32) : (c.setLoopc n v).prio = c.prio := rfl
@[simp] theorem Ctx.setLoopc_pc (n : Nat) (v : BitVec 32) : (c.setLoopc n v).pc = c.pc := rfl
@[simp] theorem Ctx.setLoopc_pred (n : Nat) (v : BitVec 32) : (c.setLoopc n v).pred = c.pred := rfl
@[simp] theorem Ctx.setLoopc_th (n : Nat) (v : BitVec 32) : (c.setLoopc n v).th = c.th := rfl
@[simp] theorem Ctx.setLoopc_ph (n : Nat) (v : BitVec 32) : (c.setLoopc n v).ph = c.ph := rfl
@[simp] theorem Ctx.setLoopc_direct (n : Nat) (v : BitVec 32) : (c.setLoopc n v).direct = c.direct := rfl
@[simp] theorem Ctx.setLoopc_lxu (n : Nat) (v : BitVec 32) : (c.setLoopc n v).lxu = c.lxu := rfl
@[simp] theorem Ctx.setLoopc_depth (n : Nat) (v : BitVec 32) : (c.setLoopc n v).depth = c.depth := rfl
@[simp] theorem Ctx.setLoopc_async (n : Nat) (v : BitVec 32) : (c.setLoopc n v).async = c.async := rfl
@[simp] theorem Ctx.setLoopc_etb (n : Nat) (v : BitVec 32) : (c.setLoopc n v).etb = c.etb := rfl
@[simp] theorem Ctx.setLoopc_ptb (n : Nat) (v : BitVec 32) : (c.setLoopc n v).ptb = c.ptb := rfl
@[simp] theorem Ctx.setLoopc_ltb (n : Nat) (v : BitVec 32) : (c.setLoopc n v).ltb = c.ltb := rfl
@[simp] theorem Ctx.setLoopc_stamp (n : Nat) (v : BitVec 32) : (c.setLoopc n v).stamp = c.stamp := rfl
@[simp] theorem Ctx.setLoopc_fpc (n : Nat) (v : BitVec 32) : (c.setLoopc n v).fpc = c.fpc := rfl
@[simp] theorem Ctx.setLoopc_fps (n : Nat) (v : BitVec 32) : (c.setLoopc n v).fps = c.fps := rfl
@[simp] theorem Ctx.setLoopc_tcause (n : Nat) (v : BitVec 32) : (c.setLoopc n v).tcause = c.tcause := rfl
@[simp] theorem Ctx.setLoopc_tpc (n : Nat) (v : BitVec 32) : (c.setLoopc n v).tpc = c.tpc := rfl
@[simp] theorem Ctx.setLoopc_tval (n : Nat) (v : BitVec 32) : (c.setLoopc n v).tval = c.tval := rfl
@[simp] theorem Ctx.setLoopc_tinfo (n : Nat) (v : BitVec 32) : (c.setLoopc n v).tinfo = c.tinfo := rfl
@[simp] theorem Ctx.setLoopc_tvec (n : Nat) (v : BitVec 32) : (c.setLoopc n v).tvec = c.tvec := rfl
@[simp] theorem Ctx.setLoopc_tsave (n : Nat) (v : BitVec 32) : (c.setLoopc n v).tsave = c.tsave := rfl
@[simp] theorem Ctx.setLoopc_tsavd (n : Nat) (v : BitVec 32) : (c.setLoopc n v).tsavd = c.tsavd := rfl
@[simp] theorem Ctx.setLoopc_launch (n : Nat) (v : BitVec 32) : (c.setLoopc n v).launch = c.launch := rfl
@[simp] theorem Ctx.setLoopc_exits (n : Nat) (v : BitVec 32) : (c.setLoopc n v).exits = c.exits := rfl
@[simp] theorem Ctx.setLoopc_calls (n : Nat) (v : BitVec 32) : (c.setLoopc n v).calls = c.calls := rfl
@[simp] theorem Ctx.setLoopc_s (n : Nat) (v : BitVec 32) : (c.setLoopc n v).s = c.s := rfl
@[simp] theorem Ctx.setLoopc_h (n : Nat) (v : BitVec 32) : (c.setLoopc n v).h = c.h := rfl
@[simp] theorem Ctx.setLoopc_f (n : Nat) (v : BitVec 32) : (c.setLoopc n v).f = c.f := rfl
@[simp] theorem Ctx.setLoopc_k (n : Nat) (v : BitVec 32) : (c.setLoopc n v).k = c.k := rfl
@[simp] theorem Ctx.setLoopc_installs (n : Nat) (v : BitVec 32) : (c.setLoopc n v).installs = c.installs := rfl
@[simp] theorem Ctx.setLoopc_v (n : Nat) (v : BitVec 32) : (c.setLoopc n v).v = c.v := rfl
@[simp] theorem Ctx.setLoopc_acc (n : Nat) (v : BitVec 32) : (c.setLoopc n v).acc = c.acc := rfl
@[simp] theorem Ctx.setLoopc_ovf (n : Nat) (v : BitVec 32) : (c.setLoopc n v).ovf = c.ovf := rfl
@[simp] theorem Ctx.setLoopc_mx (n : Nat) (v : BitVec 32) : (c.setLoopc n v).mx = c.mx := rfl
@[simp] theorem Ctx.setLoopc_sbuf (n : Nat) (v : BitVec 32) : (c.setLoopc n v).sbuf = c.sbuf := rfl
@[simp] theorem Ctx.setLoopc_sbits (n : Nat) (v : BitVec 32) : (c.setLoopc n v).sbits = c.sbits := rfl
@[simp] theorem Ctx.setLoopc_secs (n : Nat) (v : BitVec 32) : (c.setLoopc n v).secs = c.secs := rfl
@[simp] theorem Ctx.setLoopc_cbuf (n : Nat) (v : BitVec 32) : (c.setLoopc n v).cbuf = c.cbuf := rfl
@[simp] theorem Ctx.setLoopc_region (n : Nat) (v : BitVec 32) : (c.setLoopc n v).region = c.region := rfl
@[simp] theorem Ctx.setLoopc_patch (n : Nat) (v : BitVec 32) : (c.setLoopc n v).patch = c.patch := rfl
@[simp] theorem Ctx.setLoopc_stall (n : Nat) (v : BitVec 32) : (c.setLoopc n v).stall = c.stall := rfl
@[simp] theorem Ctx.setLoopc_since (n : Nat) (v : BitVec 32) : (c.setLoopc n v).since = c.since := rfl
@[simp] theorem Ctx.setLoopc_stallAt (n : Nat) (v : BitVec 32) : (c.setLoopc n v).stallAt = c.stallAt := rfl
@[simp] theorem Ctx.setLoopc_passed (n : Nat) (v : BitVec 32) : (c.setLoopc n v).passed = c.passed := rfl
@[simp] theorem Ctx.setLoopc_ending (n : Nat) (v : BitVec 32) : (c.setLoopc n v).ending = c.ending := rfl
@[simp] theorem Ctx.setLoopc_wd (n : Nat) (v : BitVec 32) : (c.setLoopc n v).wd = c.wd := rfl
@[simp] theorem Ctx.setLoopc_wdFired (n : Nat) (v : BitVec 32) : (c.setLoopc n v).wdFired = c.wdFired := rfl
@[simp] theorem Ctx.setLoopc_started (n : Nat) (v : BitVec 32) : (c.setLoopc n v).started = c.started := rfl
@[simp] theorem Ctx.setLoopc_image (n : Nat) (v : BitVec 32) : (c.setLoopc n v).image = c.image := rfl
@[simp] theorem Ctx.setLoopc_heir (n : Nat) (v : BitVec 32) : (c.setLoopc n v).heir = c.heir := rfl
@[simp] theorem Ctx.setLoopc_bad (n : Nat) (v : BitVec 32) : (c.setLoopc n v).bad = c.bad := rfl
@[simp] theorem Ctx.setLoopc_upset (n : Nat) (v : BitVec 32) : (c.setLoopc n v).upset = c.upset := rfl
@[simp] theorem Ctx.setLane_slot (n l : Nat) (x : BitVec 32) : (c.setLane n l x).slot = c.slot := rfl
@[simp] theorem Ctx.setLane_task (n l : Nat) (x : BitVec 32) : (c.setLane n l x).task = c.task := rfl
@[simp] theorem Ctx.setLane_taskR (n l : Nat) (x : BitVec 32) : (c.setLane n l x).taskR = c.taskR := rfl
@[simp] theorem Ctx.setLane_keeper (n l : Nat) (x : BitVec 32) : (c.setLane n l x).keeper = c.keeper := rfl
@[simp] theorem Ctx.setLane_part (n l : Nat) (x : BitVec 32) : (c.setLane n l x).part = c.part := rfl
@[simp] theorem Ctx.setLane_prio (n l : Nat) (x : BitVec 32) : (c.setLane n l x).prio = c.prio := rfl
@[simp] theorem Ctx.setLane_pc (n l : Nat) (x : BitVec 32) : (c.setLane n l x).pc = c.pc := rfl
@[simp] theorem Ctx.setLane_pred (n l : Nat) (x : BitVec 32) : (c.setLane n l x).pred = c.pred := rfl
@[simp] theorem Ctx.setLane_th (n l : Nat) (x : BitVec 32) : (c.setLane n l x).th = c.th := rfl
@[simp] theorem Ctx.setLane_ph (n l : Nat) (x : BitVec 32) : (c.setLane n l x).ph = c.ph := rfl
@[simp] theorem Ctx.setLane_direct (n l : Nat) (x : BitVec 32) : (c.setLane n l x).direct = c.direct := rfl
@[simp] theorem Ctx.setLane_lxu (n l : Nat) (x : BitVec 32) : (c.setLane n l x).lxu = c.lxu := rfl
@[simp] theorem Ctx.setLane_depth (n l : Nat) (x : BitVec 32) : (c.setLane n l x).depth = c.depth := rfl
@[simp] theorem Ctx.setLane_async (n l : Nat) (x : BitVec 32) : (c.setLane n l x).async = c.async := rfl
@[simp] theorem Ctx.setLane_lc (n l : Nat) (x : BitVec 32) : (c.setLane n l x).lc = c.lc := rfl
@[simp] theorem Ctx.setLane_etb (n l : Nat) (x : BitVec 32) : (c.setLane n l x).etb = c.etb := rfl
@[simp] theorem Ctx.setLane_ptb (n l : Nat) (x : BitVec 32) : (c.setLane n l x).ptb = c.ptb := rfl
@[simp] theorem Ctx.setLane_ltb (n l : Nat) (x : BitVec 32) : (c.setLane n l x).ltb = c.ltb := rfl
@[simp] theorem Ctx.setLane_stamp (n l : Nat) (x : BitVec 32) : (c.setLane n l x).stamp = c.stamp := rfl
@[simp] theorem Ctx.setLane_fpc (n l : Nat) (x : BitVec 32) : (c.setLane n l x).fpc = c.fpc := rfl
@[simp] theorem Ctx.setLane_fps (n l : Nat) (x : BitVec 32) : (c.setLane n l x).fps = c.fps := rfl
@[simp] theorem Ctx.setLane_tcause (n l : Nat) (x : BitVec 32) : (c.setLane n l x).tcause = c.tcause := rfl
@[simp] theorem Ctx.setLane_tpc (n l : Nat) (x : BitVec 32) : (c.setLane n l x).tpc = c.tpc := rfl
@[simp] theorem Ctx.setLane_tval (n l : Nat) (x : BitVec 32) : (c.setLane n l x).tval = c.tval := rfl
@[simp] theorem Ctx.setLane_tinfo (n l : Nat) (x : BitVec 32) : (c.setLane n l x).tinfo = c.tinfo := rfl
@[simp] theorem Ctx.setLane_tvec (n l : Nat) (x : BitVec 32) : (c.setLane n l x).tvec = c.tvec := rfl
@[simp] theorem Ctx.setLane_tsave (n l : Nat) (x : BitVec 32) : (c.setLane n l x).tsave = c.tsave := rfl
@[simp] theorem Ctx.setLane_tsavd (n l : Nat) (x : BitVec 32) : (c.setLane n l x).tsavd = c.tsavd := rfl
@[simp] theorem Ctx.setLane_launch (n l : Nat) (x : BitVec 32) : (c.setLane n l x).launch = c.launch := rfl
@[simp] theorem Ctx.setLane_exits (n l : Nat) (x : BitVec 32) : (c.setLane n l x).exits = c.exits := rfl
@[simp] theorem Ctx.setLane_calls (n l : Nat) (x : BitVec 32) : (c.setLane n l x).calls = c.calls := rfl
@[simp] theorem Ctx.setLane_s (n l : Nat) (x : BitVec 32) : (c.setLane n l x).s = c.s := rfl
@[simp] theorem Ctx.setLane_h (n l : Nat) (x : BitVec 32) : (c.setLane n l x).h = c.h := rfl
@[simp] theorem Ctx.setLane_f (n l : Nat) (x : BitVec 32) : (c.setLane n l x).f = c.f := rfl
@[simp] theorem Ctx.setLane_k (n l : Nat) (x : BitVec 32) : (c.setLane n l x).k = c.k := rfl
@[simp] theorem Ctx.setLane_installs (n l : Nat) (x : BitVec 32) : (c.setLane n l x).installs = c.installs := rfl
@[simp] theorem Ctx.setLane_acc (n l : Nat) (x : BitVec 32) : (c.setLane n l x).acc = c.acc := rfl
@[simp] theorem Ctx.setLane_ovf (n l : Nat) (x : BitVec 32) : (c.setLane n l x).ovf = c.ovf := rfl
@[simp] theorem Ctx.setLane_mx (n l : Nat) (x : BitVec 32) : (c.setLane n l x).mx = c.mx := rfl
@[simp] theorem Ctx.setLane_sbuf (n l : Nat) (x : BitVec 32) : (c.setLane n l x).sbuf = c.sbuf := rfl
@[simp] theorem Ctx.setLane_sbits (n l : Nat) (x : BitVec 32) : (c.setLane n l x).sbits = c.sbits := rfl
@[simp] theorem Ctx.setLane_secs (n l : Nat) (x : BitVec 32) : (c.setLane n l x).secs = c.secs := rfl
@[simp] theorem Ctx.setLane_cbuf (n l : Nat) (x : BitVec 32) : (c.setLane n l x).cbuf = c.cbuf := rfl
@[simp] theorem Ctx.setLane_region (n l : Nat) (x : BitVec 32) : (c.setLane n l x).region = c.region := rfl
@[simp] theorem Ctx.setLane_patch (n l : Nat) (x : BitVec 32) : (c.setLane n l x).patch = c.patch := rfl
@[simp] theorem Ctx.setLane_stall (n l : Nat) (x : BitVec 32) : (c.setLane n l x).stall = c.stall := rfl
@[simp] theorem Ctx.setLane_since (n l : Nat) (x : BitVec 32) : (c.setLane n l x).since = c.since := rfl
@[simp] theorem Ctx.setLane_stallAt (n l : Nat) (x : BitVec 32) : (c.setLane n l x).stallAt = c.stallAt := rfl
@[simp] theorem Ctx.setLane_passed (n l : Nat) (x : BitVec 32) : (c.setLane n l x).passed = c.passed := rfl
@[simp] theorem Ctx.setLane_ending (n l : Nat) (x : BitVec 32) : (c.setLane n l x).ending = c.ending := rfl
@[simp] theorem Ctx.setLane_wd (n l : Nat) (x : BitVec 32) : (c.setLane n l x).wd = c.wd := rfl
@[simp] theorem Ctx.setLane_wdFired (n l : Nat) (x : BitVec 32) : (c.setLane n l x).wdFired = c.wdFired := rfl
@[simp] theorem Ctx.setLane_started (n l : Nat) (x : BitVec 32) : (c.setLane n l x).started = c.started := rfl
@[simp] theorem Ctx.setLane_image (n l : Nat) (x : BitVec 32) : (c.setLane n l x).image = c.image := rfl
@[simp] theorem Ctx.setLane_heir (n l : Nat) (x : BitVec 32) : (c.setLane n l x).heir = c.heir := rfl
@[simp] theorem Ctx.setLane_upset (n l : Nat) (x : BitVec 32) : (c.setLane n l x).upset = c.upset := rfl
@[simp] theorem Ctx.setAcc_slot (a m n : Nat) (x : BitVec 32) : (c.setAcc a m n x).slot = c.slot := rfl
@[simp] theorem Ctx.setAcc_task (a m n : Nat) (x : BitVec 32) : (c.setAcc a m n x).task = c.task := rfl
@[simp] theorem Ctx.setAcc_taskR (a m n : Nat) (x : BitVec 32) : (c.setAcc a m n x).taskR = c.taskR := rfl
@[simp] theorem Ctx.setAcc_keeper (a m n : Nat) (x : BitVec 32) : (c.setAcc a m n x).keeper = c.keeper := rfl
@[simp] theorem Ctx.setAcc_part (a m n : Nat) (x : BitVec 32) : (c.setAcc a m n x).part = c.part := rfl
@[simp] theorem Ctx.setAcc_prio (a m n : Nat) (x : BitVec 32) : (c.setAcc a m n x).prio = c.prio := rfl
@[simp] theorem Ctx.setAcc_pc (a m n : Nat) (x : BitVec 32) : (c.setAcc a m n x).pc = c.pc := rfl
@[simp] theorem Ctx.setAcc_pred (a m n : Nat) (x : BitVec 32) : (c.setAcc a m n x).pred = c.pred := rfl
@[simp] theorem Ctx.setAcc_th (a m n : Nat) (x : BitVec 32) : (c.setAcc a m n x).th = c.th := rfl
@[simp] theorem Ctx.setAcc_ph (a m n : Nat) (x : BitVec 32) : (c.setAcc a m n x).ph = c.ph := rfl
@[simp] theorem Ctx.setAcc_direct (a m n : Nat) (x : BitVec 32) : (c.setAcc a m n x).direct = c.direct := rfl
@[simp] theorem Ctx.setAcc_lxu (a m n : Nat) (x : BitVec 32) : (c.setAcc a m n x).lxu = c.lxu := rfl
@[simp] theorem Ctx.setAcc_depth (a m n : Nat) (x : BitVec 32) : (c.setAcc a m n x).depth = c.depth := rfl
@[simp] theorem Ctx.setAcc_async (a m n : Nat) (x : BitVec 32) : (c.setAcc a m n x).async = c.async := rfl
@[simp] theorem Ctx.setAcc_lc (a m n : Nat) (x : BitVec 32) : (c.setAcc a m n x).lc = c.lc := rfl
@[simp] theorem Ctx.setAcc_etb (a m n : Nat) (x : BitVec 32) : (c.setAcc a m n x).etb = c.etb := rfl
@[simp] theorem Ctx.setAcc_ptb (a m n : Nat) (x : BitVec 32) : (c.setAcc a m n x).ptb = c.ptb := rfl
@[simp] theorem Ctx.setAcc_ltb (a m n : Nat) (x : BitVec 32) : (c.setAcc a m n x).ltb = c.ltb := rfl
@[simp] theorem Ctx.setAcc_stamp (a m n : Nat) (x : BitVec 32) : (c.setAcc a m n x).stamp = c.stamp := rfl
@[simp] theorem Ctx.setAcc_fpc (a m n : Nat) (x : BitVec 32) : (c.setAcc a m n x).fpc = c.fpc := rfl
@[simp] theorem Ctx.setAcc_fps (a m n : Nat) (x : BitVec 32) : (c.setAcc a m n x).fps = c.fps := rfl
@[simp] theorem Ctx.setAcc_tcause (a m n : Nat) (x : BitVec 32) : (c.setAcc a m n x).tcause = c.tcause := rfl
@[simp] theorem Ctx.setAcc_tpc (a m n : Nat) (x : BitVec 32) : (c.setAcc a m n x).tpc = c.tpc := rfl
@[simp] theorem Ctx.setAcc_tval (a m n : Nat) (x : BitVec 32) : (c.setAcc a m n x).tval = c.tval := rfl
@[simp] theorem Ctx.setAcc_tinfo (a m n : Nat) (x : BitVec 32) : (c.setAcc a m n x).tinfo = c.tinfo := rfl
@[simp] theorem Ctx.setAcc_tvec (a m n : Nat) (x : BitVec 32) : (c.setAcc a m n x).tvec = c.tvec := rfl
@[simp] theorem Ctx.setAcc_tsave (a m n : Nat) (x : BitVec 32) : (c.setAcc a m n x).tsave = c.tsave := rfl
@[simp] theorem Ctx.setAcc_tsavd (a m n : Nat) (x : BitVec 32) : (c.setAcc a m n x).tsavd = c.tsavd := rfl
@[simp] theorem Ctx.setAcc_launch (a m n : Nat) (x : BitVec 32) : (c.setAcc a m n x).launch = c.launch := rfl
@[simp] theorem Ctx.setAcc_exits (a m n : Nat) (x : BitVec 32) : (c.setAcc a m n x).exits = c.exits := rfl
@[simp] theorem Ctx.setAcc_calls (a m n : Nat) (x : BitVec 32) : (c.setAcc a m n x).calls = c.calls := rfl
@[simp] theorem Ctx.setAcc_s (a m n : Nat) (x : BitVec 32) : (c.setAcc a m n x).s = c.s := rfl
@[simp] theorem Ctx.setAcc_h (a m n : Nat) (x : BitVec 32) : (c.setAcc a m n x).h = c.h := rfl
@[simp] theorem Ctx.setAcc_f (a m n : Nat) (x : BitVec 32) : (c.setAcc a m n x).f = c.f := rfl
@[simp] theorem Ctx.setAcc_k (a m n : Nat) (x : BitVec 32) : (c.setAcc a m n x).k = c.k := rfl
@[simp] theorem Ctx.setAcc_installs (a m n : Nat) (x : BitVec 32) : (c.setAcc a m n x).installs = c.installs := rfl
@[simp] theorem Ctx.setAcc_v (a m n : Nat) (x : BitVec 32) : (c.setAcc a m n x).v = c.v := rfl
@[simp] theorem Ctx.setAcc_ovf (a m n : Nat) (x : BitVec 32) : (c.setAcc a m n x).ovf = c.ovf := rfl
@[simp] theorem Ctx.setAcc_mx (a m n : Nat) (x : BitVec 32) : (c.setAcc a m n x).mx = c.mx := rfl
@[simp] theorem Ctx.setAcc_sbuf (a m n : Nat) (x : BitVec 32) : (c.setAcc a m n x).sbuf = c.sbuf := rfl
@[simp] theorem Ctx.setAcc_sbits (a m n : Nat) (x : BitVec 32) : (c.setAcc a m n x).sbits = c.sbits := rfl
@[simp] theorem Ctx.setAcc_secs (a m n : Nat) (x : BitVec 32) : (c.setAcc a m n x).secs = c.secs := rfl
@[simp] theorem Ctx.setAcc_cbuf (a m n : Nat) (x : BitVec 32) : (c.setAcc a m n x).cbuf = c.cbuf := rfl
@[simp] theorem Ctx.setAcc_region (a m n : Nat) (x : BitVec 32) : (c.setAcc a m n x).region = c.region := rfl
@[simp] theorem Ctx.setAcc_patch (a m n : Nat) (x : BitVec 32) : (c.setAcc a m n x).patch = c.patch := rfl
@[simp] theorem Ctx.setAcc_stall (a m n : Nat) (x : BitVec 32) : (c.setAcc a m n x).stall = c.stall := rfl
@[simp] theorem Ctx.setAcc_since (a m n : Nat) (x : BitVec 32) : (c.setAcc a m n x).since = c.since := rfl
@[simp] theorem Ctx.setAcc_stallAt (a m n : Nat) (x : BitVec 32) : (c.setAcc a m n x).stallAt = c.stallAt := rfl
@[simp] theorem Ctx.setAcc_passed (a m n : Nat) (x : BitVec 32) : (c.setAcc a m n x).passed = c.passed := rfl
@[simp] theorem Ctx.setAcc_ending (a m n : Nat) (x : BitVec 32) : (c.setAcc a m n x).ending = c.ending := rfl
@[simp] theorem Ctx.setAcc_wd (a m n : Nat) (x : BitVec 32) : (c.setAcc a m n x).wd = c.wd := rfl
@[simp] theorem Ctx.setAcc_wdFired (a m n : Nat) (x : BitVec 32) : (c.setAcc a m n x).wdFired = c.wdFired := rfl
@[simp] theorem Ctx.setAcc_started (a m n : Nat) (x : BitVec 32) : (c.setAcc a m n x).started = c.started := rfl
@[simp] theorem Ctx.setAcc_image (a m n : Nat) (x : BitVec 32) : (c.setAcc a m n x).image = c.image := rfl
@[simp] theorem Ctx.setAcc_heir (a m n : Nat) (x : BitVec 32) : (c.setAcc a m n x).heir = c.heir := rfl
@[simp] theorem Ctx.setAcc_upset (a m n : Nat) (x : BitVec 32) : (c.setAcc a m n x).upset = c.upset := rfl
@[simp] theorem Ctx.push_slot (r : Word) : (c.push r).slot = c.slot := rfl
@[simp] theorem Ctx.push_task (r : Word) : (c.push r).task = c.task := rfl
@[simp] theorem Ctx.push_taskR (r : Word) : (c.push r).taskR = c.taskR := rfl
@[simp] theorem Ctx.push_keeper (r : Word) : (c.push r).keeper = c.keeper := rfl
@[simp] theorem Ctx.push_part (r : Word) : (c.push r).part = c.part := rfl
@[simp] theorem Ctx.push_prio (r : Word) : (c.push r).prio = c.prio := rfl
@[simp] theorem Ctx.push_pc (r : Word) : (c.push r).pc = c.pc := rfl
@[simp] theorem Ctx.push_pred (r : Word) : (c.push r).pred = c.pred := rfl
@[simp] theorem Ctx.push_th (r : Word) : (c.push r).th = c.th := rfl
@[simp] theorem Ctx.push_ph (r : Word) : (c.push r).ph = c.ph := rfl
@[simp] theorem Ctx.push_direct (r : Word) : (c.push r).direct = c.direct := rfl
@[simp] theorem Ctx.push_lxu (r : Word) : (c.push r).lxu = c.lxu := rfl
@[simp] theorem Ctx.push_async (r : Word) : (c.push r).async = c.async := rfl
@[simp] theorem Ctx.push_lc (r : Word) : (c.push r).lc = c.lc := rfl
@[simp] theorem Ctx.push_etb (r : Word) : (c.push r).etb = c.etb := rfl
@[simp] theorem Ctx.push_ptb (r : Word) : (c.push r).ptb = c.ptb := rfl
@[simp] theorem Ctx.push_ltb (r : Word) : (c.push r).ltb = c.ltb := rfl
@[simp] theorem Ctx.push_stamp (r : Word) : (c.push r).stamp = c.stamp := rfl
@[simp] theorem Ctx.push_fpc (r : Word) : (c.push r).fpc = c.fpc := rfl
@[simp] theorem Ctx.push_fps (r : Word) : (c.push r).fps = c.fps := rfl
@[simp] theorem Ctx.push_tcause (r : Word) : (c.push r).tcause = c.tcause := rfl
@[simp] theorem Ctx.push_tpc (r : Word) : (c.push r).tpc = c.tpc := rfl
@[simp] theorem Ctx.push_tval (r : Word) : (c.push r).tval = c.tval := rfl
@[simp] theorem Ctx.push_tinfo (r : Word) : (c.push r).tinfo = c.tinfo := rfl
@[simp] theorem Ctx.push_tvec (r : Word) : (c.push r).tvec = c.tvec := rfl
@[simp] theorem Ctx.push_tsave (r : Word) : (c.push r).tsave = c.tsave := rfl
@[simp] theorem Ctx.push_tsavd (r : Word) : (c.push r).tsavd = c.tsavd := rfl
@[simp] theorem Ctx.push_launch (r : Word) : (c.push r).launch = c.launch := rfl
@[simp] theorem Ctx.push_exits (r : Word) : (c.push r).exits = c.exits := rfl
@[simp] theorem Ctx.push_s (r : Word) : (c.push r).s = c.s := rfl
@[simp] theorem Ctx.push_h (r : Word) : (c.push r).h = c.h := rfl
@[simp] theorem Ctx.push_f (r : Word) : (c.push r).f = c.f := rfl
@[simp] theorem Ctx.push_k (r : Word) : (c.push r).k = c.k := rfl
@[simp] theorem Ctx.push_installs (r : Word) : (c.push r).installs = c.installs := rfl
@[simp] theorem Ctx.push_v (r : Word) : (c.push r).v = c.v := rfl
@[simp] theorem Ctx.push_acc (r : Word) : (c.push r).acc = c.acc := rfl
@[simp] theorem Ctx.push_ovf (r : Word) : (c.push r).ovf = c.ovf := rfl
@[simp] theorem Ctx.push_mx (r : Word) : (c.push r).mx = c.mx := rfl
@[simp] theorem Ctx.push_sbuf (r : Word) : (c.push r).sbuf = c.sbuf := rfl
@[simp] theorem Ctx.push_sbits (r : Word) : (c.push r).sbits = c.sbits := rfl
@[simp] theorem Ctx.push_secs (r : Word) : (c.push r).secs = c.secs := rfl
@[simp] theorem Ctx.push_cbuf (r : Word) : (c.push r).cbuf = c.cbuf := rfl
@[simp] theorem Ctx.push_region (r : Word) : (c.push r).region = c.region := rfl
@[simp] theorem Ctx.push_patch (r : Word) : (c.push r).patch = c.patch := rfl
@[simp] theorem Ctx.push_stall (r : Word) : (c.push r).stall = c.stall := rfl
@[simp] theorem Ctx.push_since (r : Word) : (c.push r).since = c.since := rfl
@[simp] theorem Ctx.push_stallAt (r : Word) : (c.push r).stallAt = c.stallAt := rfl
@[simp] theorem Ctx.push_passed (r : Word) : (c.push r).passed = c.passed := rfl
@[simp] theorem Ctx.push_ending (r : Word) : (c.push r).ending = c.ending := rfl
@[simp] theorem Ctx.push_wd (r : Word) : (c.push r).wd = c.wd := rfl
@[simp] theorem Ctx.push_wdFired (r : Word) : (c.push r).wdFired = c.wdFired := rfl
@[simp] theorem Ctx.push_started (r : Word) : (c.push r).started = c.started := rfl
@[simp] theorem Ctx.push_image (r : Word) : (c.push r).image = c.image := rfl
@[simp] theorem Ctx.push_heir (r : Word) : (c.push r).heir = c.heir := rfl
@[simp] theorem Ctx.push_bad (r : Word) : (c.push r).bad = c.bad := rfl
@[simp] theorem Ctx.push_upset (r : Word) : (c.push r).upset = c.upset := rfl
@[simp] theorem Ctx.moved_slot : (c.moved).slot = c.slot := rfl
@[simp] theorem Ctx.moved_task : (c.moved).task = c.task := rfl
@[simp] theorem Ctx.moved_taskR : (c.moved).taskR = c.taskR := rfl
@[simp] theorem Ctx.moved_keeper : (c.moved).keeper = c.keeper := rfl
@[simp] theorem Ctx.moved_part : (c.moved).part = c.part := rfl
@[simp] theorem Ctx.moved_prio : (c.moved).prio = c.prio := rfl
@[simp] theorem Ctx.moved_pc : (c.moved).pc = c.pc := rfl
@[simp] theorem Ctx.moved_pred : (c.moved).pred = c.pred := rfl
@[simp] theorem Ctx.moved_th : (c.moved).th = c.th := rfl
@[simp] theorem Ctx.moved_ph : (c.moved).ph = c.ph := rfl
@[simp] theorem Ctx.moved_direct : (c.moved).direct = c.direct := rfl
@[simp] theorem Ctx.moved_lxu : (c.moved).lxu = c.lxu := rfl
@[simp] theorem Ctx.moved_depth : (c.moved).depth = c.depth := rfl
@[simp] theorem Ctx.moved_async : (c.moved).async = c.async := rfl
@[simp] theorem Ctx.moved_lc : (c.moved).lc = c.lc := rfl
@[simp] theorem Ctx.moved_etb : (c.moved).etb = c.etb := rfl
@[simp] theorem Ctx.moved_ptb : (c.moved).ptb = c.ptb := rfl
@[simp] theorem Ctx.moved_ltb : (c.moved).ltb = c.ltb := rfl
@[simp] theorem Ctx.moved_stamp : (c.moved).stamp = c.stamp := rfl
@[simp] theorem Ctx.moved_fpc : (c.moved).fpc = c.fpc := rfl
@[simp] theorem Ctx.moved_fps : (c.moved).fps = c.fps := rfl
@[simp] theorem Ctx.moved_tcause : (c.moved).tcause = c.tcause := rfl
@[simp] theorem Ctx.moved_tpc : (c.moved).tpc = c.tpc := rfl
@[simp] theorem Ctx.moved_tval : (c.moved).tval = c.tval := rfl
@[simp] theorem Ctx.moved_tinfo : (c.moved).tinfo = c.tinfo := rfl
@[simp] theorem Ctx.moved_tvec : (c.moved).tvec = c.tvec := rfl
@[simp] theorem Ctx.moved_tsave : (c.moved).tsave = c.tsave := rfl
@[simp] theorem Ctx.moved_tsavd : (c.moved).tsavd = c.tsavd := rfl
@[simp] theorem Ctx.moved_launch : (c.moved).launch = c.launch := rfl
@[simp] theorem Ctx.moved_exits : (c.moved).exits = c.exits := rfl
@[simp] theorem Ctx.moved_calls : (c.moved).calls = c.calls := rfl
@[simp] theorem Ctx.moved_s : (c.moved).s = c.s := rfl
@[simp] theorem Ctx.moved_h : (c.moved).h = c.h := rfl
@[simp] theorem Ctx.moved_f : (c.moved).f = c.f := rfl
@[simp] theorem Ctx.moved_k : (c.moved).k = c.k := rfl
@[simp] theorem Ctx.moved_installs : (c.moved).installs = c.installs := rfl
@[simp] theorem Ctx.moved_v : (c.moved).v = c.v := rfl
@[simp] theorem Ctx.moved_acc : (c.moved).acc = c.acc := rfl
@[simp] theorem Ctx.moved_ovf : (c.moved).ovf = c.ovf := rfl
@[simp] theorem Ctx.moved_mx : (c.moved).mx = c.mx := rfl
@[simp] theorem Ctx.moved_sbuf : (c.moved).sbuf = c.sbuf := rfl
@[simp] theorem Ctx.moved_sbits : (c.moved).sbits = c.sbits := rfl
@[simp] theorem Ctx.moved_secs : (c.moved).secs = c.secs := rfl
@[simp] theorem Ctx.moved_cbuf : (c.moved).cbuf = c.cbuf := rfl
@[simp] theorem Ctx.moved_region : (c.moved).region = c.region := rfl
@[simp] theorem Ctx.moved_patch : (c.moved).patch = c.patch := rfl
@[simp] theorem Ctx.moved_since : (c.moved).since = c.since := rfl
@[simp] theorem Ctx.moved_stallAt : (c.moved).stallAt = c.stallAt := rfl
@[simp] theorem Ctx.moved_ending : (c.moved).ending = c.ending := rfl
@[simp] theorem Ctx.moved_wd : (c.moved).wd = c.wd := rfl
@[simp] theorem Ctx.moved_wdFired : (c.moved).wdFired = c.wdFired := rfl
@[simp] theorem Ctx.moved_started : (c.moved).started = c.started := rfl
@[simp] theorem Ctx.moved_image : (c.moved).image = c.image := rfl
@[simp] theorem Ctx.moved_heir : (c.moved).heir = c.heir := rfl
@[simp] theorem Ctx.moved_bad : (c.moved).bad = c.bad := rfl
@[simp] theorem Ctx.moved_upset : (c.moved).upset = c.upset := rfl

/-! A context: poison (R43). A word that is written is poisoned no more, and a write poisons none. -/

theorem Ctx.setReg_bad {c : Ctx} (n : BitVec 5) (v : Word) (h : c.bad = []) : (c.setReg n v).bad = [] := by
  unfold Ctx.setReg; split <;> simp [h]
theorem Ctx.setH_bad {c : Ctx} (n : BitVec 5) (v : BitVec 32) (h : c.bad = []) : (c.setH n v).bad = [] := by simp [Ctx.setH, h]
theorem Ctx.setLane_bad {c : Ctx} (n l : Nat) (x : BitVec 32) (h : c.bad = []) : (c.setLane n l x).bad = [] := by simp [Ctx.setLane, h]
theorem Ctx.setAcc_bad {c : Ctx} (a m n : Nat) (x : BitVec 32) (h : c.bad = []) : (c.setAcc a m n x).bad = [] := by
  simp [Ctx.setAcc, h]

/-! A context: registers (R8: s0 reads zero, and a write of it is discarded). -/

@[simp] theorem Ctx.reg_zero (c : Ctx) : c.reg 0 = 0 := rfl
@[simp] theorem Ctx.setReg_zero (c : Ctx) (v : Word) : c.setReg 0 v = c := rfl
theorem Ctx.reg_setReg (c : Ctx) {n : BitVec 5} (v : Word) (h : n ≠ 0) : (c.setReg n v).reg n = v := by
  simp only [Ctx.reg, Ctx.setReg, if_neg h, SMap.getD_put_same]
theorem Ctx.reg_setReg_other (c : Ctx) {n m : BitVec 5} (v : Word) (h : m ≠ n) : (c.setReg n v).reg m = c.reg m := by
  unfold Ctx.reg Ctx.setReg
  split
  · rfl
  · split
    · rfl
    · exact SMap.getD_put_other _ _ _ fun e => h (BitVec.eq_of_toNat_eq e)
@[simp] theorem Ctx.hreg_setH (c : Ctx) (n : BitVec 5) (v : BitVec 32) : (c.setH n v).hreg n = v := by simp [Ctx.hreg, Ctx.setH]
@[simp] theorem Ctx.loopc_setLoopc (c : Ctx) (n : Nat) (v : BitVec 32) : (c.setLoopc n v).loopc n = v := by
  simp [Ctx.loopc, Ctx.setLoopc]
@[simp] theorem Ctx.lane_setLane (c : Ctx) (n l : Nat) (x : BitVec 32) : (c.setLane n l x).lane n l = x := by
  simp [Ctx.lane, Ctx.setLane]
@[simp] theorem Ctx.accw_setAcc (c : Ctx) (a m n : Nat) (x : BitVec 32) : (c.setAcc a m n x).accw a m n = x := by
  simp [Ctx.accw, Ctx.setAcc]

end Sys2Proof.Machine
end

