-- ==== Sys2Proof/Laws/Ops.lean ====
section
/-! SUPPORT. What the shared operations do, said once: the effects that instructions are made of, retirement, sequencing,
taking a trap and returning from one. -/

namespace Sys2Proof.Machine
open Sys2Proof

/-! Effects. -/

section
variable {α β : Type} (s : State)

@[simp] theorem M.pure_run (a : α) : (pure a : M α) s = .ok (a, s) := rfl
@[simp] theorem M.bind_run (x : M α) (f : α → M β) :
    (x >>= f) s = match x s with | .ok (a, s1) => f a s1 | .error e => .error e := by
  show Except.bind (x s) (fun y => f y.1 y.2) = _
  cases x s <;> rfl
@[simp] theorem M.map_run (f : α → β) (x : M α) :
    (f <$> x) s = match x s with | .ok (a, s1) => .ok (f a, s1) | .error e => .error e := by
  show Except.bind (x s) (fun y => .ok (f y.1, y.2)) = _
  cases x s <;> rfl
@[simp] theorem M.ite_run (c : Prop) [Decidable c] (x y : M α) : (if c then x else y) s = if c then x s else y s := by
  split <;> rfl
theorem M.bind_ok {x : M α} {f : α → M β} {a : α} {s s1 : State} (h : x s = .ok (a, s1)) : (x >>= f) s = f a s1 := by
  simp [h]
theorem M.bind_error {x : M α} {f : α → M β} {e : Stop} {s : State} (h : x s = .error e) : (x >>= f) s = .error e := by
  simp [h]
@[simp] theorem raise_run (c t i : Nat) : (raise c t i : M α) s = .error (.trap (exc c t i) none) := rfl
@[simp] theorem raiseE_run (e : Exc) : (raiseE e : M α) s = .error (.trap e none) := rfl
@[simp] theorem waitOn_run (w : Stall) : (waitOn w : M α) s = .error (.wait w none) := rfl
theorem check_run (b : Bool) (c t i : Nat) : check b c t i s = if b then .ok ((), s) else .error (.trap (exc c t i) none) := by
  cases b <;> rfl
@[simp] theorem check_true (c t i : Nat) : check true c t i s = .ok ((), s) := rfl
@[simp] theorem check_false (c t i : Nat) : check false c t i s = .error (.trap (exc c t i) none) := rfl
@[simp] theorem getS_run : getS s = .ok (s, s) := rfl
@[simp] theorem getC_run : getC s = .ok (s.ctx s.cur, s) := rfl
@[simp] theorem modS_run (f : State → State) : modS f s = .ok ((), f s) := rfl
@[simp] theorem modW_run (f : State → State × List Work) : modW f s = .ok ((), State.work (f s)) := rfl
@[simp] theorem modC_run (f : Ctx → Ctx) : modC f s = .ok ((), s.modCtx s.cur f) := rfl
@[simp] theorem rdS_run (n : BitVec 5) : rdS n s = .ok ((s.ctx s.cur).reg n, s) := rfl
@[simp] theorem rdH_run (n : BitVec 5) : rdH n s = .ok ((s.ctx s.cur).hreg n, s) := rfl
@[simp] theorem wrS_run (n : BitVec 5) (v : Word) : wrS n v s = .ok ((), s.modCtx s.cur fun c => c.setReg n v) := rfl
@[simp] theorem orRaise_none : orRaise none s = .ok ((), s) := rfl
@[simp] theorem orRaise_some (e : Exc) : orRaise (some e) s = .error (.trap e none) := rfl
@[simp] theorem writeKey_run (k : Nat) (l : List Byte) : writeKey k l s = .ok ((), s.store k l) := rfl

end

/-- R39: an instruction of an accepted feature passes, and of a masked one raises 0x59 with the bit. -/
theorem need_ok {s : State} {n : Nat} (h : s.feature n = true) : need n s = .ok ((), s) := by simp [need, h]
theorem need_masked {s : State} {n : Nat} (h : s.feature n = false) : need n s = .error (.trap (exc 0x59 n) none) := by
  simp [need, h]
/-- R43: bytes without poison read as they stand. -/
theorem readKey_ok {s : State} {k n t : Nat} (h : s.poisoned k n = false) : readKey k n t s = .ok (Mem.readL s.mem k n, s) := by
  simp [readKey, h]
/-- R104: with nothing in flight nothing waits. -/
theorem ordered_free {s : State} (rs : List Rng) (h : s.inFlight s.cur = []) : ordered rs s = .ok ((), s) := by
  simp [ordered, h]
/-- R115: in DIRECT mode an irrevocable effect is the effect. -/
theorem irrevocably_direct {α : Type} {s : State} (m : M α) (h : (s.ctx s.cur).direct = true) : irrevocably m s = m s := by
  simp [irrevocably, h]

/-! Retirement. -/

theorem syncWait_none (s : State) (key : Nat) : s.syncWait key none = some s := rfl
/-- R107: without a threshold nothing waits. -/
theorem syncWait_zero (s : State) (key : Nat) (y : Sync) (h : y.wst = 0) : s.syncWait key (some y) = some s := by
  simp [State.syncWait, h]

/-- R122: an instruction whose checks pass, whose wait is over and whose effect is made. -/
theorem retire_done {i : Instr} {pre : M Unit} {body : M Bool} {s s0 s1 s2 : State} {sig : Bool} (h0 : pre s = .ok ((), s0))
    (h1 : s0.syncWait s.cur (syncOf i) = some s1) (h2 : body s1 = .ok (sig, s2)) :
    retire i pre body s = .next (s2.finish i s.cur (s.ctx s.cur).pc sig) := by
  simp [retire, h0, h1, h2]
/-- An instruction that stops in its checks. -/
theorem retire_refused {i : Instr} {pre : M Unit} {body : M Bool} {s : State} {x : Stop} (h0 : pre s = .error x) :
    retire i pre body s = .next (s.stopped s s.cur (ecOf i) (s.ctx s.cur).pc x) := by
  simp [retire, h0]
/-- An instruction that stops in its effect. -/
theorem retire_stopped {i : Instr} {pre : M Unit} {body : M Bool} {s s0 s1 : State} {x : Stop} (h0 : pre s = .ok ((), s0))
    (h1 : s0.syncWait s.cur (syncOf i) = some s1) (h2 : body s1 = .error x) :
    retire i pre body s = .next (s0.stopped s1 s.cur (ecOf i) (s.ctx s.cur).pc x) := by
  simp [retire, h0, h1, h2]
theorem plain_done {i : Instr} {body : M Unit} {s s2 : State} (hs : syncOf i = none) (h : body s = .ok ((), s2)) :
    plain i body s = .next (s2.finish i s.cur (s.ctx s.cur).pc true) :=
  retire_done (s0 := s) (s1 := s) rfl (by simp [hs, syncWait_none]) (by simp [h])
theorem plain_stopped {i : Instr} {body : M Unit} {s : State} {x : Stop} (hs : syncOf i = none) (h : body s = .error x) :
    plain i body s = .next (s.stopped s s.cur (ecOf i) (s.ctx s.cur).pc x) :=
  retire_stopped (s0 := s) (s1 := s) rfl (by simp [hs, syncWait_none]) (by simp [h])
theorem leaving_gone {i : Instr} {body : M Bool} {s s2 : State} (h : body s = .ok (true, s2)) : leaving i body s = .next s2 := by
  simp [leaving, h]

/-- R64: without a breakpoint and a stepping task nothing follows an instruction. -/
theorem debugAfter_none {s : State} {key : Nat} {pc : Word} {ec : Nat}
    (h : (s.ctx key).th = true ∨ ((s.task (s.ctx key).task).stepping = false ∧ (s.part (s.ctx key).part).brk = [])) :
    s.debugAfter key pc ec = s := by
  unfold State.debugAfter
  rcases h with h | ⟨h1, h2⟩
  · simp [h]
  · simp [h1, h2]

/-- R258, NXT = seq. -/
theorem sequence_seq (s : State) (c : Ctx) (q : Seqn) (after : Word) (h : q.nxt = 0) : s.sequence c q after = .go { c with pc := after } := by
  simp [State.sequence, h]

/-! Traps. -/

/-- R123, R124: a trap with a handler in a LIVE object saves the address, the cause and the exit table base, sets TH and goes to
TVEC. -/
theorem trapEnter_handler {s : State} {key : Nat} {e : Exc} {ec : Nat} {imp : Bool} {tpc : Word} {o : Obj}
    (ht : (s.ctx key).th = false) (hv : (s.ctx key).tvec ≠ 0) (ho : s.objFor (s.ctx key) (s.ctx key).tvec = some o) :
    s.trapEnter key e ec imp tpc = ((s.readObjs (s.ctx key).part (some o.idx)).dropWaits key).setCtx key { s.ctx key with
      tcause := word (e.cause.toNat + ec * 2 ^ 8 + b2n imp * 2 ^ 11), tpc := tpc, tval := e.tval, tinfo := e.tinfo,
      tsave := (s.ctx key).etb, tsavd := (s.ctx key).depth, th := true, etb := (s.ctx key).tvec - 32, exits := [],
      ltb := o.ltb, pc := (s.ctx key).tvec, stall := none, passed := none } := by
  simp only [State.trapEnter, ht, if_neg hv, ho, Bool.false_eq_true, if_false]
/-- R125: a trap inside a handler ends the task with 0x0E. -/
theorem trapEnter_double {s : State} {key : Nat} {e : Exc} {ec : Nat} {imp : Bool} {tpc : Word} (ht : (s.ctx key).th = true) :
    s.trapEnter key e ec imp tpc = s.failTask key 0x0E (word e.cause.toNat) 0 := by
  simp [State.trapEnter, ht]
/-- R336: a return to a LIVE object. -/
theorem trapReturn_ok {s : State} {key : Nat} {o : Obj} (ha : (s.ctx key).tpc.toNat % 8 = 0)
    (ho : s.objFor (s.ctx key) (s.ctx key).tpc = some o) :
    s.trapReturn key = ((s.readObjs (s.ctx key).part (some o.idx)).setCtx key { s.ctx key with
      etb := (s.ctx key).tsave, exits := [], depth := (s.ctx key).tsavd, th := false, pc := (s.ctx key).tpc, ltb := o.ltb }, none) := by
  simp [State.trapReturn, ha, ho]

end Sys2Proof.Machine
end

