-- ==== Sys2Proof/Laws/Memory.lean ====
section
/-! SUPPORT. The canonical form of the memory, which every shared operation that writes memory keeps. -/

namespace Sys2Proof.Machine
open Sys2Proof

theorem memWf_reset : State.reset.MemWf := Mem.wf_nil
/-- The form is a matter of the memory alone. -/
theorem State.MemWf.of_mem {s t : State} (h : s.MemWf) (hm : t.mem = s.mem) : t.MemWf := by
  unfold State.MemWf at *
  rw [hm]; exact h
theorem memWf_store {s : State} (k : Nat) (bs : List Byte) (h : s.MemWf) : (s.store k bs).MemWf := Mem.wf_writeL k bs h
theorem memWf_markUsed {s : State} (l : Nat) (u : Use) (h : s.MemWf) : (s.markUsed l u).MemWf := Mem.wf_write _ _ h
theorem memWf_setQcb {s : State} (q off n v : Nat) (h : s.MemWf) : (s.setQcb q off n v).MemWf := Mem.wf_writeN _ _ _ h
theorem memWf_fresh {s : State} (h : s.MemWf) : s.fresh.2.MemWf := h
theorem memWf_pick {s : State} (l : List Nat) (h : s.MemWf) : (s.pick l).2.MemWf := by
  unfold State.pick
  split
  · exact h
  · exact h

/-- A fold whose every step keeps the form. -/
theorem memWf_foldl {α : Type} (f : State → α → State) (hf : ∀ s a, s.MemWf → (f s a).MemWf) (l : List α) {s : State}
    (h : s.MemWf) : (l.foldl f s).MemWf := by
  induction l generalizing s with
  | nil => exact h
  | cons a l ih => exact ih (hf s a h)

theorem memWf_mapRange {s t : State} {p : Nat} {a : Word} {n : Nat} {u : Use} {hold : Bool} {ps : List (Word × Nat × Nat × Bool)}
    (h : s.MemWf) (hr : s.mapRange p a n u hold = .ok (t, ps)) : t.MemWf := by
  unfold State.mapRange at hr
  have key : ∀ (l : List (Word × Nat)) (x : State × List (Word × Nat × Nat × Bool)), x.1.MemWf →
      ∀ y, l.foldlM (fun (st : State × List (Word × Nat × Nat × Bool)) (x : Word × Nat) =>
        if x.2 = 0 then Except.ok st
        else match s.translate p x.1 u hold with
          | .ok k d _ l => .ok (st.1.markUsed l u, st.2 ++ [(x.1, k, x.2, d)])
          | t => .error t) x = Except.ok y → y.1.MemWf := by
    intro l
    induction l with
    | nil =>
      intro x hx y hy
      simp only [List.foldlM, pure, Except.pure] at hy
      cases hy; exact hx
    | cons a l ih =>
      intro x hx y hy
      simp only [List.foldlM, bind, Except.bind] at hy
      split at hy
      · cases hy
      · next z hz =>
        refine ih z ?_ y hy
        split at hz
        · cases hz; exact hx
        · split at hz
          · cases hz; exact memWf_markUsed _ _ hx
          · cases hz
  exact key _ (s, []) h (t, ps) hr

theorem memWf_markRead {s : State} (p : Nat) (a : Word) (n : Nat) (h : s.MemWf) : (s.markRead p a n).MemWf := by
  unfold State.markRead
  split
  · next hm => exact memWf_mapRange h hm
  · exact h
theorem memWf_readObjs {s : State} (p : Nat) (found : Option Nat) (h : s.MemWf) : (s.readObjs p found).MemWf :=
  memWf_markRead _ _ _ h

theorem memWf_gvRead {s t : State} {p : Nat} {a : Word} {n : Nat} {hold : Bool} {b : List Byte} (h : s.MemWf)
    (hr : s.gvRead p a n hold = .ok (t, b)) : t.MemWf := by
  unfold State.gvRead at hr
  split at hr
  · cases hr
  · next hm => cases hr; exact memWf_mapRange h hm

theorem memWf_gvWrite {s t : State} {p : Nat} {a : Word} {bs : List Byte} {hold : Bool} (h : s.MemWf)
    (hw : s.gvWrite p a bs hold = .ok t) : t.MemWf := by
  unfold State.gvWrite at hw
  split at hw
  · cases hw
  · next s1 ps hm =>
    cases hw
    have key : ∀ (l : List (Word × Nat × Nat × Bool)) (x : State × List Byte), x.1.MemWf →
        (l.foldl (fun (st : State × List Byte) (x : Word × Nat × Nat × Bool) =>
          (st.1.store x.2.1 (st.2.take x.2.2.1), st.2.drop x.2.2.1)) x).1.MemWf := by
      intro l
      induction l with
      | nil => intro x hx; exact hx
      | cons a l ih => intro x hx; exact ih _ (memWf_store _ _ hx)
    exact key _ _ (memWf_mapRange h hm)

theorem Mem.wf_ite {c : Prop} [Decidable c] {m n : SMap Byte} (h : Mem.wf m) (h' : Mem.wf n) : Mem.wf (if c then m else n) := by
  split
  · exact h
  · exact h'
theorem memWf_addRef {s : State} (p i : Nat) (up : Bool) (h : s.MemWf) : (s.addRef p i up).MemWf := by
  unfold State.addRef
  cases s.translate p (s.objAddr p i) .wr with
  | ok k _ _ l =>
    have hm := fun n => Mem.wf_writeN (k + 4) 4 n (memWf_markUsed l .wr h)
    unfold State.MemWf
    exact Mem.wf_ite (Mem.wf_write _ _ (hm _)) (hm _)
  | _ => exact h

theorem memWf_devEvent {s : State} (cause kind part srcid : Nat) (i0 i1 : Word) (h : s.MemWf) :
    (s.devEvent cause kind part srcid i0 i1).MemWf := by
  unfold State.devEvent
  dsimp only
  split
  · exact h
  · exact Mem.wf_writeL _ _ h
theorem memWf_devEventAny {s : State} (cause kind : Nat) (i0 : Word) (h : s.MemWf) : (s.devEventAny cause kind i0).MemWf := by
  unfold State.devEventAny
  exact memWf_devEvent _ _ _ _ _ _ (memWf_fresh h)
theorem memWf_setPart {s : State} (p : Nat) (x : Part) (h : s.MemWf) : (s.setPart p x).MemWf := h.of_mem (State.setPart_mem s p x)
theorem memWf_setEng {s : State} (q : Nat) (x : QEng) (h : s.MemWf) : (s.setEng q x).MemWf := h.of_mem (State.setEng_mem s q x)
theorem memWf_setSem {s : State} (c i v : Nat) (h : s.MemWf) : (s.setSem c i v).MemWf := h.of_mem (State.setSem_mem s c i v)
theorem stampEntry_mem (s : State) (e : Ent) : (s.stampEntry e).mem = s.mem := by
  unfold State.stampEntry
  generalize s.entTasks e = l
  induction l generalizing s with
  | nil => rfl
  | cons t l ih =>
    rw [List.foldl_cons, ih]
    split <;> rfl
theorem takeIn_mem (s : State) : s.takeIn.mem = s.mem := by
  unfold State.takeIn
  generalize s.pithead.filter (fun e => !e.inside) = l
  induction l generalizing s with
  | nil => rfl
  | cons e l ih =>
    rw [List.foldl_cons, ih]
    unfold State.takeInOne
    split
    · rfl
    · exact stampEntry_mem _ _
/-- Entries of the Pithead are no matter of the memory. -/
theorem enqueue_mem (s : State) (die p pr : Nat) (r : Ent) : (s.enqueue die p pr r).mem = s.mem := by
  unfold State.enqueue
  dsimp only
  split
  · exact (stampEntry_mem _ _).trans (takeIn_mem s)
  · exact takeIn_mem s
theorem memWf_enqueue {s : State} (die p pr : Nat) (r : Ent) (h : s.MemWf) : (s.enqueue die p pr r).MemWf :=
  h.of_mem (enqueue_mem s die p pr r)
theorem memWf_newTask {s : State} (t : Nat) (x : Task) (h : s.MemWf) : (s.newTask t x).MemWf := h

theorem memWf_handlerEvent {s : State} (p die cause : Nat) (h : s.MemWf) : (s.handlerEvent p die cause).MemWf := by
  unfold State.handlerEvent
  have hp (s : State) (h : s.MemWf) : (if s.recordFree p die then s.pick (s.freeRecords die) else (none, s)).2.MemWf := by
    split
    · exact memWf_pick _ h
    · exact h
  simp only
  split
  · exact h
  · split
    · exact memWf_devEvent _ _ _ _ _ _ (memWf_readObjs _ _ h)
    · next o _ =>
      have h1 := memWf_readObjs p (some o.idx) h
      have h2 := hp _ h1
      generalize (s.readObjs p (some o.idx)) = u at h1 h2 ⊢
      generalize (if u.recordFree p die then u.pick (u.freeRecords die) else (none, u)) = r at h2 ⊢
      split
      · exact h1
      · exact memWf_enqueue _ _ _ _ (memWf_setPart _ _ (memWf_addRef _ _ _ (memWf_newTask _ _ h2)))

theorem memWf_eventAt {s : State} (p die cause kind srcid : Nat) (i0 i1 time : Word) (h : s.MemWf) :
    (s.eventAt p die cause kind srcid i0 i1 time).MemWf := by
  unfold State.eventAt
  generalize Mem.readN s.mem ((s.part p).desc + 40) 8 = w
  simp only
  split
  · exact h
  · refine memWf_handlerEvent p die cause ?_
    split
    · unfold State.MemWf; exact Mem.wf_writeN _ 8 _ h
    · split
      · next hw => unfold State.MemWf; exact Mem.wf_writeN _ 8 _ (memWf_gvWrite h hw)
      · unfold State.MemWf; exact Mem.wf_writeN _ 8 _ h
theorem memWf_partEvent {s : State} (p die cause kind srcid : Nat) (i0 i1 : Word) (h : s.MemWf) :
    (s.partEvent p die cause kind srcid i0 i1).MemWf := memWf_eventAt _ _ _ _ _ _ _ _ h
theorem memWf_partEventAny {s : State} (p die cause kind : Nat) (i0 : Word) (h : s.MemWf) :
    (s.partEventAny p die cause kind i0).MemWf := by
  unfold State.partEventAny
  exact memWf_partEvent _ _ _ _ _ _ _ (memWf_fresh h)

theorem memWf_semAdd {s : State} (core i n : Nat) (h : s.MemWf) : (s.semAdd core i n).MemWf := by
  unfold State.semAdd
  simp only
  split
  · exact memWf_setSem _ _ _ h
  · split
    · exact memWf_setSem _ _ _ h
    · exact memWf_partEvent _ _ _ _ _ _ _ (memWf_setSem _ _ _ h)

theorem memWf_queueNext {s : State} (q : Nat) (h : s.MemWf) : (s.queueNext q).MemWf := by
  unfold State.queueNext
  exact memWf_setEng _ _ (memWf_setQcb _ _ _ _ (memWf_setQcb _ _ _ _ (memWf_setQcb _ _ _ _ h)))
theorem memWf_queueFault {s : State} (q cause : Nat) (ts : Word) (h : s.MemWf) : (s.queueFault q cause ts).MemWf := by
  unfold State.queueFault
  refine memWf_devEvent _ _ _ _ _ _ (memWf_foldl _ (fun s p hs => memWf_partEvent _ _ _ _ _ _ _ hs) _ ?_)
  exact memWf_setEng _ _ (memWf_setQcb _ _ _ _ (memWf_setQcb _ _ _ _ h))

theorem memWf_setSplit {s : State} (die n : Nat) (h : s.MemWf) : (s.setSplit die n).MemWf := by
  unfold State.setSplit
  dsimp only
  split
  · exact h
  · exact Mem.wf_clear _ _ h
theorem memWf_applyLimits {s : State} (h : s.MemWf) : s.applyLimits.MemWf := by
  unfold State.applyLimits
  split
  · exact h
  · refine memWf_foldl _ (fun s d hs => ?_) _ h
    split
    · exact memWf_setSplit _ _ hs
    · exact hs

end Sys2Proof.Machine
end

