-- ==== Sys2Proof/Laws/PerInstr.lean ====
section
/-! SUPPORT. One fact of every instruction as syntax: its words carry an assigned engine class and operation code, and are as many
as that assignment says; a step has no words. -/

namespace Sys2Proof.Laws.Encoded
open Sys2Proof

/-- R247, R265: the class and the code of the encoding are assigned with the instruction's number of words, and that many words it
has; a row that is no instruction word has none. -/
def Statement (i : Instr) : Prop :=
  (isCoded i = true → formatOf (encodeNat i / 2 ^ 61 % 8) (encodeNat i / 2 ^ 54 % 128) = some (wordsOf i) ∧
    (encode i).length = wordsOf i) ∧
  (isCoded i = false → encode i = [])

/-- An instruction that is packed with its class and its code. -/
theorem statement_of_pack {i : Instr} {ec op len n : Nat} {q : Seqn} {low high : List (Nat × Nat)} (hc : isCoded i = true)
    (he : encodeNat i = packInstr ec op len q low high) (hl : packWidth low = 42)
    (hf : formatOf (ec % 8) (op % 128) = some n) (hw : wordsOf i = n) : Statement i := by
  refine ⟨fun _ => ⟨?_, ?_⟩, fun h => ?_⟩
  · rw [he, packInstr_class _ _ _ _ _ hl, packInstr_op _ _ _ _ _ hl, hf, hw]
  · simp [encode]
  · rw [hc] at h; cases h
/-- A step. -/
theorem statement_of_step {i : Instr} (hc : isCoded i = false) : Statement i :=
  ⟨fun h => absurd (hc.symm.trans h) (by decide), fun _ => by simp [encode, wordsOf, hc]⟩

theorem nop (q : Seqn) : Statement (.nop q) := statement_of_pack rfl rfl rfl rfl rfl
theorem add (q : Seqn) (o : Alu) : Statement (.add q o) := statement_of_pack rfl rfl rfl rfl rfl
theorem sub (q : Seqn) (o : Alu) : Statement (.sub q o) := statement_of_pack rfl rfl rfl rfl rfl
theorem mul (q : Seqn) (o : Alu) : Statement (.mul q o) := statement_of_pack rfl rfl rfl rfl rfl
theorem mulh (q : Seqn) (o : Alu) : Statement (.mulh q o) := statement_of_pack rfl rfl rfl rfl rfl
theorem div (q : Seqn) (o : Alu) : Statement (.div q o) := statement_of_pack rfl rfl rfl rfl rfl
theorem rem (q : Seqn) (o : Alu) : Statement (.rem q o) := statement_of_pack rfl rfl rfl rfl rfl
theorem and (q : Seqn) (o : Alu) : Statement (.and q o) := statement_of_pack rfl rfl rfl rfl rfl
theorem or (q : Seqn) (o : Alu) : Statement (.or q o) := statement_of_pack rfl rfl rfl rfl rfl
theorem xor (q : Seqn) (o : Alu) : Statement (.xor q o) := statement_of_pack rfl rfl rfl rfl rfl
theorem andn (q : Seqn) (o : Alu) : Statement (.andn q o) := statement_of_pack rfl rfl rfl rfl rfl
theorem shl (q : Seqn) (o : Alu) : Statement (.shl q o) := statement_of_pack rfl rfl rfl rfl rfl
theorem shr (q : Seqn) (o : Alu) : Statement (.shr q o) := statement_of_pack rfl rfl rfl rfl rfl
theorem sar (q : Seqn) (o : Alu) : Statement (.sar q o) := statement_of_pack rfl rfl rfl rfl rfl
theorem rot (q : Seqn) (o : Alu) : Statement (.rot q o) := statement_of_pack rfl rfl rfl rfl rfl
theorem clz (q : Seqn) (o : CntO) : Statement (.clz q o) := statement_of_pack rfl rfl rfl rfl rfl
theorem popc (q : Seqn) (o : CntO) : Statement (.popc q o) := statement_of_pack rfl rfl rfl rfl rfl
theorem min (q : Seqn) (o : Alu) : Statement (.min q o) := statement_of_pack rfl rfl rfl rfl rfl
theorem max (q : Seqn) (o : Alu) : Statement (.max q o) := statement_of_pack rfl rfl rfl rfl rfl
theorem sext (q : Seqn) (o : SextO) : Statement (.sext q o) := statement_of_pack rfl rfl rfl rfl rfl
theorem bfx (q : Seqn) (o : BfO) : Statement (.bfx q o) := statement_of_pack rfl rfl rfl rfl rfl
theorem bfi (q : Seqn) (o : BfO) : Statement (.bfi q o) := statement_of_pack rfl rfl rfl rfl rfl
theorem sel (q : Seqn) (o : SelO) : Statement (.sel q o) := statement_of_pack rfl rfl rfl rfl rfl
theorem movi (q : Seqn) (o : MoviO) : Statement (.movi q o) := statement_of_pack rfl rfl rfl rfl rfl
theorem lea (q : Seqn) (o : LeaO) : Statement (.lea q o) := statement_of_pack rfl rfl rfl rfl rfl
theorem cmp (q : Seqn) (o : CmpO) : Statement (.cmp q o) := statement_of_pack rfl rfl rfl rfl rfl
theorem plog (q : Seqn) (o : PlogO) : Statement (.plog q o) := statement_of_pack rfl rfl rfl rfl rfl
theorem pmov (q : Seqn) (o : PmovO) : Statement (.pmov q o) := statement_of_pack rfl rfl rfl rfl rfl
theorem jmpr (o : A1) : Statement (.jmpr o) := statement_of_pack rfl rfl rfl rfl rfl
theorem callr (o : A1) : Statement (.callr o) := statement_of_pack rfl rfl rfl rfl rfl
theorem callx (o : CallxO) : Statement (.callx o) := statement_of_pack rfl rfl rfl rfl rfl
theorem loopset (q : Seqn) (o : LoopsetO) : Statement (.loopset q o) := statement_of_pack rfl rfl rfl rfl rfl
theorem ld (q : Seqn) (o : LdO) : Statement (.ld q o) := statement_of_pack rfl rfl rfl rfl rfl
theorem st (q : Seqn) (o : StO) : Statement (.st q o) := statement_of_pack rfl rfl rfl rfl rfl
theorem amo (q : Seqn) (o : AmoO) : Statement (.amo q o) := statement_of_pack rfl rfl rfl rfl rfl
theorem cas (q : Seqn) (o : AmoO) : Statement (.cas q o) := statement_of_pack rfl rfl rfl rfl rfl
theorem red (q : Seqn) (o : RedO) : Statement (.red q o) := statement_of_pack rfl rfl rfl rfl rfl
theorem fence (q : Seqn) (o : FenceO) : Statement (.fence q o) := statement_of_pack rfl rfl rfl rfl rfl
theorem waita (q : Seqn) (o : WaitaO) : Statement (.waita q o) := statement_of_pack rfl rfl rfl rfl rfl
theorem pref (q : Seqn) (o : PrefO) : Statement (.pref q o) := statement_of_pack rfl rfl rfl rfl rfl
theorem sems (q : Seqn) (o : SemsO) : Statement (.sems q o) := statement_of_pack rfl rfl rfl rfl rfl
theorem semw (q : Seqn) (o : SemwO) : Statement (.semw q o) := statement_of_pack rfl rfl rfl rfl rfl
theorem semr (q : Seqn) (o : SemrO) : Statement (.semr q o) := statement_of_pack rfl rfl rfl rfl rfl
theorem bar (q : Seqn) (o : D1) : Statement (.bar q o) := statement_of_pack rfl rfl rfl rfl rfl
theorem barw (q : Seqn) (o : BarwO) : Statement (.barw q o) := statement_of_pack rfl rfl rfl rfl rfl
theorem futi (q : Seqn) (o : FutiO) : Statement (.futi q o) := statement_of_pack rfl rfl rfl rfl rfl
theorem futw (q : Seqn) (o : FutwO) : Statement (.futw q o) := statement_of_pack rfl rfl rfl rfl rfl
theorem futs (q : Seqn) (o : FutsO) : Statement (.futs q o) := statement_of_pack rfl rfl rfl rfl rfl
theorem futf (q : Seqn) (o : FutsO) : Statement (.futf q o) := statement_of_pack rfl rfl rfl rfl rfl
theorem ldt (q : Seqn) (o : LdtO) : Statement (.ldt q o) := statement_of_pack rfl rfl rfl rfl rfl
theorem stt (q : Seqn) (o : LdtO) : Statement (.stt q o) := statement_of_pack rfl rfl rfl rfl rfl
theorem vld (q : Seqn) (o : VldO) : Statement (.vld q o) := statement_of_pack rfl rfl rfl rfl rfl
theorem vst (q : Seqn) (o : VstO) : Statement (.vst q o) := statement_of_pack rfl rfl rfl rfl rfl
theorem vgat (q : Seqn) (o : VgatO) : Statement (.vgat q o) := statement_of_pack rfl rfl rfl rfl rfl
theorem vsct (q : Seqn) (o : VsctO) : Statement (.vsct q o) := statement_of_pack rfl rfl rfl rfl rfl
theorem vldl (q : Seqn) (o : VldlO) : Statement (.vldl q o) := statement_of_pack rfl rfl rfl rfl rfl
theorem vstl (q : Seqn) (o : VldlO) : Statement (.vstl q o) := statement_of_pack rfl rfl rfl rfl rfl
theorem vadd (q : Seqn) (o : VarO) : Statement (.vadd q o) := statement_of_pack rfl rfl rfl rfl rfl
theorem vsub (q : Seqn) (o : VarO) : Statement (.vsub q o) := statement_of_pack rfl rfl rfl rfl rfl
theorem vmul (q : Seqn) (o : VarO) : Statement (.vmul q o) := statement_of_pack rfl rfl rfl rfl rfl
theorem vfma (q : Seqn) (o : VarO) : Statement (.vfma q o) := statement_of_pack rfl rfl rfl rfl rfl
theorem vmin (q : Seqn) (o : VarO) : Statement (.vmin q o) := statement_of_pack rfl rfl rfl rfl rfl
theorem vmax (q : Seqn) (o : VarO) : Statement (.vmax q o) := statement_of_pack rfl rfl rfl rfl rfl
theorem vabs (q : Seqn) (o : VunO) : Statement (.vabs q o) := statement_of_pack rfl rfl rfl rfl rfl
theorem vneg (q : Seqn) (o : VunO) : Statement (.vneg q o) := statement_of_pack rfl rfl rfl rfl rfl
theorem vrcp (q : Seqn) (o : VunO) : Statement (.vrcp q o) := statement_of_pack rfl rfl rfl rfl rfl
theorem vrsq (q : Seqn) (o : VunO) : Statement (.vrsq q o) := statement_of_pack rfl rfl rfl rfl rfl
theorem vex2 (q : Seqn) (o : VunO) : Statement (.vex2 q o) := statement_of_pack rfl rfl rfl rfl rfl
theorem vlg2 (q : Seqn) (o : VunO) : Statement (.vlg2 q o) := statement_of_pack rfl rfl rfl rfl rfl
theorem vcis (q : Seqn) (o : VunO) : Statement (.vcis q o) := statement_of_pack rfl rfl rfl rfl rfl
theorem vcvt (q : Seqn) (o : VcvtO) : Statement (.vcvt q o) := statement_of_pack rfl rfl rfl rfl rfl
theorem vand (q : Seqn) (o : VlogO) : Statement (.vand q o) := statement_of_pack rfl rfl rfl rfl rfl
theorem vor (q : Seqn) (o : VlogO) : Statement (.vor q o) := statement_of_pack rfl rfl rfl rfl rfl
theorem vxor (q : Seqn) (o : VlogO) : Statement (.vxor q o) := statement_of_pack rfl rfl rfl rfl rfl
theorem vshl (q : Seqn) (o : VarO) : Statement (.vshl q o) := statement_of_pack rfl rfl rfl rfl rfl
theorem vshr (q : Seqn) (o : VarO) : Statement (.vshr q o) := statement_of_pack rfl rfl rfl rfl rfl
theorem vcmp (q : Seqn) (o : VcmpO) : Statement (.vcmp q o) := statement_of_pack rfl rfl rfl rfl rfl
theorem vsel (q : Seqn) (o : VselO) : Statement (.vsel q o) := statement_of_pack rfl rfl rfl rfl rfl
theorem vred (q : Seqn) (o : VredO) : Statement (.vred q o) := statement_of_pack rfl rfl rfl rfl rfl
theorem vscan (q : Seqn) (o : VredO) : Statement (.vscan q o) := statement_of_pack rfl rfl rfl rfl rfl
theorem vperm (q : Seqn) (o : VpermO) : Statement (.vperm q o) := statement_of_pack rfl rfl rfl rfl rfl
theorem vbc (q : Seqn) (o : VbcO) : Statement (.vbc q o) := statement_of_pack rfl rfl rfl rfl rfl
theorem vins (q : Seqn) (o : VinsO) : Statement (.vins q o) := statement_of_pack rfl rfl rfl rfl rfl
theorem vext (q : Seqn) (o : VinsO) : Statement (.vext q o) := statement_of_pack rfl rfl rfl rfl rfl
theorem vcntge (q : Seqn) (o : VcntO) : Statement (.vcntge q o) := statement_of_pack rfl rfl rfl rfl rfl
theorem vidx (q : Seqn) (o : VcntO) : Statement (.vidx q o) := statement_of_pack rfl rfl rfl rfl rfl
theorem lnop (q : Seqn) (y : Sync) (o : LnopO) : Statement (.lnop q y o) := statement_of_pack rfl rfl rfl rfl rfl
theorem aclr (q : Seqn) (y : Sync) (o : AclrO) : Statement (.aclr q y o) := statement_of_pack rfl rfl rfl rfl rfl
theorem mma (q : Seqn) (y : Sync) (o : FieldO) : Statement (.mma q y o) := statement_of_pack rfl rfl rfl rfl rfl
theorem mmaq (q : Seqn) (y : Sync) (o : FieldO) : Statement (.mmaq q y o) := statement_of_pack rfl rfl rfl rfl rfl
theorem mma3 (q : Seqn) (y : Sync) (o : FieldO) : Statement (.mma3 q y o) := statement_of_pack rfl rfl rfl rfl rfl
theorem scacc (q : Seqn) (y : Sync) (o : ScaccO) : Statement (.scacc q y o) := statement_of_pack rfl rfl rfl rfl rfl
theorem adrn (q : Seqn) (y : Sync) (o : AdrnO) : Statement (.adrn q y o) := statement_of_pack rfl rfl rfl rfl rfl
theorem ald (q : Seqn) (y : Sync) (o : AldO) : Statement (.ald q y o) := statement_of_pack rfl rfl rfl rfl rfl
theorem arow (q : Seqn) (y : Sync) (o : ArowO) : Statement (.arow q y o) := statement_of_pack rfl rfl rfl rfl rfl
theorem bsmm (q : Seqn) (y : Sync) (o : FieldO) : Statement (.bsmm q y o) := statement_of_pack rfl rfl rfl rfl rfl
theorem gmm (q : Seqn) (y : Sync) (o : FieldO) : Statement (.gmm q y o) := statement_of_pack rfl rfl rfl rfl rfl
theorem ast (q : Seqn) (y : Sync) (o : AstO) : Statement (.ast q y o) := statement_of_pack rfl rfl rfl rfl rfl
theorem cpy (q : Seqn) (y : Sync) (o : CpyO) : Statement (.cpy q y o) := statement_of_pack rfl rfl rfl rfl rfl
theorem cpym (q : Seqn) (y : Sync) (o : CpymO) : Statement (.cpym q y o) := statement_of_pack rfl rfl rfl rfl rfl
theorem cpyq (q : Seqn) (y : Sync) (o : CpyqO) : Statement (.cpyq q y o) := statement_of_pack rfl rfl rfl rfl rfl
theorem fill (q : Seqn) (y : Sync) (o : FillO) : Statement (.fill q y o) := statement_of_pack rfl rfl rfl rfl rfl
theorem disc (q : Seqn) (y : Sync) (o : DrO) : Statement (.disc q y o) := statement_of_pack rfl rfl rfl rfl rfl
theorem cpyt (q : Seqn) (y : Sync) (o : CpytO) : Statement (.cpyt q y o) := statement_of_pack rfl rfl rfl rfl rfl
theorem talloc (q : Seqn) (o : TallocO) : Statement (.talloc q o) := statement_of_pack rfl rfl rfl rfl rfl
theorem tcmt (q : Seqn) (o : A1) : Statement (.tcmt q o) := statement_of_pack rfl rfl rfl rfl rfl
theorem tabt (q : Seqn) (o : A1) : Statement (.tabt q o) := statement_of_pack rfl rfl rfl rfl rfl
theorem tcon (q : Seqn) (o : TconO) : Statement (.tcon q o) := statement_of_pack rfl rfl rfl rfl rfl
theorem tinf (q : Seqn) (o : TinfO) : Statement (.tinf q o) := statement_of_pack rfl rfl rfl rfl rfl
theorem tts (q : Seqn) (o : AB) : Statement (.tts q o) := statement_of_pack rfl rfl rfl rfl rfl
theorem slput (q : Seqn) (o : SlputO) : Statement (.slput q o) := statement_of_pack rfl rfl rfl rfl rfl
theorem sleos (q : Seqn) (o : A1) : Statement (.sleos q o) := statement_of_pack rfl rfl rfl rfl rfl
theorem sopen (q : Seqn) (o : SopenO) : Statement (.sopen q o) := statement_of_pack rfl rfl rfl rfl rfl
theorem pump (q : Seqn) (o : PumpO) : Statement (.pump q o) := statement_of_pack rfl rfl rfl rfl rfl
theorem rqry (q : Seqn) (o : RqryO) : Statement (.rqry q o) := statement_of_pack rfl rfl rfl rfl rfl
theorem rres (q : Seqn) (o : RresO) : Statement (.rres q o) := statement_of_pack rfl rfl rfl rfl rfl
theorem rskp (q : Seqn) (o : RruleO) : Statement (.rskp q o) := statement_of_pack rfl rfl rfl rfl rfl
theorem rrev (q : Seqn) (o : RruleO) : Statement (.rrev q o) := statement_of_pack rfl rfl rfl rfl rfl
theorem rsyn (q : Seqn) (o : AB) : Statement (.rsyn q o) := statement_of_pack rfl rfl rfl rfl rfl
theorem spawn (q : Seqn) (y : Sync) (o : SpawnO) : Statement (.spawn q y o) := statement_of_pack rfl rfl rfl rfl rfl
theorem spawng (q : Seqn) (y : Sync) (o : SpawnO) : Statement (.spawng q y o) := statement_of_pack rfl rfl rfl rfl rfl
theorem mfs (q : Seqn) (o : MfsO) : Statement (.mfs q o) := statement_of_pack rfl rfl rfl rfl rfl
theorem mts (q : Seqn) (o : MtsO) : Statement (.mts q o) := statement_of_pack rfl rfl rfl rfl rfl
theorem trap (q : Seqn) (o : TrapO) : Statement (.trap q o) := statement_of_pack rfl rfl rfl rfl rfl
theorem eret : Statement (.eret) := statement_of_pack rfl rfl rfl rfl rfl
theorem suspend (q : Seqn) (o : RecO) : Statement (.suspend q o) := statement_of_pack rfl rfl rfl rfl rfl
theorem yield (q : Seqn) : Statement (.yield q) := statement_of_pack rfl rfl rfl rfl rfl
theorem cmt (q : Seqn) (o : RecO) : Statement (.cmt q o) := statement_of_pack rfl rfl rfl rfl rfl
theorem fchk (q : Seqn) (o : D1) : Statement (.fchk q o) := statement_of_pack rfl rfl rfl rfl rfl
theorem cwb (q : Seqn) (o : CwbO) : Statement (.cwb q o) := statement_of_pack rfl rfl rfl rfl rfl
theorem cinv (q : Seqn) (o : CinvO) : Statement (.cinv q o) := statement_of_pack rfl rfl rfl rfl rfl
theorem moduleReset : Statement (.moduleReset) := statement_of_step rfl
theorem mgrst (v : Word) : Statement (.mgrst v) := statement_of_step rfl
theorem fieldThrottleStart (watts temp : Nat) : Statement (.fieldThrottleStart watts temp) := statement_of_step rfl
theorem fieldThrottleEnd (watts temp : Nat) : Statement (.fieldThrottleEnd watts temp) := statement_of_step rfl
theorem thermalShutdown (temp : Nat) : Statement (.thermalShutdown temp) := statement_of_step rfl
theorem hostCxlMemAccess (write : Bool) (addr data : Word) : Statement (.hostCxlMemAccess write addr data) :=
  statement_of_step rfl
theorem linkTraining (link : Nat) (lanes : BitVec 4) : Statement (.linkTraining link lanes) := statement_of_step rfl
theorem flitReceive (link : Nat) (f : Flit) : Statement (.flitReceive link f) := statement_of_step rfl
theorem linkDown (link : Nat) : Statement (.linkDown link) := statement_of_step rfl
theorem pairLost (node : BitVec 12) : Statement (.pairLost node) := statement_of_step rfl
theorem write (p : Pkt) : Statement (.write p) := statement_of_step rfl
theorem rdreq (p : Pkt) : Statement (.rdreq p) := statement_of_step rfl
theorem rdrsp (p : Pkt) : Statement (.rdrsp p) := statement_of_step rfl
theorem atomic (p : Pkt) : Statement (.atomic p) := statement_of_step rfl
theorem relflag (p : Pkt) : Statement (.relflag p) := statement_of_step rfl
theorem qappend (p : Pkt) : Statement (.qappend p) := statement_of_step rfl
theorem ack (p : Pkt) : Statement (.ack p) := statement_of_step rfl
theorem time (link : Nat) (ahead : Bool) (delta : Nat) : Statement (.time link ahead delta) := statement_of_step rfl
theorem reservedPacketDiscard (p : Pkt) : Statement (.reservedPacketDiscard p) := statement_of_step rfl
theorem heldPacketApply (src : BitVec 12) : Statement (.heldPacketApply src) := statement_of_step rfl
theorem dtset (v : Word) : Statement (.dtset v) := statement_of_step rfl
theorem flock (v : Word) : Statement (.flock v) := statement_of_step rfl
theorem attgo (v : Word) : Statement (.attgo v) := statement_of_step rfl
theorem attestationReport : Statement (.attestationReport) := statement_of_step rfl
theorem antiRollbackAdvance (ty : Nat) : Statement (.antiRollbackAdvance ty) := statement_of_step rfl
theorem q0Disable : Statement (.q0Disable) := statement_of_step rfl
theorem q0Enable : Statement (.q0Enable) := statement_of_step rfl
theorem q0Reset : Statement (.q0Reset) := statement_of_step rfl
theorem registerWrite (off : Nat) (v : Word) : Statement (.registerWrite off v) := statement_of_step rfl
theorem queueTake (q : Nat) : Statement (.queueTake q) := statement_of_step rfl
theorem launch (q : Nat) : Statement (.launch q) := statement_of_step rfl
theorem copy (q : Nat) : Statement (.copy q) := statement_of_step rfl
theorem signalResolve (q : Nat) : Statement (.signalResolve q) := statement_of_step rfl
theorem signalFail (q : Nat) : Statement (.signalFail q) := statement_of_step rfl
theorem signalSemaphore (q : Nat) : Statement (.signalSemaphore q) := statement_of_step rfl
theorem waitf (q : Nat) : Statement (.waitf q) := statement_of_step rfl
theorem qbar (q : Nat) : Statement (.qbar q) := statement_of_step rfl
theorem unload (q : Nat) : Statement (.unload q) := statement_of_step rfl
theorem migrate (q : Nat) : Statement (.migrate q) := statement_of_step rfl
theorem void (q : Nat) : Statement (.void q) := statement_of_step rfl
theorem partCreate (q : Nat) : Statement (.partCreate q) := statement_of_step rfl
theorem partReset (q : Nat) : Statement (.partReset q) := statement_of_step rfl
theorem partMove (q : Nat) : Statement (.partMove q) := statement_of_step rfl
theorem partWeight (q : Nat) : Statement (.partWeight q) := statement_of_step rfl
theorem partQuota (q : Nat) : Statement (.partQuota q) := statement_of_step rfl
theorem partHbm (q : Nat) : Statement (.partHbm q) := statement_of_step rfl
theorem partQassign (q : Nat) : Statement (.partQassign q) := statement_of_step rfl
theorem qstateDisable (q : Nat) : Statement (.qstateDisable q) := statement_of_step rfl
theorem qstateEnable (q : Nat) : Statement (.qstateEnable q) := statement_of_step rfl
theorem qstateReset (q : Nat) : Statement (.qstateReset q) := statement_of_step rfl
theorem dbgstop (q : Nat) : Statement (.dbgstop q) := statement_of_step rfl
theorem dbgres (q : Nat) : Statement (.dbgres q) := statement_of_step rfl
theorem dbgbrk (q : Nat) : Statement (.dbgbrk q) := statement_of_step rfl
theorem moncfg (q : Nat) : Statement (.moncfg q) := statement_of_step rfl
theorem monitorPeriodicSample (die mon : Nat) : Statement (.monitorPeriodicSample die mon) := statement_of_step rfl
theorem monitorWindowEnd (die mon : Nat) : Statement (.monitorWindowEnd die mon) := statement_of_step rfl
theorem dispatch (die : Nat) : Statement (.dispatch die) := statement_of_step rfl
theorem dequeTake (core : Nat) : Statement (.dequeTake core) := statement_of_step rfl
theorem steal (core : Nat) : Statement (.steal core) := statement_of_step rfl
theorem pitheadAging (die : Nat) : Statement (.pitheadAging die) := statement_of_step rfl
theorem priorityPreemption (die part : Nat) : Statement (.priorityPreemption die part) := statement_of_step rfl
theorem inputHomeMove (task : Nat) : Statement (.inputHomeMove task) := statement_of_step rfl
theorem taskEnd (core slot : Nat) : Statement (.taskEnd core slot) := statement_of_step rfl
theorem continuationResume (core slot : Nat) : Statement (.continuationResume core slot) := statement_of_step rfl
theorem watchdogTimeout (core slot : Nat) : Statement (.watchdogTimeout core slot) := statement_of_step rfl
theorem stallSwitch (core : Nat) : Statement (.stallSwitch core) := statement_of_step rfl
theorem imageSaveComplete (core slot : Nat) : Statement (.imageSaveComplete core slot) := statement_of_step rfl
theorem imageLoadComplete (core slot : Nat) : Statement (.imageLoadComplete core slot) := statement_of_step rfl
theorem parkWake (task : Nat) : Statement (.parkWake task) := statement_of_step rfl
theorem asyncTrapDelivery (core slot : Nat) : Statement (.asyncTrapDelivery core slot) := statement_of_step rfl
theorem semaphoreWaitPass (core slot : Nat) : Statement (.semaphoreWaitPass core slot) := statement_of_step rfl
theorem matrixChunk (core slot : Nat) : Statement (.matrixChunk core slot) := statement_of_step rfl
theorem allocationGrant (pool : Nat) : Statement (.allocationGrant pool) := statement_of_step rfl
theorem poolDeadlock (part die : Nat) : Statement (.poolDeadlock part die) := statement_of_step rfl
theorem multicastGrant (core : Nat) : Statement (.multicastGrant core) := statement_of_step rfl
theorem landingComplete (job : Nat) : Statement (.landingComplete job) := statement_of_step rfl
theorem loaderSlice (sub : Nat) : Statement (.loaderSlice sub) := statement_of_step rfl
theorem storerSlice (sub : Nat) : Statement (.storerSlice sub) := statement_of_step rfl
theorem pumpRetry (sub : Nat) : Statement (.pumpRetry sub) := statement_of_step rfl
theorem ruleFire (core slot k : Nat) : Statement (.ruleFire core slot k) := statement_of_step rfl
theorem firingEnd (core slot k : Nat) : Statement (.firingEnd core slot k) := statement_of_step rfl
theorem keeperDispatch (keeper : Nat) : Statement (.keeperDispatch keeper) := statement_of_step rfl
theorem keeperIdleSave (keeper : Nat) : Statement (.keeperIdleSave keeper) := statement_of_step rfl
theorem driftAccept (core : Nat) : Statement (.driftAccept core) := statement_of_step rfl
theorem driftJobStart (core : Nat) : Statement (.driftJobStart core) := statement_of_step rfl
theorem canaryPass (job page : Nat) : Statement (.canaryPass job page) := statement_of_step rfl
theorem driftJobEnd (job : Nat) : Statement (.driftJobEnd job) := statement_of_step rfl
theorem splitAdjust (die hits shadow total : Nat) : Statement (.splitAdjust die hits shadow total) := statement_of_step rfl
theorem patrolScrub (array : Nat) (hbm : Bool) (addr : Nat) (bad : Bool) : Statement (.patrolScrub array hbm addr bad) :=
  statement_of_step rfl
theorem waitaRecheck (core slot : Nat) : Statement (.waitaRecheck core slot) := statement_of_step rfl
theorem waitaTimeout (core slot : Nat) : Statement (.waitaTimeout core slot) := statement_of_step rfl
theorem barwTimeout (core slot : Nat) : Statement (.barwTimeout core slot) := statement_of_step rfl
theorem migrationComplete (job : Nat) : Statement (.migrationComplete job) := statement_of_step rfl
theorem tileMoveComplete (tile : Nat) : Statement (.tileMoveComplete tile) := statement_of_step rfl
theorem partitionResetComplete (part : Nat) : Statement (.partitionResetComplete part) := statement_of_step rfl

end Sys2Proof.Laws.Encoded
end

