-- ==== Sys2Proof/Laws/Turns.lean ====
section
/-! SUPPORT. What the record of stored text, the check for poison and a shared bclk can do. -/

namespace Sys2Proof.Machine
open Sys2Proof

theorem foldl_keeps {α β : Type} {P : β → Prop} {f : β → α → β} (h : ∀ b a, P b → P (f b a)) (l : List α) {b : β} (hb : P b) :
    P (l.foldl f b) := by
  induction l generalizing b with
  | nil => exact hb
  | cons a r ih => exact ih (h b a hb)

/-- R248: the text of an object recorded changes the record of text only. -/
theorem keepObj_frame (s : State) (p : Nat) (o : Obj) (l : List Nat) (t : State) : ∃ m, s.keepObj p o l t = { t with icache := m } := by
  unfold State.keepObj
  refine foldl_keeps (P := fun u => ∃ m, u = { t with icache := m }) ?_ _ ⟨t.icache, rfl⟩
  rintro _ x ⟨m, rfl⟩
  dsimp only
  split
  · refine foldl_keeps (P := fun u => ∃ m, u = { t with icache := m }) ?_ _ ⟨m, rfl⟩
    rintro _ d ⟨n, rfl⟩
    dsimp only
    split
    · exact ⟨n, rfl⟩
    · exact ⟨_, rfl⟩
  · exact ⟨m, rfl⟩
/-- R248: a step's record of the text that it stores to changes nothing else. -/
theorem keepText_frame (s t : State) : ∃ m, s.keepText t = { t with icache := m } := by
  unfold State.keepText
  split
  · exact ⟨t.icache, rfl⟩
  · refine foldl_keeps (P := fun u => ∃ m, u = { t with icache := m }) ?_ _ ⟨t.icache, rfl⟩
    rintro _ p ⟨m, rfl⟩
    split
    · exact ⟨m, rfl⟩
    · refine foldl_keeps (P := fun u => ∃ m, u = { t with icache := m }) ?_ _ ⟨m, rfl⟩
      rintro _ o ⟨n, rfl⟩
      obtain ⟨k, hk⟩ := keepObj_frame s p o (Mem.changed s.mem t.mem) { t with icache := n }
      exact ⟨k, hk⟩
/-- A step that changes no memory records nothing. -/
theorem keepText_same {s t : State} (h : s.mem = t.mem) : s.keepText t = t := if_pos h
theorem kept_next (s t : State) : ∃ m, s.kept (.next t) = .next { t with icache := m } := by
  obtain ⟨m, h⟩ := keepText_frame s t
  exact ⟨m, congrArg _ h⟩

/-- R43: nothing is consumed where nothing is poisoned. -/
theorem hurt_clean {s : State} {key : Nat} (i : Instr) (hc : (s.ctx key).bad = []) (ht : ∀ k, (s.tile k).bad = false) :
    s.hurt key i = false := by
  have h : ∀ x : Src, x.bad s (s.ctx key) = false := by
    intro x
    cases x <;> simp [Src.bad, State.tileHurt, Ctx.accBad, hc, ht]
  simp [State.hurt, h]

/-- R137: in a shared bclk no pages return. -/
theorem settle_shared {s : State} (tk : Nat) (h : s.shared.isSome = true) : s.settle tk = s := by simp [State.settle, h]
/-- R137: the second of two consumers of a last read finds the tile COMMITTED, with no read left. -/
theorem consumeNow_shared {s : State} (tk n : Nat) (h : s.shared.isSome = true) :
    s.consumeNow tk n = s.modTile tk fun t => { t with rem := t.rem - n } := settle_shared tk h

end Sys2Proof.Machine
end

