-- ==== Sys2Proof/Tests/Slice0.lean ====
section
/-! SUPPORT. The model's own tests: words written out from the encoding tables, terms that the checks refuse, worked examples of
the manual, and for each statement with hypotheses states and operands that meet them. -/



namespace Sys2Proof.Tests
open Sys2Proof Sys2Proof.Machine
set_option maxRecDepth 100000
set_option Elab.async false

/-! Words, bit by bit from R249, R254 and the tables of chapters 13 to 17. -/

/-- NXT = seq, PR = 12. -/
abbrev plain : Seqn := ⟨0, 12, 0⟩
/-- The same in bits [53:44]. -/
abbrev plainBits : Nat := 12 * 2 ^ 47

theorem test_decode_nop : decodeNat (0 * 2 ^ 61 + 0x00 * 2 ^ 54 + 5 * 2 ^ 51 + 12 * 2 ^ 47) = .ok (.nop ⟨5, 12, 0⟩) := by rfl
/-- R317: `add` s3, s1, 5. -/
theorem test_decode_add : decodeNat (0x01 * 2 ^ 54 + plainBits + 3 * 2 ^ 39 + 1 * 2 ^ 34 + 5 * 2 ^ 13 + 1 * 2 ^ 11) =
    .ok (.add plain { d := 3, a := 1, b := 0, imm := 5, p := false, i := true, w := false, u := false }) := by rfl
/-- R317: `movi` of a patch slot. -/
theorem test_decode_movi : decodeNat 0x05C603800000B000 = .ok (.movi plain
    { d := 7, imm := 5, p := true, hw := 0, kp := false, z := false }) := by rfl
theorem test_decode_callx : decodeNat 0x0780000000000000 = .ok (.callx { a := 0, imm := 0, p := false }) := by rfl
/-- R344. -/
theorem test_decode_st : decodeNat 0x20460EFC00298000 = .ok (.st plain
    { d := 29, a := 31, b := 0, cls := 0, sc := 0, ord := 2, sp := 4, w := 3, h := false, disp := 0 }) := by rfl
theorem test_decode_waita : decodeNat 0x2186083C0009D000 = .ok (.waita plain
    { d := 16, a := 15, b := 0, cls := 0, sc := 0, sp := 4, w := 3, tlg := 20, cnd := 0 }) := by rfl
theorem test_decode_futw : decodeNat 0x2381002A0003F800 = .ok (.futw ⟨0, 2, 0⟩
    { a := 10, b := 16, liveHi := 0, liveLo := 0xFE00 }) := by rfl
/-- R373: `vadd` v3, v1, v2 of i32, masked by v4. -/
theorem test_decode_vadd : decodeNat (2 * 2 ^ 61 + 0x06 * 2 ^ 54 + plainBits + 3 * 2 ^ 39 + 1 * 2 ^ 34 + 2 * 2 ^ 29 + 1 * 2 ^ 12 +
    4 * 2 ^ 7) = .ok (.vadd plain { d := 3, a := 1, b := 2, t := 0, rm := 0, bs := false, me := true, vm := 4 }) := by rfl
/-- R388: `lnop` f1, f0 with FN 9, f16, RM dyn, one level of two elements. -/
theorem test_decode_lnop : decodeNat (0x500600800955EB42 + 0x10 * 2 ^ 64 + 0x0000010000000001 * 2 ^ 128) = .ok (.lnop plain
    ⟨0, 0, 0, 0⟩
    { d := 1, a := 0, b := 0, fn := 9, t := 5, dt := 5, rm := 7, sat := false, kd := 5, ka := 5, kb := 0, e4 := 0, e3 := 0, e2 := 0,
      e1 := 0, e0 := 1, nlv := 0, scb := 0, sca := 0, scd := 0, sb4 := 0, sb3 := 0, sb2 := 0, sb1 := 0, sb0 := 0, sa4 := 0, sa3 := 0,
      sa2 := 0, sa1 := 0, sa0 := 1, sd4 := 0, sd3 := 0, sd2 := 0, sd1 := 0, sd0 := 1 }) := by rfl
/-- R402. -/
theorem test_decode_mma : decodeNat (0x6046011066222781 + 0x00001487FFFFC000 * 2 ^ 64) = .ok (.mma plain ⟨0, 0, 5, 1⟩
    { d := 2, a := 4, b := 3, pa := 0x31, pb := 0x11, ka := 1, kb := 7, xr := 0, km1 := 255, mm1 := 63, nm1 := 63, at_ := true,
      gs := 0, ne := 0, br := 0, be := false }) := by rfl
/-- R442: `cpy` s2, f2, s12, which installs a rule. -/
theorem test_decode_cpy : decodeNat 0x8006010982800001 = .ok (.cpy plain ⟨0, 0, 0, 0⟩
    { c := { d := 2, a := 2, b := 12, kd := 0, ka := 5, cv := 0, et := 0, hm1 := 0, fp := false, csc := 0, scout := 0, fr := 0,
             fv := false, tr := 0, tv := false }, tc := false }) := by rfl
/-- R426. -/
theorem test_decode_rres : decodeNat 0xA2C6000500000020 = .ok (.rres plain
    { d := 0, a := 1, b := 8, kp := false, ks := 0, sub := 1, fw := false }) := by rfl
/-- R317: `mfs` s5, SR 0x08. -/
theorem test_decode_mfs : decodeNat (6 * 2 ^ 61 + plainBits + 5 * 2 ^ 39 + 0x08 * 2 ^ 4) = .ok (.mfs plain { d := 5, srn := 8 }) := by
  rfl
/-- R267: an unassigned code, a reserved length, a reserved NXT, a reserved bit, a register beyond its class. -/
theorem test_decode_rejects : decodeNat (7 * 2 ^ 61) = .error .illegal ∧ decodeNat 3 = .error .lenReserved ∧
    decodeNat (7 * 2 ^ 51) = .error .seqReserved ∧ decodeNat (0x1C * 2 ^ 54 + 4) = .error (.reserved 0) ∧
    decodeNat (6 * 2 ^ 61 + 7 * 2 ^ 54 + 12 * 2 ^ 39) = .error (.regRange 0) := by
  refine ⟨?_, ?_, ?_, ?_, ?_⟩ <;> rfl
/-- R247: LEN says two doublewords of an instruction that has one. -/
theorem test_decode_length : decodeNat (1 + 0x01 * 2 ^ 54) = .error .illegal := by rfl
/-- The words of an instruction are doubleword 0 first. -/
theorem test_encode_words : encode (.mma plain ⟨0, 0, 5, 1⟩
    { d := 2, a := 4, b := 3, pa := 0x31, pb := 0x11, ka := 1, kb := 7, xr := 0, km1 := 255,
      mm1 := 63, nm1 := 63, at_ := true, gs := 0, ne := 0, br := 0, be := false }) = [0x6046011066222781, 0x00001487FFFFC000] := by decide +kernel

/-! Ill-formed terms, one for each check of WellFormed. -/

/-- R258: NXT = 7, and PR = 13 where NXT uses it. -/
theorem test_wf_seq : WellFormed (.nop ⟨7, 12, 0⟩) = false ∧ WellFormed (.nop ⟨1, 13, 0⟩) = false := by decide
/-- R258: TI with NXT = seq. -/
theorem test_wf_ti : WellFormed (.nop ⟨0, 12, 1⟩) = false := by decide
/-- R264: NXT = end on `trap`. -/
theorem test_wf_end : WellFormed (.trap ⟨6, 12, 0⟩ { imm := 0, p := false }) = false := by decide
/-- R317: an immediate without I; R252: a patch slot of 64. -/
theorem test_wf_imm :
    WellFormed (.add plain { d := 1, a := 1, b := 1, imm := 1, p := false, i := false, w := false, u := false }) = false ∧
    WellFormed (.lea plain { d := 1, a := 1, b := 1, imm := 64, p := true, sh := 0 }) = false := by decide
/-- R402: a block register of `mma`. -/
theorem test_wf_field : WellFormed (.mma plain ⟨0, 0, 0, 0⟩
    { d := 0, a := 0, b := 0, pa := 0, pb := 0, ka := 1, kb := 1, xr := 1, km1 := 0, mm1 := 0, nm1 := 0, at_ := true,
      gs := 0, ne := 0, br := 0, be := false }) = false := by decide
/-- R442: a future register without its valid bit, in doubleword 1. -/
theorem test_wf_drift : WellFormed (.disc plain ⟨0, 0, 0, 0⟩
    { d := 0, a := 0, b := 0, kd := 0, ka := 0, cv := 0, et := 0, hm1 := 0, fp := false, csc := 0, scout := 0, fr := 1,
      fv := false, tr := 0, tv := false }) = false := by decide
/-- R254: SGI without SGN. -/
theorem test_wf_sync : WellFormed (.aclr plain ⟨0, 0, 1, 0⟩ { amask := 0 }) = false := by decide
/-- R250: p12. -/
theorem test_wf_reg : WellFormed (.fchk plain { d := 12 }) = false := by decide
/-- And one that passes each. -/
theorem test_wf_passes : WellFormed (.fchk plain { d := 11 }) = true ∧ WellFormed (.aclr plain ⟨0, 0, 1, 1⟩ { amask := 0 }) = true := by
  decide

/-! A small module: partition 0 owns cluster 0, its page table maps GV to device addresses one to one below 1 GiB, its one object
has its text at 0x10000, its linkage region at 0x20000 and its vector at 0x10100; context 0 runs task 0 in DIRECT mode. -/

def ctx0 : Ctx := { Ctx.empty with
  slot := .run, pc := 0x10000, etb := 0x10000, ltb := 0x20000, tvec := 0x10100, direct := true, exits := List.replicate 8 0x10040,
  s := [(1, 0x40), (2, 0x1122334455667788), (3, 3), (4, 0x5000), (5, 0x8000), (6, 0x10040), (7, 0x40000)] }
def mem0 : SMap Byte :=
  [(0x100000, 1), (0x100002, 0x20), (0x200000, 0x0F), (0x300000, 1), (0x30000A, 1), (0x300012, 1), (0x30001A, 2), (0x300021, 1)]
def m0 : State := { State.reset with
  mem := mem0
  mgmt := { State.reset.mgmt with faccept := 0x1FFF, dtset := true, flock := true }
  parts := [(0, { Part.empty with st := .active, ptroot := 0x100000, otbase := 0x300000, saven := 4, savebase := 0x800000 })]
  clusters := [(0, 1)]
  grants := [⟨0, 2 ^ 31, 0, 0xFF⟩]
  ctxs := [(0, ctx0)]
  tasks := [(0, { Task.empty with st := .running, part := 0, live := 0 })] }
/-- The module with another context 0. -/
def with_ (f : Ctx → Ctx) : State := { m0 with ctxs := [(0, f ctx0)] }
/-- The module with more bytes. -/
def bytes (s : State) (k : Nat) (l : List Byte) : State := { s with mem := Mem.writeL s.mem k l }
/-- A property of the next state. -/
def after (o : Host.Outcome State Fault Refusal) (p : State → Bool) : Bool :=
  match o with
  | .next t => p t
  | _ => false
/-- A property of the running context in the next state. -/
def gives (i : Instr) (s : State) (p : Ctx → Bool) : Bool := after (exec i s) fun t => p (t.ctx s.cur)
/-- An effect that succeeds. -/
theorem ok_of {ε α : Type} {x : Except ε α} (h : x.toBool = true) : ∃ a, x = .ok a := by
  cases x with
  | ok a => exact ⟨a, rfl⟩
  | error e => cases h
/-- An effect on the module that succeeds. -/
theorem done_of {ε α : Type} {x : Except ε (α × State)} (h : x.toBool = true) : ∃ a t, x = .ok (a, t) := by
  obtain ⟨⟨a, t⟩, e⟩ := ok_of h
  exact ⟨a, t, e⟩
/-- A row that makes a step. -/
theorem next_of {o : Host.Outcome State Fault Refusal} (h : after o (fun _ => true) = true) : ∃ t, o = .next t := by
  cases o with
  | next t => exact ⟨t, rfl⟩
  | fault e => cases h
  | refused e => cases h
/-- An effect that ends with this result in this state. -/
def endsIn {α : Type} [DecidableEq α] (x : Except Stop (α × State)) (a : α) (s : State) : Bool :=
  match x with
  | .ok (b, t) => b = a && t = s
  | .error _ => false
theorem ends_of {α : Type} [DecidableEq α] {x : Except Stop (α × State)} {a : α} {s : State} (h : endsIn x a s = true) :
    x = .ok (a, s) := by
  unfold endsIn at h
  split at h
  · simp only [Bool.and_eq_true, decide_eq_true_eq] at h
    rw [h.1, h.2]
  · cases h
/-- An operation that raises this cause. -/
def refuses {α : Type} (x : Except Exc α) (e : Exc) : Bool :=
  match x with
  | .error f => f = e
  | .ok _ => false
/-- Two effects that succeed one after the other. -/
theorem both_of {α β : Type} {x : M α} {f : α → M β} {s : State} (h : ((x >>= f) s).toBool = true) :
    ∃ a t b u, x s = .ok (a, t) ∧ f a t = .ok (b, u) := by
  rw [M.bind_run] at h
  cases hx : x s with
  | error e => rw [hx] at h; cases h
  | ok y =>
    obtain ⟨a, t⟩ := y
    simp only [hx] at h
    obtain ⟨b, u, hf⟩ := done_of h
    exact ⟨a, t, b, u, rfl, hf⟩
/-- The same, where the last state has a property. -/
def bothAnd {α β : Type} (x : M α) (f : α → M β) (p : State → Bool) (s : State) : Bool :=
  match x s with
  | .ok (a, t) => match f a t with
    | .ok (_, u) => p u
    | .error _ => false
  | .error _ => false
theorem both_and {α β : Type} {x : M α} {f : α → M β} {p : State → Bool} {s : State} (h : bothAnd x f p s = true) :
    ∃ a t b u, x s = .ok (a, t) ∧ f a t = .ok (b, u) ∧ p u = true := by
  unfold bothAnd at h
  split at h
  · split at h
    · exact ⟨_, _, _, _, ‹_›, ‹_›, h⟩
    · cases h
  · cases h
/-- An effect that leaves the state as it is, with a property of its result. -/
def looks {α : Type} (x : M α) (s : State) (p : α → Bool) : Bool :=
  match x s with
  | .ok (a, t) => t = s && p a
  | .error _ => false
theorem looks_of {α : Type} {x : M α} {s : State} {p : α → Bool} (h : looks x s p = true) : ∃ a, x s = .ok (a, s) ∧ p a = true := by
  unfold looks at h
  split at h
  · simp only [Bool.and_eq_true, decide_eq_true_eq] at h
    obtain ⟨rfl, hp⟩ := h
    exact ⟨_, ‹_›, hp⟩
  · cases h

/-! R317 to R320. -/

def alu0 : Alu := { d := 3, a := 1, b := 2, imm := 0, p := false, i := false, w := false, u := false }
def ops (x y : Word) : State := with_ fun c => { c with s := [(1, x), (2, y)] }
/-- The worked quotients and remainders of R320. -/
theorem test_div : gives (.div plain alu0) (ops 7 (-2)) (fun c => c.reg 3 == -3) = true ∧
    gives (.div plain alu0) (ops (BitVec.ofNat 64 (2 ^ 63)) (-1)) (fun c => c.reg 3 == BitVec.ofNat 64 (2 ^ 63)) = true := by
  decide +kernel
theorem test_div_unsigned : gives (.div plain { alu0 with u := true }) (ops (-7) 2) (fun c => c.reg 3 == 0x7FFFFFFFFFFFFFFC) = true ∧
    gives (.div plain { alu0 with w := true, u := true }) (ops 0xFFFFFFFF00000005 2) (fun c => c.reg 3 == 2) = true := by
  decide +kernel
theorem test_rem : gives (.rem plain alu0) (ops (-7) 2) (fun c => c.reg 3 == -1) = true ∧
    gives (.rem plain alu0) (ops 7 (-2)) (fun c => c.reg 3 == 1) = true := by decide +kernel
theorem test_rem_unsigned : gives (.rem plain { alu0 with w := true, u := true }) (ops 0xFFFFFFFF00000005 2) (fun c => c.reg 3 == 1) =
    true := by decide +kernel
/-- A sum that wraps, and a 32-bit one that is sign-extended. -/
theorem test_add : gives (.add plain alu0) (ops (-1) 1) (fun c => c.reg 3 == 0) = true ∧
    gives (.add plain { alu0 with w := true }) (ops 0x7FFFFFFF 1) (fun c => c.reg 3 == 0xFFFFFFFF80000000) = true := by decide +kernel
theorem test_mulh : gives (.mulh plain alu0) (ops (-1) (-1)) (fun c => c.reg 3 == 0) = true ∧
    gives (.mulh plain { alu0 with u := true }) (ops (-1) (-1)) (fun c => c.reg 3 == -2) = true := by decide +kernel
/-- R8: a write of s0 is discarded. -/
theorem test_s0 : gives (.add plain { alu0 with d := 0 }) (ops 1 1) (fun c => c.reg 0 == 0) = true := by decide +kernel
theorem test_rot : gives (.rot plain alu0) (ops (BitVec.ofNat 64 (2 ^ 63 + 1)) 65) (fun c => c.reg 3 == 3) = true := by decide +kernel
theorem test_sar : gives (.sar plain { alu0 with w := true }) (ops 0x80000000 31) (fun c => c.reg 3 == -1) = true := by decide +kernel
theorem test_clz : gives (.clz plain { d := 3, a := 1, w := true }) (ops 1 0) (fun c => c.reg 3 == 31) = true ∧
    gives (.clz plain { d := 3, a := 2, w := false }) (ops 1 0) (fun c => c.reg 3 == 64) = true := by decide +kernel
theorem test_cmp : gives (.cmp plain { d := 3, a := 1, b := 0, imm := 0xFFFE, p := false, i := true, w := false, cc := 2, cmb := 0 })
    (ops (-3) 0) (fun c => c.prd 3) = true := by decide +kernel
theorem test_bfi : gives (.bfi plain { d := 2, a := 1, pos := 60, len := 8, sx := false }) (ops 0xAB 0x0123456789ABCDEF)
    (fun c => c.reg 2 == 0xB123456789ABCDEF) = true := by decide +kernel

def patched : State := with_ fun c => { c with patch := [(63, 9)] }
/-- A register, an immediate of −2 and the last patch slot. -/
theorem wit_IntegerResults : secondOp false false 0 3 m0 = .ok (3, m0) ∧ secondOp true false 0xFFFE 0 m0 = .ok (-2, m0) ∧
    secondOp true true 63 0 patched = .ok (9, patched) ∧ (3 : Word) ≠ 0 := ⟨rfl, rfl, rfl, by decide⟩
/-- A second operand of 0, and one whose low 32 bits are 0. -/
theorem wit_IntegerResults_zero : secondOp false false 0 0 m0 = .ok (0, m0) ∧
    secondOp false false 0 8 (with_ fun c => { c with s := [(8, 0x100000000)] }) =
      .ok (0x100000000, with_ fun c => { c with s := [(8, 0x100000000)] }) ∧
    (BitVec.setWidth 32 (0x100000000 : Word) : Half) = 0 ∧ m0.me.passed = none := ⟨rfl, rfl, rfl, rfl⟩
/-- Fields of 1 and 64 bits, and lengths of 0 and 65. -/
theorem wit_BitResults : 1 ≤ (1 : BitVec 7).toNat ∧ (64 : BitVec 7).toNat ≤ 64 ∧ (0 : BitVec 7).toNat = 0 ∧ 64 < (65 : BitVec 7).toNat ∧
    m0.me.passed = none := by decide
/-- p11, a patch slot, an immediate, a count of 1, of 2^32 − 1, of 0 and of 2^32. -/
theorem wit_MoveResults : (11 : BitVec 4).toNat < 12 ∧ slotRead 63 patched = .ok (9, patched) ∧
    immS false 0xFFFF m0 = .ok (-1, m0) ∧ (11 : BitVec 4).toNat < 12 ∧ (11 : BitVec 5).toNat < 12 ∧
    secondOp false false 0 3 m0 = .ok (3, m0) := ⟨by decide, rfl, rfl, by decide, by decide, rfl⟩
theorem wit_MoveResults_loopset : immZ false 1 m0 = .ok (1, m0) ∧ rdS 0 m0 = .ok (0, m0) ∧
    (let s := with_ fun c => { c with s := [(8, 0xFFFFFFFF), (9, 0x100000000)] }
     rdS 8 s = .ok (0xFFFFFFFF, s) ∧ rdS 9 s = .ok (0x100000000, s)) ∧
    (0xFFFFFFFF : Word).toNat < 2 ^ 32 ∧ 2 ^ 32 ≤ (0x100000000 : Word).toNat := ⟨rfl, rfl, ⟨rfl, rfl⟩, by decide, by decide⟩

/-! Sequencing, calls, special registers, privilege. -/

/-- `nop` with each NXT that jumps: the target is in the text of the object of ETB; the loop counts are 0, 1 and 2. -/
theorem wit_SequencingResults : m0.quiet m0.cur ∧ seqnOf (.nop ⟨1, 12, 7⟩) = some ⟨1, 12, 7⟩ ∧ syncOf (.nop ⟨1, 12, 7⟩) = none ∧
    m0.exitFault (m0.ctx m0.cur).moved 7 = none ∧ (m0.ctx m0.cur).moved.pred.getLsbD 11 = false ∧
    ((with_ fun c => { c with lc := [(1, 1), (2, 2)] }).ctx 0).moved.loopc 0 = 0 ∧
    ((with_ fun c => { c with lc := [(1, 1), (2, 2)] }).ctx 0).moved.loopc 1 = 1 ∧
    1 < (((with_ fun c => { c with lc := [(1, 1), (2, 2)] }).ctx 0).moved.loopc 2).toNat := by
  refine ⟨.inr ⟨rfl, rfl⟩, rfl, rfl, ?_, ?_, ?_, ?_, ?_⟩ <;> decide +kernel
/-- A target that is no multiple of 8, and one that lies in no text. -/
theorem wit_SequencingResults_refused : ((with_ fun c => { c with exits := List.replicate 8 0x10041 }).ctx 0).moved.exit 7 % 8 ≠ 0 ∧
    (let s := with_ fun c => { c with exits := List.replicate 8 0x90000 }
     (s.ctx 0).moved.exit 7 % 8 = 0 ∧ (s.objAt 0 (s.ctx 0).moved.etb).all (fun x => !x.has 0x90000) = true ∧ s.quiet s.cur) := by
  refine ⟨by decide +kernel, by decide +kernel, by decide +kernel, .inr ⟨rfl, rfl⟩⟩
theorem test_jump_refused :
    gives (.nop ⟨1, 12, 7⟩) (with_ fun c => { c with exits := List.replicate 8 0x10041 }) (fun c => c.tcause % 256 == 0x06 && c.tval == 0x10041) = true ∧
    gives (.nop ⟨1, 12, 7⟩) (with_ fun c => { c with exits := List.replicate 8 0x90000 }) (fun c => c.tcause % 256 == 0x07 &&
      c.tval == 0x1001C) = true := by decide +kernel
def obj0 : Obj := ⟨0, 0x10000, 0x10000, 0x20000, 0x100, 0, 0, 0⟩
/-- `call` at depths 15 and 16, `ret` with one frame and with none. -/
theorem wit_CallsAndReturns :
    (let s := with_ fun c => { c with depth := 15 }
     s.quiet s.cur ∧ s.exitFault (s.ctx 0).moved 0 = none ∧ (s.ctx 0).moved.depth < 16) ∧
    (let s := with_ fun c => { c with depth := 16 }
     s.quiet s.cur ∧ s.exitFault (s.ctx 0).moved 0 = none ∧ 16 ≤ (s.ctx 0).moved.depth) ∧
    (let s := with_ fun c => { c with depth := 1, calls := [(0, (0x10040, 0x10000))] }
     s.quiet s.cur ∧ 0 < (s.ctx 0).moved.depth ∧ SMap.get? (s.ctx 0).moved.calls 0 = some (0x10040, 0x10000) ∧
     (0x10040 : Word).toNat % 8 = 0 ∧ s.objAt 0 0x10040 = some obj0) ∧
    (m0.ctx 0).moved.depth = 0 := by
  refine ⟨⟨.inr ⟨rfl, rfl⟩, ?_⟩, ⟨.inr ⟨rfl, rfl⟩, ?_⟩, ⟨.inr ⟨rfl, rfl⟩, ?_⟩, rfl⟩ <;> decide +kernel
/-- `jmpr` and `callr` of an address in the text and of a misaligned one; `callx` of a linkage entry. -/
theorem wit_CallsAndReturns_registers : m0.quiet m0.cur ∧ (m0.me.reg 6).toNat % 8 = 0 ∧ m0.objAt m0.me.part (m0.me.reg 6) = some obj0 ∧
    m0.me.depth < 16 ∧ (m0.me.reg 3).toNat % 8 ≠ 0 ∧ m0.me.passed = none := by
  refine ⟨.inr ⟨rfl, rfl⟩, ?_⟩; decide +kernel
def linked : State := bytes m0 0x20000 [0x40, 0, 1]
theorem wit_CallsAndReturns_callx : ∃ bs s2, immZ false 0 linked = .ok (0, linked) ∧
    gvLoad (linked.me.ltb + linked.me.reg 0 + 0) 8 linked = .ok (bs, s2) ∧ s2.cur = linked.cur ∧ s2.me = linked.me ∧
    BitVec.ofNat 64 (leNat bs) = 0x10040 ∧ s2.objAt s2.me.part 0x10040 = some obj0 ∧ s2.quiet s2.cur ∧ linked.me.ltb ≠ 0 := by
  obtain ⟨bs, s2, h⟩ : ∃ bs s2, gvLoad (linked.me.ltb + linked.me.reg 0 + 0) 8 linked = .ok (bs, s2) := ⟨_, _, rfl⟩
  cases h
  exact ⟨_, _, rfl, rfl, rfl, rfl, by decide +kernel, by decide +kernel, .inr ⟨rfl, rfl⟩, by decide⟩
def fieldO0 : FieldO := { d := 0, a := 2, b := 3, pa := 0x33, pb := 0x33, ka := 1, kb := 1, xr := 0, km1 := 0, mm1 := 0, nm1 := 0,
                          at_ := true, gs := 0, ne := 0, br := 0, be := false }
def mx0 : MxJob := ⟨.mma, fieldO0, ⟨0, 0, 0, 0⟩, 0, 0, 0, .none, .none, [], [], 0, 0, [], [], none, 0⟩
theorem test_mfs_waits : gives (.mfs plain { d := 3, srn := 6 }) (m0.setCtx 0 { ctx0 with mx := [mx0] }) (fun c => c.stall == some .engine &&
    c.pc == 0x10000) = true := by decide +kernel
/-- Every special register of the list, one that is none, and the modes. -/
theorem wit_SpecialRegisters : m0.me.mx = [] ∧ (0xFF : BitVec 8).toNat ∉ [0, 1, 2] ∧ (m0.setCtx 0 { ctx0 with mx := [mx0] }).me.mx ≠ [] ∧ m0.me.passed = none ∧
    (4 : Word).toNat % 8 < 5 ∧ (0x10100 : Word).toNat % 8 = 0 ∧ (with_ fun c => { c with th := true }).me.th = true ∧
    (with_ fun c => { c with ph := true }).me.ph = true := by decide +kernel
theorem wit_PrivilegeFaults : m0.me.passed = none ∧ m0.me.th = false ∧ m0.me.ph = false := by decide
/-- R330: reserved bits of FPC. -/
theorem test_mts : gives (.mts plain { a := 1, srn := 5 }) (ops 0xFFFFFFFFFFFFFFFC 0) (fun c => c.fpc == 0x1F04) = true := by
  decide +kernel
theorem test_mfs : gives (.mfs plain { d := 3, srn := 0x11 }) m0 (fun c => c.reg 3 == 0x20000) = true := by decide +kernel

/-! Traps. -/

/-- A trap with a handler, one in a handler, one without. -/
theorem wit_TrapEntry : (m0.ctx 0).th = false ∧ (m0.ctx 0).tvec ≠ 0 ∧ m0.objAt (m0.ctx 0).part (m0.ctx 0).tvec = some obj0 ∧
    ((with_ fun c => { c with th := true }).ctx 0).th = true ∧ ((with_ fun c => { c with tvec := 0 }).ctx 0).tvec = 0 := by
  decide +kernel
/-- R123: the cause and the engine class, the address, the vector. -/
theorem test_trap : gives (.trap plain { imm := 7, p := false }) m0 (fun c => c.tcause == 0x60C && c.tpc == 0x10008 && c.tval == 7 &&
    c.th && c.pc == 0x10100 && c.etb == 0x100E0) = true := by decide +kernel
/-- R336. -/
def inHandler : State := with_ fun c => { c with th := true, tpc := 0x10040, tsave := 0x10020 }
theorem test_eret : gives .eret inHandler (fun c => !c.th && c.pc == 0x10040 && c.etb == 0x10020) = true := by decide +kernel
theorem test_trap_divide : gives (.div plain alu0) (ops 1 0) (fun c => c.tcause == 0x15 && c.tpc == 0x10000 && c.reg 3 == 0) = true := by
  decide +kernel
theorem wit_TrapInstruction : ∃ c s2, immZ false 7 m0 = .ok (7, m0) ∧
    m0.landing (m0.ctx m0.cur) ⟨1, 12, 0⟩ (m0.me.pc + 8) = (c, s2) ∧ c.th = false ∧ c.tvec ≠ 0 ∧ s2.objAt c.part c.tvec = some obj0 := by
  refine ⟨_, _, rfl, rfl, ?_⟩; decide +kernel
theorem wit_TrapInstruction_eret : inHandler.me.th = true ∧ inHandler.me.tpc.toNat % 8 = 0 ∧
    inHandler.objAt inHandler.me.part inHandler.me.tpc = some obj0 ∧ (inHandler.task inHandler.me.task).stepping = false ∧
    (inHandler.part inHandler.me.part).brk = [] := by decide +kernel

/-! Regions, yields, memory, atomics, semaphores, futures. -/

/-- `suspend` with its record at 0x40000: it commits, writes, and hands its slot over. -/
theorem wit_RegionsEnd : ∃ n s1 s2 s3, m0.me.reg 7 ≠ 0 ∧ (m0.me.reg 7).toNat % 256 = 0 ∧ m0.me.depth = 0 ∧ m0.me.th = false ∧
    popcount 32 (liveMask 0 2) ≤ 16 ∧ m0.me.mx = [] ∧ m0.sequence m0.me plain (m0.me.pc + 8) = .go n ∧
    m0.looked m0.me plain = m0 ∧ m0.commitRegion m0.cur = .ok s1 ∧ s1.cur = m0.cur ∧
    recordStore (m0.me.reg 7) (n.record (s1.task n.task) n.pc (liveMask 0 2) 0 0 0 s1.dtime) s1 = .ok ((), s2) ∧ s2.cur = m0.cur ∧
    (s2.recordRef n.task n.pc).handover m0.cur = some s3 ∧ (s2.recordRef n.task n.pc).cur = m0.cur ∧
    (s3.ctx m0.cur).task = m0.me.task :=
  ⟨_, _, _, _, by decide, by decide, rfl, rfl, by decide, rfl, rfl, rfl, rfl, rfl, rfl, rfl, rfl, rfl, rfl⟩
/-- `cmt` with s0 and with a record. -/
theorem wit_RegionsEnd_cmt : m0.me.reg 0 = 0 ∧ ∃ n s1 s2, m0.commitRegion m0.cur = .ok s1 ∧ s1.cur = m0.cur ∧
    m0.sequence m0.me plain (m0.me.pc + 8) = .go n ∧
    recordStore (m0.me.reg 7) (n.record (s1.task n.task) n.pc (liveMask 0 2) 3 0 0 s1.dtime) s1 = .ok ((), s2) ∧
    (s2.recordRef n.task n.pc).cur = m0.cur := ⟨rfl, _, _, _, rfl, rfl, rfl, rfl, rfl⟩
/-- A record whose LIVE names seventeen registers is one too many, sixteen are not. -/
theorem test_suspend_live : gives (.suspend plain { a := 7, liveHi := 0, liveLo := 0x1FFFF }) m0 (fun c => c.tcause == 0x60B) = true ∧
    gives (.suspend plain { a := 7, liveHi := 0, liveLo := 0xFFFF }) m0 (fun c => c.slot == .free) = true := by decide +kernel

/-- A choice of the model among some is one of them. -/
theorem pick_some (s : State) {l : List Nat} (h : l ≠ []) : ∃ x, s.pick l = (some x, { s with freeCtr := s.freeCtr + 1 }) := by
  have hp : 0 < l.length := List.length_pos_iff.mpr h
  have hm : (Config.freeWord s.freeCtr).toNat % l.length < l.length := Nat.mod_lt _ hp
  exact ⟨l[(Config.freeWord s.freeCtr).toNat % l.length], by rw [State.pick, if_neg h, List.getElem?_eq_getElem hm]⟩
/-- The module with a second context that may run, and with an entry of the same priority for core 0. -/
def twoCtx : State := { m0 with ctxs := [(0, ctx0), (1, { ctx0 with slot := .res })] }
def oneReady : State := { m0 with
  tasks := [(0, { Task.empty with st := .running }), (5, { Task.empty with st := .queued })]
  deques := [(0, [.task 5])] }
/-- Where work waits, a slot of the save area is free, the image may move, and the context is pre-empted; without a free slot it
stays; while an image moves on the core it waits. -/
def savesFull : State := { oneReady with parts := [(0, { m0.part 0 with saven := 0 })] }
def imageMoves : State := { oneReady with ctxs := [(0, ctx0), (1, { ctx0 with slot := .save })] }
theorem wit_YieldsAndChecks :
    (((twoCtx.retired (.yield plain) twoCtx).ctx 0).slot = .run ∧ ((twoCtx.retired (.yield plain) twoCtx).ctx 0).ending = false ∧
      (twoCtx.retired (.yield plain) twoCtx).switchTo 0 = some 1) ∧
    ((m0.retired (.yield plain) m0).switchTo 0 = none ∧ (m0.retired (.yield plain) m0).workFor 0 = none) := by
  decide +kernel
theorem wit_YieldsAndChecks_work : ∀ x ∈ [(oneReady, true), (savesFull, true), (imageMoves, false)],
    let t := x.1.retired (.yield plain) x.1
    (t.ctx 0).slot = .run ∧ (t.ctx 0).ending = false ∧ t.switchTo 0 = none ∧ t.workFor 0 = some (.task 5) ∧
      t.movable ((t.instances (t.ctx 0).task).filterMap t.slotOfTask) = x.2 ∧ (t.freeSaves 0 = [] ↔ x.1 = savesFull) := by
  decide +kernel
theorem wit_YieldsAndChecks_preempt : ∃ u, (oneReady.retired (.yield plain) oneReady).preempt 0 = some u := by
  have hi : ((oneReady.retired (.yield plain) oneReady).instances 0).filterMap
      (oneReady.retired (.yield plain) oneReady).slotOfTask = [0] := by decide +kernel
  have hf : (oneReady.retired (.yield plain) oneReady).freeSaves 0 ≠ [] := by decide +kernel
  have hg : (!(oneReady.retired (.yield plain) oneReady).movable [0]) = false := by decide +kernel
  have ht : ((oneReady.retired (.yield plain) oneReady).ctx 0).task = 0 := by decide +kernel
  have hp : ((oneReady.retired (.yield plain) oneReady).ctx 0).part = 0 := by decide +kernel
  obtain ⟨x, hx⟩ := pick_some (oneReady.retired (.yield plain) oneReady) hf
  refine ⟨({ (oneReady.retired (.yield plain) oneReady) with
    freeCtr := (oneReady.retired (.yield plain) oneReady).freeCtr + 1 } : State).saveCtx 0 x .preempted false, ?_⟩
  rw [State.preempt, ht, State.stopTask, hi]
  simp only [List.foldlM, hg, hp, hx, Bool.false_eq_true, if_false]
  rfl
/-- With no free slot in the save area the pre-emption fails. -/
theorem wit_YieldsAndChecks_full : (savesFull.retired (.yield plain) savesFull).preempt 0 = none := by decide +kernel
theorem wit_YieldsAndChecks_checks : (11 : BitVec 5).toNat < 12 ∧ m0.objAt m0.me.part m0.me.pc = some obj0 ∧
    (5 : BitVec 3).toNat < 6 ∧ (with_ fun c => { c with ph := true }).me.ph = true ∧
    ((with_ fun c => { c with ph := true }).commitRegion 0).toBool = true := by decide +kernel

/-- The last byte of each space and the first beyond it, with eight pages of pool on each core and 17 MiB of scratchpad. -/
def pooled : State := { m0 with clusters := [(0, 16 * 8 + 1)], scratch := [(0, 17)] }
theorem wit_LocalAddresses : pooled.cpoolOf 0 = 8 ∧ pooled.scratchOf 0 = 17 ∧ 2 ^ 20 - 8 * 2048 - 8 + 8 ≤ 2 ^ 20 - 8 * 2048 ∧
    2 ^ 20 < 2 ^ 20 - 7 + 8 ∧ 2 ^ 20 - 8 * 2048 < 2 ^ 20 - 8 + 8 ∧ 12 * 2 ^ 20 - 1 < 12 * 2 ^ 20 ∧ 2 ^ 24 + 8 ≤ 17 * 2 ^ 20 ∧
    17 * 2 ^ 20 < 17 * 2 ^ 20 - 7 + 8 ∧ 2 ^ 24 - 8 < 2 ^ 24 := by decide +kernel
/-- R347: 0x27 past LS, 0x23 in the pool, 0x2F past DX. -/
theorem test_local : refuses (pooled.localKey 0 1 (2 ^ 20 - 7) 8) (exc 0x27 (2 ^ 20 - 7)) = true ∧
    refuses (pooled.localKey 0 1 (2 ^ 20 - 8) 8) (exc 0x23 (2 ^ 20 - 8) 1) = true ∧
    refuses (pooled.localKey 0 3 (17 * 2 ^ 20) 1) (exc 0x2F (17 * 2 ^ 20)) = true := by decide +kernel

/-- A module with an ALLOC tile of the task (h1), and a committed one (h2), one page each. -/
def tileA : Tile := { Tile.empty with st := .alloc, pg := 1, gen := 1, decl := 2, rem := 2, hold := 1, owner := .task 0, pmap := [3] }
def tiled (f : Ctx → Ctx) : State := { pooled with
  tiles := [(1, tileA), (2, { tileA with st := .committed, pmap := [5] })]
  holds := [(.task 0, 0x801), (.task 0, 0x1001)]
  ctxs := [(0, f { ctx0 with h := [(1, 0x801), (2, 0x1001)] })] }
def mT : State := tiled id
/-- R134: the handles of these slots. -/
theorem test_handle : mkHandle 0 0 1 1 = 0x801 ∧ mT.tileOf 0x801 = some 1 ∧ mT.tileOf 0x1001 = some 2 ∧ mT.tileOf 0x802 = none := by
  decide +kernel
/-- A location in LS, CX, DX and GV, and one in a tile, read and consumed. -/
theorem wit_LoadResults : spaceLoc 1 0x40 8 8 m0 = .ok (.key (lsKey 0 0x40), m0) ∧
    loadAt 8 0x40 (.key (lsKey 0 0x40)) m0 = .ok (leBytes 8 0, m0) ∧ spaceLoc 2 0x100040 8 8 m0 = .ok (.key (lsKey 1 0x40), m0) ∧
    loadAt 8 0x100040 (.key (lsKey 1 0x40)) m0 = .ok (leBytes 8 0, m0) ∧
    spaceLoc 3 0x1000000 8 8 pooled = .ok (.key (dxKey 0 0x1000000), pooled) ∧
    loadAt 8 0x1000000 (.key (dxKey 0 0x1000000)) pooled = .ok (leBytes 8 0, pooled) ∧
    spaceLoc 4 0x5000 8 8 m0 = .ok (.gv 0x5000, m0) ∧ (loadAt 8 0x5000 (.gv 0x5000) m0).toBool = true := by
  refine ⟨ends_of ?_, ends_of ?_, ends_of ?_, ends_of ?_, ends_of ?_, ends_of ?_, ends_of ?_, ?_⟩ <;> decide +kernel
theorem wit_LoadResults_tile : tileLoc (mT.me.hreg 2) 8 8 8 .rd mT = .ok (.tile 2 8, mT) ∧
    loadAt 8 8 (.tile 2 8) mT = .ok (leBytes 8 0, mT) ∧ tileLoc (mT.me.hreg 2) 8 8 8 .use mT = .ok (.tile 2 8, mT) ∧
    mayConsume [mT.me.hreg 2] 8 mT = .ok ((), mT) ∧ (consume (mT.me.hreg 2) 1 8 mT).toBool = true := by
  refine ⟨ends_of ?_, ends_of ?_, ends_of ?_, ends_of ?_, ?_⟩ <;> decide +kernel
theorem m0_wf : m0.MemWf := by unfold State.MemWf; decide +kernel
def ldO (sp : BitVec 3) (a : BitVec 5) : LdO :=
  { d := 3, a := a, b := 0, cls := 0, sc := 0, ord := 0, sp := sp, w := 0, sx := true, c := false, h := false, disp := 1 }
/-- R348: a byte at 0x5001, sign-extended. -/
theorem test_ld : gives (.ld plain (ldO 4 4)) (bytes m0 0x5001 [0xFF]) (fun c => c.reg 3 == -1) = true := by decide +kernel
def stO (sp : BitVec 3) (h : Bool) (a : BitVec 5) : StO :=
  { d := 2, a := a, b := 0, cls := 0, sc := 0, ord := 0, sp := sp, w := 3, h := h, disp := 0 }
/-- R3: little-endian. -/
theorem test_st : after (exec (.st plain (stO 1 false 1)) m0) (fun t => Mem.readL t.mem (lsKey 0 0x40) 8 ==
    [0x88, 0x77, 0x66, 0x55, 0x44, 0x33, 0x22, 0x11]) = true := by decide +kernel
theorem wit_StoreResults : ∃ s1, spaceLoc 1 0x40 8 8 m0 = .ok (.key (lsKey 0 0x40), m0) ∧
    ordered [⟨lsKey 0 0x40, 8, true⟩] m0 = .ok ((), m0) ∧ m0.MemWf ∧ spaceLoc 4 0x5000 8 8 m0 = .ok (.gv 0x5000, m0) ∧
    gvStore 0x5000 (leBytes 8 7) 0 m0 = .ok ((), s1) ∧ m0.me.direct = true ∧
    m0.translate m0.me.part 0x5000 .wr true = .ok 0x5000 false false 0x200000 ∧
    tileLoc (mT.me.hreg 1) 8 8 8 .wr mT = .ok (.tile 1 8, mT) ∧ ordered (mT.tileRng 1 true) mT = .ok ((), mT) :=
  ⟨_, rfl, rfl, m0_wf, rfl, rfl, rfl, rfl, rfl, rfl⟩
/-- In a buffered region the store waits in the region's buffer (R114). -/
theorem test_st_buffered : after (exec (.st plain (stO 4 false 4)) (with_ fun c => { c with direct := false })) (fun t =>
    Mem.read t.mem 0x5000 == 0 && (t.ctx 0).sbuf.length == 8) = true := by decide +kernel

/-! Tensors, atomics, semaphores, futures. -/

/-- A tensor 0x40 of sixteen f32 elements, its one tile at 0x70000. -/
def mTensor : State := bytes (bytes (bytes (bytes m0 0x2000 [1, 1, 0, 12, 14]) 0x2010 [16]) 0x2024 [1, 0, 0, 0, 0, 0x60]) 0x6000 [1, 0, 7]
def ldtO : LdtO := { d := 2, a := 1, b := 3, cls := 0, sc := 0, ord := 0 }
theorem wit_TensorElements : ∃ t g b s1 bs s2, taAccess (.ldt plain ldtO) ldtO 1 mTensor = .ok ((t, g, b), s1) ∧
    gvLoad g ((etypeBits t.etype + 7) / 8) s1 = .ok (bs, s2) := by
  obtain ⟨⟨t, g, b⟩, s1, bs, s2, h1, h2⟩ := both_of (x := taAccess (.ldt plain ldtO) ldtO 1)
    (f := fun x => gvLoad x.2.1 ((etypeBits x.1.etype + 7) / 8)) (s := mTensor) (by decide +kernel)
  exact ⟨t, g, b, s1, bs, s2, h1, h2⟩
theorem wit_TensorElements_store : (((do
    let (t, g, b) ← taAccess (.stt plain ldtO) ldtO 2
    let c ← getC
    check (8 ≤ etypeBits t.etype) 0 b
    gvStore g (leBytes (etypeBits t.etype / 8) (c.reg 2).toNat) 0 : M Unit)) mTensor).toBool = true := by decide +kernel
/-- A tensor of sixteen u4 elements: a store writes four bits of a byte (R350). -/
def mNibbles : State := bytes mTensor 0x2003 [5, 17]
theorem wit_TensorElements_bits : (((do
    let (t, g, b) ← taAccess (.stt plain ldtO) ldtO 2
    let c ← getC
    check (etypeBits t.etype < 8) 0 b
    gvStoreBits g (BitVec.ofNat 8 ((c.reg 2).toNat % 2 ^ etypeBits t.etype * 2 ^ b))
      (BitVec.ofNat 8 ((2 ^ etypeBits t.etype - 1) * 2 ^ b)) 0 : M Unit)) mNibbles).toBool = true := by decide +kernel
theorem test_stt_nibble : after (exec (.stt plain ldtO) (bytes mNibbles 0x70001 [0xAB])) (fun t => Mem.read t.mem 0x70001 == 0x8B) = true := by
  decide +kernel
/-- R350: the element goes to its place in the tile. -/
theorem test_stt : after (exec (.stt plain ldtO) mTensor) (fun t => Mem.readL t.mem 0x7000C 4 == [0x88, 0x77, 0x66, 0x55]) = true := by
  decide +kernel

def amoO (sp : BitVec 3) (a opc : Nat) : AmoO :=
  { d := 2, a := BitVec.ofNat 5 a, b := 0, cls := 0, sc := 0, ord := 0, sp := sp, w := 3, opc := BitVec.ofNat 4 opc }
def redO : RedO := { a := 4, b := 0, cls := 0, sc := 0, ord := 0, sp := 4, w := 3, opc := 1 }
/-- `amo` and `cas` in LS and in GV, `red` in GV. -/
theorem wit_AtomicResults : m0.me.direct = true ∧ ∃ s1,
    atomicLoc (.amo plain (amoO 1 1 1)) (m0.me.reg 1 + m0.me.reg 0) 0 0 1 3 true [1, 2, 3, 4] false m0 =
      .ok (.key (lsKey 0 0x40), m0) ∧
    atomicKey (.key (lsKey 0 0x40)) m0 = .ok ((lsKey 0 0x40, false), m0) ∧
    ordered (m0.locRng 8 true (.key (lsKey 0 0x40))) m0 = .ok ((), m0) ∧ m0.poisoned (lsKey 0 0x40) 8 = false ∧
    atomicLoc (.cas plain (amoO 4 4 11)) (m0.me.reg 4 + m0.me.reg 0) 0 0 4 3 true [1, 2, 3, 4] false m0 = .ok (.gv 0x5000, m0) ∧
    atomicLoc (.red plain redO) (m0.me.reg 4 + m0.me.reg 0) 0 0 4 3 true [3, 4] false m0 = .ok (.gv 0x5000, m0) ∧
    atomicKey (.gv 0x5000) m0 = .ok ((0x5000, false), s1) ∧ s1.cur = m0.cur ∧ ordered (s1.locRng 8 true (.gv 0x5000)) s1 = .ok ((), s1) ∧
    s1.poisoned 0x5000 8 = false := ⟨rfl, _, rfl, rfl, rfl, rfl, rfl, rfl, rfl, rfl, rfl, rfl⟩
/-- The greatest opcode and predicate, and the least of `red`. -/
theorem wit_AtomicResults_codes : (8 : BitVec 4).toNat < 9 ∧ ((11 : BitVec 4).toNat < 12 ∨ (15 : BitVec 4) = 15) ∧
    1 ≤ (1 : BitVec 4).toNat := by decide
/-- R352: the old value comes back, the new one is stored. -/
theorem test_amo : after (exec (.amo plain { amoO 4 4 1 with b := 3 }) (with_ fun c => { c with s := [(3, 8), (4, 0x5000)] })) (fun t =>
    Mem.readN t.mem 0x5008 8 == 8 && (t.ctx 0).reg 2 == 0) = true := by decide +kernel
/-- R353: a comparison that fails stores nothing and clears the predicate. -/
theorem test_cas : after (exec (.cas plain (amoO 4 4 11)) m0) (fun t => Mem.readN t.mem 0x5000 8 == 0 && (t.ctx 0).reg 2 == 0 &&
    !(t.ctx 0).prd 11) = true := by decide +kernel
def waitaO (cnd : BitVec 2) : WaitaO := { d := 2, a := 1, b := 0, cls := 0, sc := 0, sp := 1, w := 3, tlg := 0, cnd := cnd }
def watched : State := { m0 with watch := (List.range 16).map fun n => (0, n + 100) }
theorem watches1 : m0.watches (waitaO 1) 0 (lsKey 0 0x40) m0 :=
  ⟨by decide, by decide, rfl, .inl ⟨.inl rfl, fun _ => ⟨rfl, rfl⟩, rfl, rfl, by decide +kernel, by decide +kernel, rfl⟩⟩
theorem watches0 : m0.watches (waitaO 0) 0 (lsKey 0 0x40) m0 :=
  ⟨by decide, by decide, rfl, .inl ⟨.inl rfl, fun _ => ⟨rfl, rfl⟩, rfl, rfl, by decide +kernel, by decide +kernel, rfl⟩⟩
theorem wit_AtomicResults_waita : watched.watches (waitaO 0) 0 (lsKey 0 0x40) watched ∧
    m0.waitaMet (waitaO 1) 0 = true ∧ m0.waitaMet (waitaO 0) 0 = false ∧ watched.waitaMet (waitaO 0) 0 = false ∧
    m0.me.stall = none ∧ (m0.monitorsOf 0).length < 16 ∧ watched.me.stall = none ∧ 16 ≤ (watched.monitorsOf 0).length :=
  ⟨⟨by decide, by decide, rfl, .inl ⟨.inl rfl, fun _ => ⟨rfl, rfl⟩, rfl, rfl, by decide +kernel, by decide +kernel, rfl⟩⟩,
    by decide +kernel⟩
/-- In GV. -/
def waitaG : WaitaO := { waitaO 1 with a := 4, sp := 4 }
theorem wit_AtomicResults_waitaGv : ∃ v k t, m0.watches waitaG v k t ∧ t.me.stall = none := by
  obtain ⟨bs, u, ⟨k, d, h⟩, t, h1, h2, h3⟩ := both_and (x := gvLoad 0x5000 8) (f := fun _ => gvPage 0x5000 .rd)
    (p := fun t => t.cur = 0 && t.me.stall == none) (s := m0) (by decide +kernel)
  simp only [Bool.and_eq_true, decide_eq_true_eq, beq_iff_eq] at h3
  exact ⟨leNat bs, k, t, ⟨by decide, by decide, h3.1, .inr ⟨rfl, bs, d, h, u, rfl, h1, h2, rfl⟩⟩, h3.2⟩

def gang0 : Gang := { part := 0, group := 7, cores := [0, 1], tasks := [0, 1], phases := 1, arrived := [(0, 1)] }
def ganged (g : Gang) : State := { m0 with
  tasks := [(0, { Task.empty with st := .running, gang := some (1, 0, 2), group := 7 })], gangs := [(1, g)] }
theorem wit_SemaphoreResults : (m0.me.reg 3).toNat < 576 ∧ m0.owns m0.me.part ((m0.me.reg 3).toNat / 12) = true ∧ m0.me.direct = true ∧
    m0.sem 3 255 + (m0.me.reg 3).toNat ≤ 65535 ∧ (0 : BitVec 16).toNat ≤ m0.sem 0 0 ∧ m0.sem 0 0 < (1 : BitVec 16).toNat ∧
    ((ganged gang0).task (ganged gang0).me.task).gang = some (1, 0, 2) ∧ SMap.get? (ganged gang0).gangs 1 = some gang0 ∧
    SMap.getD gang0.arrived 0 0 ≤ gang0.phases ∧ SMap.getD gang0.arrived 0 0 ≤ ((ganged gang0).me.reg 3).toNat ∧
    ((ganged gang0).me.reg 0).toNat < SMap.getD gang0.arrived 0 0 ∧ ((ganged gang0).me.reg 0).toNat < gang0.phases ∧
    (m0.task m0.me.task).gang = none ∧ m0.me.passed = none := by decide
/-- It has arrived twice and its mate never: `bar` and `barw` wait; before its first wait, in it, and past its limit. -/
theorem wit_SemaphoreResults_waits : gang0.phases < SMap.getD ({ gang0 with arrived := [(0, 2)] } : Gang).arrived 0 0 ∧
    ((ganged { gang0 with arrived := [(0, 2)] }).me.reg 0).toNat < 2 ∧ ({ gang0 with phases := 0 } : Gang).phases ≤ ((ganged gang0).me.reg 0).toNat ∧
    (ganged gang0).me.stall = none ∧ (0 : Nat) ≤ (ganged gang0).bclk := by decide
theorem test_barw : gives (.barw plain { d := 3, a := 0, tlg := 4 }) (ganged { gang0 with phases := 0 }) (fun c => c.stall == some (.barw 0 (some 16))) =
    true ∧ gives (.bar plain { d := 3 }) (ganged { gang0 with phases := 0 }) (fun c => c.stall == some (.bar 0)) = true := by decide +kernel
/-- R358: 65,535 is the greatest value. -/
theorem test_sems : after (exec (.sems plain { a := 3, b := 8, semi := 9, sc := 0 }) (with_ fun c => { c with s := [(3, 3), (8, 65535)] }))
    (fun t => t.sem 3 9 == 65535) = true := by decide +kernel

theorem wit_FutureResults : ∃ s1 s2 x y, (m0.me.reg 4).toNat % 8 = 0 ∧ m0.onHost m0.me.part (m0.me.reg 4) = false ∧ gvPage (m0.me.reg 4) .wr m0 = .ok ((0x5000, false, false), s1) ∧
    gvStore (m0.me.reg 4) (leBytes 8 0) 0 s1 = .ok ((), s2) ∧ m0.me.direct = true ∧
    s1.poisoned 0x5000 8 = false ∧
    s1.futSet s1.me.part (m0.me.reg 4) false 7 = .ok x ∧ s1.futSet s1.me.part (m0.me.reg 4) true 7 = .ok y :=
  ⟨_, _, _, _, by decide, by decide +kernel, rfl, rfl, rfl, rfl, rfl, rfl⟩
def futO : FutwO := { a := 4, b := 7, liveHi := 0, liveLo := 2 }
/-- `futw` on a future that is resolved, and on one that is pending. -/
theorem wit_FutureResults_futw (st : Byte) (h : st = 0 ∨ st = 1) : let s := bytes m0 0x5000 [st]
    ∃ n0 n1 s1 s2 s3, selectedAs ⟨0, 2, 0⟩ false s = .ok (n0, s) ∧ selectedAs ⟨0, 2, 0⟩ true s = .ok (n1, s) ∧
    s.commitRegion s.cur = .ok s1 ∧ s1.onHost s1.me.part (s.me.reg 4) = false ∧ gvPage (s.me.reg 4) .wr s1 = .ok ((0x5000, false, false), s2) ∧ s2.poisoned 0x5000 8 = false ∧
    leNat (Mem.readL s2.mem 0x5000 8) = st.toNat ∧ s.me.reg 7 ≠ 0 ∧ (s.me.reg 7).toNat % 256 = 0 ∧ s.me.mx = [] ∧
    recordStore (s.me.reg 7) ((if st = 0 then n0 else n1).record (s2.task s.me.task) (if st = 0 then n0 else n1).pc (liveMask 0 2)
      st.toNat (s.me.reg 4).toNat 0 s2.dtime) s2 = .ok ((), s3) := by
  rcases h with rfl | rfl
  · exact ⟨_, _, _, _, _, rfl, rfl, rfl, by decide +kernel, rfl, rfl, rfl, by decide, by decide, rfl, rfl⟩
  · exact ⟨_, _, _, _, _, rfl, rfl, rfl, by decide +kernel, rfl, rfl, rfl, by decide, by decide, rfl, rfl⟩
theorem wit_FutureResults_leave : (leaveSlot 0x40000 .suspended m0).toBool = true := by decide +kernel
/-- R366: the waiting task leaves its slot, its predicate at 0 and the future with one waiter. -/
theorem test_futw : after (exec (.futw ⟨0, 2, 0⟩ futO) m0) (fun t => (t.task 0).st == .suspended && (t.ctx 0).slot == .free &&
    Mem.readN t.mem 0x5000 8 == 4 && t.futs == [(0x5000, [.record 0 0x40000])]) = true := by decide +kernel
/-- A word that holds 1 or 2 after it, and its waiters: a continuation whose record is not under migration, a task, a queue. -/
def mWake : State := { m0 with
  tasks := [(3, { Task.empty with st := .suspended, resume := .record 0x9000 }), (4, { Task.empty with st := .waiting })] }
theorem wit_FutureResults_wake : (mWake.task 3).st = .suspended ∧ (mWake.task 3).resume = .record 0x9000 ∧
    mWake.gvMoving (mWake.task 3).part 0x9000 256 = false ∧ mWake.recordNamed (mWake.taskName 4) = some 4 ∧
    (bytes { m0 with mgmt := { m0.mgmt with qtbase := 0x700000 } } 0x700188 [2]).qstate 1 = 2 ∧
    (match gvPage 0x5000 .wr m0 with
     | .ok (_, t) => (t.futKey 0 0x5000).toBool && Mem.readN t.mem 0x5000 8 % 4 == 0
     | .error _ => false) = true := by decide +kernel
/-- R363: the value, and ST. -/
theorem test_futs : after (exec (.futs plain { a := 4, b := 3, sc := 0 }) m0) (fun t => Mem.readN t.mem 0x5000 8 == 0x30001) = true ∧
    after (exec (.futf plain { a := 4, b := 3, sc := 0 }) m0) (fun t => Mem.readN t.mem 0x5000 8 == 0x30002) = true := by decide +kernel
theorem wit_SyncWaits : (1 : BitVec 6) ≠ 0 ∧ (m0.ctx 0).passed = none ∧ m0.sem 0 0 < (1 : BitVec 6).toNat ∧
    (63 : BitVec 6).toNat ≤ (m0.setSem 0 0 63).sem 0 0 ∧ syncOf (.aclr plain ⟨0, 1, 0, 0⟩ { amask := 0 }) = some ⟨0, 1, 0, 0⟩ ∧
    (∀ n, n < 10 → m0.feature n = true) ∧ (with_ fun c => { c with ph := true }).me.ph = true ∧
    (m0.setSem 0 0 65535).sem 0 0 + (1 : BitVec 6).toNat = 65536 ∧ m0.ownerOf (0 / 12) = some 0 ∧
    (with_ fun c => { c with passed := some (0, 1) }).me.passed = some (0, 1) ∧ (m0.me.reg 3).toNat % 256 ≠ 0 := by decide +kernel
/-- R107: `aclr` that waits for two, and one that does not have to; R108: its signal, and one too many. -/
theorem test_sync : gives (.aclr plain ⟨5, 2, 0, 0⟩ { amask := 0 }) (m0.setSem 0 5 1) (fun c => c.stall == some (.sem 5 2)) = true ∧
    after (exec (.aclr plain ⟨5, 2, 6, 3⟩ { amask := 0 }) (m0.setSem 0 5 2)) (fun t => t.sem 0 5 == 0 && t.sem 0 6 == 3) = true := by
  decide +kernel
theorem test_sync_overflow : after (exec (.aclr plain ⟨0, 0, 6, 1⟩ { amask := 0 }) (m0.setSem 0 6 65535)) (fun t => t.sem 0 6 == 65535) =
    true := by decide +kernel

/-! The vector unit. -/

/-- v1 holds 5, 7, 0, …; v4 is a mask with lane 1 off. -/
def mV : State := { tiled (fun c => { c with
    v := [(64, 5), (65, 7)] ++ (List.range 64).map fun e => (256 + e, if e = 1 then 0 else 1) }) with
  mem := mem0, tiles := [(1, tileA), (2, { tileA with st := .committed, pmap := [5] })] }
def vldO (sp : BitVec 3) (h c : Bool) (a : BitVec 5) : VldO :=
  { d := 3, a := a, b := 0, t := 0, cls := 0, sc := 0, sp := sp, h := h, c := c, me := true, vm := 4 }
def vstO (sp : BitVec 3) (a : BitVec 5) : VstO :=
  { d := 1, a := a, b := 0, t := 0, cls := 0, sc := 0, sp := sp, h := false, me := true, vm := 4 }
theorem wit_VectorMemory : vectorBase (.vld plain (vldO 1 false false 1)) 1 0 0 0 0 1 false false .rd mV = .ok (.key (lsKey 0 0x40), mV) ∧
    ordered (mV.locRng 256 false (.key (lsKey 0 0x40))) mV = .ok ((), mV) ∧ mV.poisoned (lsKey 0 0x40) 256 = false ∧
    vectorBase (.vld plain (vldO 4 false false 4)) 4 0 0 0 0 4 false false .rd mV = .ok (.gv 0x5000, mV) ∧
    vectorBase (.vld plain (vldO 0 true true 2)) 2 0 0 0 0 0 true true .use mV = .ok (.tile 2 0, mV) ∧
    vectorBase (.vst plain (vstO 1 1)) 1 0 0 0 0 1 false false .wr mV = .ok (.key (lsKey 0 0x40), mV) ∧ mV.MemWf := by
  refine ⟨ends_of ?_, ends_of ?_, ?_, ends_of ?_, ends_of ?_, ends_of ?_, m0_wf⟩ <;> decide +kernel
theorem wit_VectorMemory_loads : mV.me.vectorX false 1 0 = 0x40 ∧ mV.me.vectorX false 4 0 = 0x5000 ∧ mV.me.vectorX true 2 0 = 0 ∧
    (∀ l ∈ [(Loc.key (lsKey 0 0x40), (0x40 : Word)), (.gv 0x5000, 0x5000), (.tile 2 0, 0)], ((do
      pagesReady .rd ((mV.me.active true 4).map fun e => l.1.plus (e * 4))
      (mV.me.active true 4).mapM fun e => do
      pure (e, leNat (← loadAt 4 (l.2 + word (e * 4)).toNat (l.1.plus (e * 4)))) : M (List (Nat × Nat))) mV).toBool = true) ∧
    endsIn (mayConsume [mV.me.hreg 2] 0 mV) () mV = true ∧ (consume (mV.me.hreg 2) 1 0 mV).toBool = true := by decide +kernel
theorem wit_VectorMemory_stores : (storesReady 4 0 none ((mV.me.active true 4).map fun e => (Loc.key (lsKey 0 0x40)).plus (e * 4)) mV).toBool =
      true ∧
    (((mV.me.active true 4).forM fun e => storeAt (leBytes 4 (mV.me.lane 1 e).toNat) 0 ((Loc.gv 0x5000).plus (e * 4)) : M Unit) mV).toBool =
      true := by decide +kernel
def vgatO (h c : Bool) (a : BitVec 5) : VgatO :=
  { d := 3, a := a, b := 1, t := 0, cls := 0, sc := 0, sp := if h then 0 else 1, h := h, c := c, me := true, vm := 4, scl := true }
def vldlO : VldlO := { d := 3, a := 0, b := 0, t := 0, me := true, vm := 4, ix := false }
/-- Gathers from LS and from a tile, and lane slices: every active lane has a location. -/
theorem wit_VectorMemory_gather :
    (gatherLocs (.vgat plain (vgatO false false 1)) 1 1 0 0 0 1 false false true 4 true .rd mV).toBool = true ∧
    (gatherLocs (.vgat plain (vgatO true true 2)) 2 1 0 0 0 0 true true true 4 true .use mV).toBool = true ∧
    endsIn (ordered (mV.gatherRng false 1 1 false) mV) () mV = true ∧ endsIn (ordered (mV.gatherRng true 2 0 false) mV) () mV = true ∧
    (laneKeys vldlO mV).toBool = true ∧ (tileFor (mV.me.hreg 2) 0 0 .use mV).toBool = true := by decide +kernel
/-- R371: an inactive lane keeps its value. -/
theorem test_vadd : gives (.vadd plain { d := 1, a := 1, b := 1, t := 0, rm := 0, bs := false, me := true, vm := 4 }) mV (fun c =>
    c.lane 1 0 == 10 && c.lane 1 1 == 7) = true := by decide +kernel
theorem test_vred : gives (.vred plain { d := 3, a := 1, t := 0, rm := 0, opr := 0, me := false, vm := 0 }) mV (fun c => c.reg 3 == 12) =
    true := by decide +kernel
theorem wit_VectorIntegers : (8 : BitVec 4).toNat ∈ [0, 1, 3, 4, 7, 8] ∧ (7 : BitVec 3) ≠ 5 ∧ (7 : BitVec 3) ≠ 6 ∧
    (5 : BitVec 4).toNat ∈ [2, 5, 6] := by decide
/-- Lanes of f32 in v1, v2 and v3; the mask v4 has lane 0 alone. -/
def mF (fpc : Word) (a b d : BitVec 32) : State := with_ fun c => { c with fpc := fpc, v := [(64, a), (128, b), (192, d), (256, 1)] }
/-- 1 + 2^−30 is inexact: with every trap off it completes, with all on the lowest raised flag, bit 4, traps. -/
theorem wit_VectorFloats : (∀ j, j < 5 → (fn2 2 0 .add 0x3F800000 0x30800000 0).2.getLsbD j = true →
      (mF 0 0x3F800000 0x30800000 0).me.fpc.getLsbD (8 + j) = false) ∧
    (fn2 2 0 .add 0x3F800000 0x30800000 0).2.getLsbD 4 = true ∧
    (mF 0x1F00 0x3F800000 0x30800000 0).me.fpc.getLsbD (8 + 4) = true ∧
    (∀ k, k < 4 → (fn2 2 0 .add 0x3F800000 0x30800000 0).2.getLsbD k = true →
      (mF 0x1F00 0x3F800000 0x30800000 0).me.fpc.getLsbD (8 + k) = false) ∧ m0.me.passed = none := by decide +kernel
def varO : VarO := { d := 3, a := 1, b := 2, t := 2, rm := 0, bs := false, me := true, vm := 4 }
theorem test_vfma : gives (.vfma plain varO) (mF 0 0x40000000 0x40400000 0x3F800000) (fun c => c.lane 3 0 == 0x40E00000) = true := by
  decide +kernel
theorem test_vadd_trap : gives (.vadd plain varO) (mF 0x1F00 0x3F800000 0x30800000 0) (fun c => c.tcause == 0x214 && c.tval == 1) =
    true := by decide +kernel
def vunO (d t : Nat) : VunO := { d := BitVec.ofNat 5 d, a := 1, t := BitVec.ofNat 4 t, rm := 0, me := true, vm := 4 }
/-- R381: a = 0.25 gives (+0, 1) and a = −0.5 gives (−1, +0). -/
theorem test_vcis : gives (.vcis plain (vunO 5 2)) (mF 0 0x3E800000 0 0) (fun c => c.lane 5 0 == 0 && c.lane 6 0 == 0x3F800000) = true ∧
    gives (.vcis plain (vunO 5 2)) (mF 0 0xBF000000 0 0) (fun c => c.lane 5 0 == 0xBF800000 && c.lane 6 0 == 0) = true := by
  decide +kernel
/-- 1 / 4 has no flag, 1 / 3 one, untrapped; `vcis` into v30 and into v31. -/
theorem wit_VectorFunctions : (fn1 2 0 .rcp 0x40800000).2 = 0 ∧ (∀ j, j < 5 → (fn1 2 0 .rcp 0x40400000).2.getLsbD j = true →
    (mF 0 0x40400000 0 0).me.fpc.getLsbD (8 + j) = false) ∧ (3 : BitVec 4).toNat ∈ [0, 3, 7] ∧ (30 : BitVec 5) ≠ 31 ∧
    (tyFmt 2).isSome = true ∧ m0.me.passed = none := by decide +kernel
/-- R382: 127 fits i8, 128 does not; f32 to bf16; the split of R211. -/
theorem wit_VectorConversions : tyMin 3 ≤ tyInt 0 127 ∧ tyInt 0 127 ≤ tyMax 3 ∧ ¬(tyMin 7 ≤ tyInt 0 128 ∧ tyInt 0 128 ≤ tyMax 7) ∧
    (2 : Nat) < 11 ∧ (∀ j, j < 5 → (convert 2 6 0 false 0x3F802008).get.2.getLsbD j = true → (0 : Word).getLsbD (8 + j) = false) ∧
    (29 : BitVec 5).toNat ≤ 29 ∧ m0.me.passed = none := by decide +kernel
/-- R212: the split of the example's operands. -/
theorem test_split3 : split3 0x3F802008 = (0x3F80, 0x3A80, 0x3580) ∧ split3 0x3F804010 = (0x3F80, 0x3B00, 0x3600) := by decide +kernel
theorem test_vcvt : gives (.vcvt plain { d := 3, a := 1, t := 0, rm := 0, sat := true, dt := 7, me := true, vm := 4 }) (mF 0 128 0 0)
    (fun c => c.lane 3 0 == 127) = true := by decide +kernel
/-- R384: NaN compares unequal to itself, and only cc = ne holds. -/
theorem wit_VectorCompares : (5 : BitVec 3).toNat < 6 ∧ (6 : BitVec 3).toNat < 7 ∧ m0.me.fpc.getLsbD 8 = false ∧
    (8 : BitVec 4).toNat < 9 ∧ ((tyFmt 2).any fun f => (f.unpack 0x7FC00000).isNan || (f.unpack 0).isNan) = true := by decide +kernel
theorem test_vcmp_nan : tyCmp 2 1 0x7FC00000 0x7FC00000 = (true, 0) ∧ tyCmp 2 5 0x7F800000 0x3F800000 = (true, 0) := by decide +kernel
/-- `vperm` with indices below 64, and with one of 64 in lane 0; `vins` at 63 and 64. -/
theorem wit_VectorMoves : (∀ e, e < 64 → (mF 0 0 63 0).me.on true 4 e = true → ((mF 0 0 63 0).me.lane 2 e).toNat < 64) ∧
    (mF 0 0 64 0).me.on true 4 0 = true ∧ 64 ≤ ((mF 0 0 64 0).me.lane 2 0).toNat ∧ m0.me.passed = none ∧
    (63 : Word).toNat < 64 ∧ 64 ≤ (64 : Word).toNat ∧ m0.fp8Ok 9 := by
  refine ⟨?_, ?_, ?_, rfl, by decide, by decide, fun _ => ?_⟩ <;> decide +kernel
theorem test_vins : gives (.vins plain { d := 1, a := 3, b := 4, t := 0 }) (with_ fun c => { c with s := [(3, 9), (4, 63)] })
    (fun c => c.lane 1 63 == 9) = true := by decide +kernel
/-- R385: the tree of 2^24, 0, 1, 1 gives 2^24 + 2, and the scan 2^24 in each lane. -/
def mR : State := with_ fun c => { c with v := [(64, 0x4B800000), (66, 0x3F800000), (67, 0x3F800000)] }
theorem test_vred_float : gives (.vred plain { d := 3, a := 1, t := 2, rm := 0, opr := 0, me := false, vm := 0 }) mR
    (fun c => c.reg 3 == 0x4B800001) = true := by decide +kernel
theorem test_vscan_float : gives (.vscan plain { d := 2, a := 1, t := 2, rm := 0, opr := 0, me := false, vm := 0 }) mR
    (fun c => c.lane 2 3 == 0x4B800000) = true := by decide +kernel
theorem wit_VectorReductions : (5 : BitVec 3).toNat < 6 ∧ (8 : BitVec 4).toNat < 9 ∧
    (let r := redTree 2 0 0 ((List.range 64).map fun e => (mR.me.lane 1 e).toNat)
     ((r.2.foldl (fun y x => y ||| x.2) (0 : Fl)).setWidth 64 &&& (mR.me.fpc >>> 8) = 0#64)) := by decide +kernel

/-! Loop nests, rules, the matrix field, drift. -/

def lnO : LnopO :=
  { d := 1, a := 2, b := 3, fn := 1, t := 0, dt := 0, rm := 0, sat := false, kd := 1, ka := 1, kb := 1, e4 := 0, e3 := 0, e2 := 0,
    e1 := 0, e0 := 1, nlv := 0, scb := 0, sca := 0, scd := 0, sb4 := 0, sb3 := 0, sb2 := 0, sb1 := 0, sb0 := 1, sa4 := 0, sa3 := 0,
    sa2 := 0, sa1 := 0, sa0 := 1, sd4 := 0, sd3 := 0, sd2 := 0, sd1 := 0, sd0 := 1 }
/-- Two words each at 0x100, 0x200 and 0x300 of LS. -/
def mL : State := bytes (with_ fun c => { c with s := [(1, 0x100), (2, 0x200), (3, 0x300)] }) (lsKey 0 0x200) [5, 0, 0, 0, 7]
def y0 : Sync := ⟨0, 0, 0, 0⟩
def lnRun (o : LnopO) (s : State) : Except Exc LnRun :=
  (List.range ((lnExtents o).foldl (· * ·) 1)).foldlM (lnStep o (rmOf o.rm.toNat s.me.fpc) (lnOperand o none 0 s.me 0)
    (lnOperand o none 0 s.me 1) (lnOperand o none 0 s.me 2)) ⟨s, [], 0⟩
/-- `lnop` of two i32 sums; of f32 256 narrowed to i8 without SAT, which does not fit. -/
theorem wit_LoopNests : mL.syncWait mL.cur (some y0) = some mL ∧ endsIn (lnForm (.lnop plain y0 lnO) lnO mL) () mL = true ∧
    endsIn (mayConsume [] 0 mL) () mL = true ∧ endsIn (lnChecks (.lnop plain y0 lnO) lnO none false mL) () mL = true ∧
    endsIn (ordered ((lnUsed lnO).flatMap (mL.lnRng lnO 0 mL.me)) mL) () mL = true ∧
    (match lnRun lnO mL with
     | .ok x => x.range == 0 && (x.fl.foldl (fun f z => f ||| z.2) (0 : Fl)).setWidth 64 &&& (mL.me.fpc >>> 8) == 0
     | .error _ => false) = true ∧ mL.me.passed = none := by
  refine ⟨rfl, ?_, ?_, ?_, ?_, ?_, rfl⟩ <;> decide +kernel
def lnNarrow : LnopO := { lnO with fn := 13, kb := 0, b := 0, sb0 := 0, dt := 7, e0 := 0 }
def mN : State := bytes (with_ fun c => { c with s := [(1, 0x100), (2, 0x200)] }) (lsKey 0 0x200) [0, 1]
theorem wit_LoopNests_range : endsIn (lnChecks (.lnop plain y0 lnNarrow) lnNarrow none false mN) () mN = true ∧
    (match (List.range ((lnExtents lnNarrow).foldl (· * ·) 1)).foldlM (lnStep lnNarrow 0 (lnOperand lnNarrow none 0 mN.me 0)
        (lnOperand lnNarrow none 0 mN.me 1) { view := .none, base := 0, size := 0, str := [], val := 0 }) ⟨mN, [], 0⟩ with
     | .ok x => x.range != 0
     | .error _ => false) = true := by decide +kernel
theorem wit_LoopNests_sums : mL.MemWf ∧ mL.poison = [] ∧ mL.me.mx = [] ∧ mL.jobs = [] ∧ (mL.me.reg 1).toNat % 4 = 0 ∧
    (mL.me.reg 1).toNat + 8 ≤ 2 ^ 20 - mL.cpoolOf 0 * 2048 ∧ (mL.me.reg 1).toNat + 8 ≤ (mL.me.reg 2).toNat ∧ (8 : Nat) ≤ 65536 := by
  refine ⟨Mem.wf_writeL _ _ m0_wf, ?_⟩; decide +kernel
theorem test_lnop : after (exec (.lnop plain y0 lnO) mL) (fun t => Mem.readL t.mem (lsKey 0 0x100) 8 == [5, 0, 0, 0, 7, 0, 0, 0]) = true := by
  decide +kernel
/-- Two open tensors, 0x40 and 0x41, of slices of sixteen f32; f2 reads the first and f3 writes the second. -/
def openTensor (s : State) (a : Nat) : State := bytes (bytes s a [3, 1, 0, 12, 14]) (a + 0x28) [0, 0x60, 0, 0, 0, 0, 0, 0, 16]
def bindA : Binding := ⟨0x40, false, 0, 0, 0, 0, 16⟩
def bindD : Binding := ⟨0x41, true, 0, 1, 1, 0, 16⟩
def streamed (f : Ctx → Ctx) : State := openTensor (openTensor (tiled fun c => f { c with f := [(2, bindA), (3, bindD)] }) 0x2000) 0x2080
def mS : State := streamed id
/-- The running task is the one member of a gang. -/
def mG0 : State := { mT with tasks := [(0, { Task.empty with st := .running, gang := some (1, 0, 1) })] }
def mAt : State := streamed fun c => { c with s := [(1, 0x1000), (2, 0x200), (3, 0x300), (4, 0x5000)] }
def cpyRule : CpyO := { tc := false
                        c := { d := 4, a := 2, b := 3, kd := 0, ka := 5, cv := 0, et := 0, hm1 := 0, fp := false, csc := 0, scout := 0, fr := 0,
                               fv := false, tr := 0, tv := false } }
def mmaO (ka kb : BitVec 3) : FieldO := { d := 0, a := 2, b := 3, pa := 0x33, pb := 0x33, ka := ka, kb := kb, xr := 0, km1 := 0, mm1 := 0,
                                          nm1 := 0, at_ := true, gs := 0, ne := 0, br := 0, be := false }
def lnRule : LnopO := { lnO with fn := 9, t := 2, dt := 2, kd := 5, ka := 5, kb := 0, d := 3, a := 2, b := 0, e0 := 15, sb0 := 0 }
def scO (ka : BitVec 3) : ScaccO := { d := 1, a := 2, b := 0, ka := ka, kb := 6, sm := 0, sf := true, pt := false, mm1 := 0, nm1 := 0 }
theorem wit_RuleInstallation : mS.me.direct = true ∧ mS.launches = [] ∧ (∀ b ∈ mS.me.f, (mS.stream mS.me.part b.2.tid.toNat).eosx = none) ∧
    mS.feature 6 = true ∧ mS.syncWait mS.cur (some y0) = some mS ∧
    endsIn (cvChecks (.cpy plain y0 cpyRule) cpyRule.c mS) () mS = true ∧
    (cpyInstall (.cpy plain y0 cpyRule) cpyRule mS).toBool = true ∧ (lnInstall (.lnop plain y0 lnRule) lnRule mS).toBool = true := by
  refine ⟨rfl, rfl, ?_, ?_, rfl, ?_, ?_, ?_⟩ <;> decide +kernel
/-- The matrix forms, with their carried accumulator. -/
theorem wit_RuleInstallation_matrix :
    ((do let j ← fieldSetup (.mma plain y0 (mmaO 5 1)) .mma (mmaO 5 1) y0 none
         install (.mma plain y0 (mmaO 5 1)) ⟨some 2, none, none, 1, 0⟩ j.rng : M Unit) mAt).toBool = true ∧
    ((do let z ← scSetup (.scacc plain y0 (scO 5)) (scO 5) none
         install (.scacc plain y0 (scO 5)) ⟨some 2, none, none, 1, 1⟩ (scRng (scO 5) z) : M Unit) mAt).toBool = true := by decide +kernel
/-- A buffered region commits at the installation; a stream at its end ends the rule. -/
theorem wit_RuleInstallation_buffered : (cpyInstall (.cpy plain y0 cpyRule) cpyRule (streamed fun c => { c with direct := false })).toBool =
    true ∧ (cpyInstall (.cpy plain y0 cpyRule) cpyRule { mS with streams := [(0x40, { Stream.empty with eosx := some 0 })] }).toBool =
    true := by decide +kernel
def mma35 : FieldO := { mmaO 5 1 with pa := 0xA3, pb := 0xA3, at_ := false }
/-- The features are all on; `mma3`, `bsmm` and `gmm` pass the checks of their types, `lnop` those of its form and, without an input
stream, those of its operands. -/
theorem wit_StreamRefusals : (∀ n, n < 10 → mAt.feature n = true) ∧ y0.wst = 0 ∧ mAt.me.passed = none ∧
    (∀ x ∈ [(FieldOp.mma3, Instr.mma3 plain y0 mma35, mma35), (.bsmm, .bsmm plain y0 (mmaO 5 1), mmaO 5 1), (.gmm, .gmm plain y0 (mmaO 5 1), mmaO 5 1)],
      endsIn (precChecks x.2.1 x.1 x.2.2 mAt) () mAt = true) ∧
    endsIn (lnForm (.lnop plain y0 lnRule) lnRule mAt) () mAt = true ∧
    endsIn (lnChecks (.lnop plain y0 { lnRule with ka := 1 }) { lnRule with ka := 1 } none true mAt) () mAt = true ∧
    (mG0.task mG0.me.task).gang.isSome = true := by decide +kernel
/-- R172: the slot is ARMED, the lowest free one, and nothing was copied. -/
theorem test_install : gives (.cpy plain y0 cpyRule) mS (fun c => (SMap.get? c.k 0).any (fun r => r.st == .armed && r.rank == 0 &&
    r.cur == 0) && c.installs == 1) = true := by decide +kernel

/-! The matrix field. -/

def mmaq0 : FieldO := { mmaO 1 1 with pb := 0x73, km1 := 31, xr := 1 }
def mma30 : FieldO := { mmaO 1 1 with pa := 0xA3, pb := 0xA3, at_ := false }
def bsmm0 : FieldO := { mmaO 1 1 with xr := 1 }
def gmm0 : FieldO := { mmaO 1 1 with xr := 1, be := true, br := 4 }
/-- Each of the five sets up its job; `gmm` with bias updates. -/
theorem wit_FieldInstructions :
    (∀ x ∈ [(FieldOp.mma, Instr.mma plain y0 (mmaO 1 1), mmaO 1 1), (.mmaq, .mmaq plain y0 mmaq0, mmaq0), (.mma3, .mma3 plain y0 mma30, mma30),
        (.bsmm, .bsmm plain y0 bsmm0, bsmm0), (.gmm, .gmm plain y0 gmm0, gmm0)],
      endsIn (fieldNeeds x.1 x.2.2 mAt) () mAt = true ∧
      ((do let j ← fieldSetup x.2.1 x.1 x.2.2 y0 none
           ordered j.rng
           let m ← if x.2.2.be then mxDomain x.2.2 else pure none
           modS fun s => j.pins.foldl State.pin s
           pure m : M (Option Nat)) mAt).toBool = true) ∧
    mAt.me.mx.length < 8 ∧ mAt.me.direct = true ∧ mAt.unitFires 0 true = false ∧ mAt.unitWanted 0 true = false := by decide +kernel
/-- A rule of `mma` in k0 of the running task fires in the field; one of `scacc` in k1 fires in the drain unit. -/
def firing (i : Instr) : Rule := ⟨BitVec.ofNat 64 (dw0 i), BitVec.ofNat 64 (encodeNat i / 2 ^ 64), 0, 0, 0, .firing, 0, 0, 0x40, 0xFFFF,
  0xFFFF, 0, 1, 1, 0, 0, 0, 0, 0, [], 0, none⟩
def mFires : State := streamed fun c => { c with k := [(0, firing (.mma plain y0 (mmaO 5 1))), (1, firing (.scacc plain y0 (scO 5)))] }
theorem wit_FieldInstructions_waits : mFires.unitFires 0 true = true ∧ mFires.unitFires 0 false = true := by decide +kernel
/-- R207: four products of e4m3 0x01, 2^−18 each, added to 64.0 as one chunk of 2^−16. -/
theorem test_chunk : let x := Fmt.e4m3.unpack 0x01
    (Fmt.f32.pack 0 false (Fp.add 0 (Fmt.f32.unpack 0x42800000) (chunkSum (List.replicate 4 (Fp.mul x x))).1).1).1 = 0x42800002 := by
  decide +kernel
/-- R209 in small: −3 × 9 with i8 operands. -/
def mI : State := bytes (bytes mAt (lsKey 0 0x200) (toPlanar 3 1 1 [0xFD])) (lsKey 0 0x300) (toPlanar 3 1 1 [9])
theorem test_mma : (match fieldSetup (.mma plain y0 (mmaO 1 1)) .mma (mmaO 1 1) y0 none mI with
    | .ok (j, _) => (mI.runChunk mI.me j).any fun x => x.1.accw 0 0 0 == BitVec.ofInt 32 (-27) && x.2.done == 1
    | .error _ => false) = true := by decide +kernel
theorem wit_MatrixChunks : (match fieldSetup (.mma plain y0 (mmaO 1 1)) .mma (mmaO 1 1) y0 none mI with
    | .ok (j, _) => !plFloat (chunkOf j).a.ty && (mI.runChunk mI.me j).isSome
    | .error _ => false) = true := by decide +kernel
def aldO : AldO := { d := 1, a := 2, ka := 1, mm1 := 0, nm1 := 0 }
def adrnO : AdrnO := { d := 2, a := 1, dt := 0, rm := 0, sat := false, at_ := true, lay := false, clr := true, kd := 1, mm1 := 0, nm1 := 0 }
theorem wit_Accumulators : endsIn (accsFree [0, 1] mAt) () mAt = true ∧ endsIn (ordered ([0, 1].map (accRng · true)) mAt) () mAt = true ∧
    (match mxOperand none 1 2 0 4 4 misaligned false mAt with
     | .ok (x, t) => t = mAt && endsIn (ordered (accRng 1 true :: x.rng) mAt) () mAt && (mAt.viewRead x.view x.base 4).isSome
     | .error _ => false) = true ∧
    (match mxOperand none 1 2 0 4 4 misaligned true mAt with
     | .ok (x, t) => t = mAt && endsIn (ordered (accRng 1 true :: x.rng) mAt) () mAt
     | .error _ => false) = true ∧
    endsIn (ordered [accRng 1 false] mAt) () mAt = true ∧ mAt.me.mx = [] ∧ mAt.unitFires 0 false = false ∧ mAt.unitWanted 0 false = false ∧
    endsIn (mayConsume [mT.me.hreg 2] 0 mT) () mT = true ∧ (consume (mT.me.hreg 2) 1 0 mT).toBool = true ∧ convert 0 0 0 false 7 ≠ .range ∧
    (match scSetup (.scacc plain y0 (scO 0)) (scO 0) none mAt with
     | .ok (x, t) => t = mAt && endsIn (ordered (scRng (scO 0) x) mAt) () mAt
     | .error _ => false) = true := by
  refine ⟨?_, ?_, ?_, ?_, ?_, rfl, ?_, ?_, ?_, ?_, ?_, ?_⟩ <;> decide +kernel
/-- R210: acc 1.0, scale 0x2C00 and p = 3 give 1.1875. -/
theorem test_scacc : (scaleAdd 0x3F800000 (Fmt.f16.unpack 0x2C00) (Fp.ofInt 3 0)).1 = 0x3F980000 := by decide +kernel
theorem test_ast : gives (.ast plain y0 { d := 3, cmask := 1 }) (with_ fun c => { c with ovf := 3 }) (fun c => c.reg 3 == 3 && c.ovf == 2) =
    true := by decide +kernel

/-! Drift. -/

def drO (kd ka : BitVec 3) : DrO := { d := 5, a := 4, b := 1, kd := kd, ka := ka, cv := 0, et := 0, hm1 := 0, fp := false, csc := 0,
                                      scout := 0, fr := 0, fv := false, tr := 0, tv := false }
/-- What `takesJob` asks of a job. -/
def taken (s : State) (j : Job) : Bool := endsIn (ordered j.rng s) () s && (s.accept j).toBool
theorem takes_of {s : State} {irr : Prop} {j : Job} (hd : s.me.direct = true) (hl : (s.jobsOn (s.cur / 4)).length < 8)
    (hn : (s.task s.me.task).launch = none) (h : taken s j = true) : ∃ t, s.takesJob irr j t := by
  simp only [taken, Bool.and_eq_true] at h
  obtain ⟨ho, ha⟩ := h
  obtain ⟨t, ha⟩ := ok_of ha
  exact ⟨t, fun _ => hd, hl, fun d hx => absurd (hn.symm.trans hx) (by simp), ends_of ho, ha⟩
def cpyOf (kd ka : BitVec 3) (a : BitVec 5) : CpyO := { c := { drO kd ka with a := a }, tc := false }
def endsOf (kd ka : Nat) (a : BitVec 5) : List DrEnd := [⟨true, true, kd, 5, 64, false⟩, ⟨false, false, ka, a, 64, false⟩]
/-- 64 bytes from 0x5000 to 0x8000, from a tile to LS, and to a peer. -/
theorem wit_DriftCommands : ∀ x ∈ [((0 : BitVec 3), (0 : BitVec 3), (4 : BitVec 5)), (1, 7, 2), (7, 0, 4)],
    mT.syncWait mT.cur (syncOf (.cpy plain y0 (cpyOf x.1 x.2.1 x.2.2))) = some mT ∧
    ∃ t, mT.accepts t (.cpy plain y0 (cpyOf x.1 x.2.1 x.2.2)) := by
  have h : ∀ x ∈ [((0 : BitVec 3), (0 : BitVec 3), (4 : BitVec 5)), (1, 7, 2), (7, 0, 4)],
      x.1.toNat ∈ [0, 1, 2, 3, 4, 7] ∧ x.2.1.toNat ∈ [0, 1, 2, 3, 4, 7] ∧ mT.feature 9 = true ∧
      endsIn (cvChecks (.cpy plain y0 (cpyOf x.1 x.2.1 x.2.2)) (cpyOf x.1 x.2.1 x.2.2).c mT) () mT = true ∧
      endsIn (drRanges (cpyOf x.1 x.2.1 x.2.2).c (endsOf x.1.toNat x.2.1.toNat x.2.2) mT) () mT = true ∧
      looks (drJob .cpy (cpyOf x.1 x.2.1 x.2.2).c y0) mT (fun j => taken mT (mT.withEnds { j with
        len := 64, kk := 64, tc := false, tilec := x.2.1 = 7 } false (endsOf x.1.toNat x.2.1.toNat x.2.2))) = true := by decide +kernel
  intro x hx
  obtain ⟨h1, h2, h3, h4, h5, h6⟩ := h x hx
  obtain ⟨j, h7, h8⟩ := looks_of h6
  obtain ⟨t, h9⟩ := takes_of rfl (by decide +kernel) rfl h8
  exact ⟨rfl, t, j, h1, h2, fun _ => h3, fun hc => absurd rfl hc, ends_of h4, ends_of h5, h7, h9⟩
/-- A fill, a queue append, a discard, a box. -/
def fillO : FillO := { c := drO 0 0, pw := 0, tc := false }
theorem wit_DriftCommands_fill : ∃ t, mT.accepts t (.fill plain y0 fillO) := by
  obtain ⟨j, h1, h2⟩ := looks_of (x := drJob .fill fillO.c y0) (s := mT) (p := fun j => taken mT (mT.withEnds { j with
    len := 64, tc := false, pat := 0x5000, pw := 1 } false [⟨true, true, 0, 5, 64, false⟩])) (by decide +kernel)
  obtain ⟨t, h⟩ := takes_of rfl (by decide +kernel) rfl h2
  exact ⟨t, j, by decide, by decide, by decide +kernel, by decide +kernel, ends_of (by decide +kernel), h1, h⟩
def queueO : CpyqO := { c := drO 0 0, qr := 8 }
def mQr : State := with_ fun c => { c with s := c.s ++ [(8, 0x4000000007)] }
theorem wit_DriftCommands_queue : ∃ t, mQr.accepts t (.cpyq plain y0 queueO) := by
  obtain ⟨j, h1, h2⟩ := looks_of (x := drJob .cpyq queueO.c y0) (s := mQr) (p := fun j =>
    let j' := mQr.withEnds { j with len := 64, kk := 64, qn := 7, img := 0x40, tilec := false } false (endsOf 0 0 4)
    taken mQr { j' with rng := j'.rng ++ [⟨lsKey j'.core j'.img, 64, false⟩] }) (by decide +kernel)
  obtain ⟨t, h⟩ := takes_of rfl (by decide +kernel) rfl h2
  exact ⟨t, j, rfl, by decide, ends_of (by decide +kernel), ends_of (by decide +kernel), h1, h⟩
def mPh : State := with_ fun c => { c with ph := true, s := [(4, 0x40000), (1, 65536)] }
theorem wit_DriftCommands_disc : ∃ t, mPh.accepts t (.disc plain y0 (drO 0 0)) := by
  obtain ⟨j, h1, h2⟩ := looks_of (x := drJob .disc (drO 0 0) y0) (s := mPh) (p := fun j => taken mPh { j with
    d := .gv (mPh.me.reg 4), len := (mPh.me.reg 1).toNat })
    (by decide +kernel)
  obtain ⟨t, h⟩ := takes_of rfl (by decide +kernel) rfl h2
  exact ⟨t, j, by decide, by decide, rfl, by decide, by decide, ends_of (by decide +kernel), ends_of (by decide +kernel), h1, h⟩
def boxO : CpytO := { c := { drO 1 0 with a := 1, b := 3 }, tc := false, dir := false, bx0m1 := 0, bx1m1 := 0 }
def boxPasses (x : Tensor) (u : State) : Bool :=
  decide (u.cur = mTensor.cur) && boxFault (.cpyt plain y0 boxO) x boxO == none &&
  decide (boxBytes 0 x.etype 1 1 = 4) && endsIn (drRanges boxO.c [⟨true, true, 1, 5, 4, false⟩] u) () u && u.me.direct &&
  decide ((u.jobsOn (u.cur / 4)).length < 8) && decide ((u.task u.me.task).launch = none) &&
  looks (drJob .cpyt boxO.c y0) u fun j => taken u (u.withEnds { j with
    len := 4, tc := false, tid := 0x40, dir := false, bx0 := 1, bx1 := 1, et := x.etype,
    pat := BitVec.ofNat 64 (cmdOf (.cpyt plain y0 boxO)),
    coords := ((List.range 5).filter fun k => 3 + k < 32).map fun k => (u.me.reg (3 + BitVec.ofNat 5 k)).toNat,
    pre := [BitVec.ofNat 64 (dw0 (.cpyt plain y0 boxO))] } false [⟨true, true, 1, 5, 4, false⟩])
theorem wit_DriftCommands_box : ∃ t, mTensor.accepts t (.cpyt plain y0 boxO) := by
  have h : (match tensorM 0x40 mTensor with | .ok (x, u) => boxPasses x u | .error _ => false) = true := by decide +kernel
  split at h
  · next x u hx =>
    simp only [boxPasses, Bool.and_eq_true, decide_eq_true_eq, beq_iff_eq] at h
    obtain ⟨⟨⟨⟨⟨⟨⟨h1, h2⟩, h3⟩, h4⟩, h5⟩, h6⟩, h7⟩, h8⟩ := h
    obtain ⟨j, h9, h10⟩ := looks_of h8
    obtain ⟨t, h11⟩ := takes_of h5 h6 h7 h10
    have hv : (mTensor.me.reg boxO.c.a).toNat = 0x40 := by decide +kernel
    refine ⟨t, j, x, u, by decide, by decide, by decide, ?_⟩
    rw [hv]
    refine ⟨by decide, hx, h1, fun hc => absurd hc (by decide), h2, ?_⟩
    have hb : boxBytes boxO.c.cv.toNat x.etype (boxO.bx0m1.toNat + 1) (boxO.bx1m1.toNat + 1) = 4 := h3
    dsimp only
    rw [hb]
    exact ⟨ends_of h4, h9, h11⟩
  · cases h
/-- `cpym` of h2 by the only core of its gang, with XS: no receiver is left, and the job is accepted with no landing. -/
def mG : State := { mT with tasks := [(0, { Task.empty with st := .running, gang := some (1, 0, 1) })],
                            gangs := [(1, { gang0 with cores := [0], tasks := [0] })] }
def cpymO : CpymO := { c := { drO 1 4 with a := 2, d := 1, b := 0 }, rds := 1, rsi := 0, xs := true }
theorem wit_DriftCommands_multicast : ∃ t, mG.accepts t (.cpym plain y0 cpymO) ∧ mG.multicasts y0 cpymO t := by
  obtain ⟨j, h1, h2⟩ := looks_of (x := drJob .cpym cpymO.c y0) (s := mG) (p := fun j => (mG.accept { j with
    a := .tile (mG.me.hreg 2), len := 0, rsi := 0, rds := 1, dstLs := 0x40, land := [],
    rng := ⟨lsKey 0 0x40, 4, true⟩ :: mG.tileRng 2 false }).toBool) (by decide +kernel)
  obtain ⟨t, h⟩ := ok_of h2
  have hr : mG.receivers mG.me.task (mG.cur / 4) cpymO.xs = [] := by decide +kernel
  have w : mG.multicasts y0 cpymO t := ⟨2, j, rfl, rfl, by decide, by decide +kernel, rfl, by decide +kernel, ends_of (by decide +kernel),
    ends_of (by decide +kernel), by decide +kernel, rfl, (by rw [hr]; intro r h; cases h), by decide +kernel, ends_of (by decide +kernel),
    ends_of (by decide +kernel), h1, by decide +kernel, rfl, h⟩
  exact ⟨t, w, w⟩
theorem test_cpy : after (exec (.cpy plain y0 { c := drO 0 0, tc := false }) mT) (fun t => t.jobs.length == 1 &&
    (t.job 1).d == .gv 0x8000 && (t.job 1).a == .gv 0x5000 && (t.job 1).len == 0x40 && (t.job 1).st == .accepted) = true := by
  decide +kernel
theorem wit_MaskedFeatures : m0.me.passed = none ∧ (({ m0 with mgmt := { m0.mgmt with faccept := 1 } } : State).feature 9) = false := by
  decide
/-- A tensor of e4m3, 2-bit and float operands of `mma`, and a leaf of host memory, with everything masked but bit 0. -/
def masked (s : State) : State := { s with mgmt := { s.mgmt with faccept := 1 } }
def mMask : State := masked (bytes mTensor 0x2003 [8, 16])
def mHost : State := masked (bytes m0 0x200000 [0x0F, 0, 0, 0, 0, 0, 0, 0x80])
theorem wit_MaskedFeatures_forms :
    (match tensorM 0x40 mMask with | .ok (x, u) => u.mgmt = mMask.mgmt && x.etype == 8 | .error _ => false) = true ∧
    (let p : BitVec 8 := 0x30; p.getLsbD 3 = false ∧ fTy p < 12 ∧ plFloat (fTy p) = false ∧ p.toNat % 8 < 5 ∧ p.toNat % 8 = 0) ∧
    (let p : BitVec 8 := 0x83; p.getLsbD 3 = false ∧ fTy p < 12 ∧ plFloat (fTy p) = true ∧ p.toNat % 8 < 5 ∧ fTy p = 8) := by
  decide +kernel
theorem wit_MaskedFeatures_host : let e := Mem.readN mHost.mem 0x200000 8
    mHost.feature 8 = false ∧ mHost.granted 0 0x200000 256 = true ∧ bit e 0 = true ∧ entBad e 16 = false ∧ bit e 1 = true ∧
    bit e 63 = true ∧ bits e 7 6 ≠ 1 := by decide +kernel
theorem test_masked : gives (.mma3 plain y0 mma30) { m0 with mgmt := { m0.mgmt with faccept := 1 } } (fun c => c.tcause == 0x359 &&
    c.tval == 3) = true := by decide +kernel

/-! Tiles, streams, rules and spawns. -/

/-- Partition 0 may hold all eight pages of core 0. -/
def mQ : State := { mT with quotas := [(0, ⟨0, 8⟩)] }
/-- A page may be granted; h1 is the task's own, h2 is committed, and a stale h3. -/
theorem wit_TileInstructions : (endsIn (immZ false 4095 mQ) (4095 : Word) mQ = true ∧ (1 : Nat) ≤ (mQ.quota 0 0).c ∧
      (mQ.joinFifo 0 0 1).1.mayGrant (mQ.joinFifo 0 0 1).2 = true ∧ mQ.me.stall = none) ∧
    (endsIn (ownTile (mT.me.hreg 1) true mT) 1 mT = true ∧ endsIn (ordered (mT.tileRng 1 true) mT) () mT = true ∧ mT.me.direct = true) ∧
    (mT.tileOf (mT.me.hreg 2) = some 2 ∧ reachable 2 0 = true ∧ (mT.tile 2).carry = false ∧ (mT.tile 2).moving = false ∧
      (mT.tile 2).st ≠ .alloc ∧ 1 ≤ (mT.tile 2).rem ∧ endsIn (ordered (mT.tileRng 2 false) mT) () mT = true) ∧
    ((tiled fun c => { c with h := [(3, 0x802)] }).me.hreg 3 ≠ 0 ∧ mT.tileOf 0x802 = none) := by decide +kernel
theorem test_tcmt : after (exec (.tcmt plain { a := 1 }) mT) (fun t => (t.tile 1).st == .committed && (t.tile 1).hold == 1) = true := by
  decide +kernel
theorem test_tabt : after (exec (.tabt plain { a := 1 }) mT) (fun t => (t.tile 1).st == .free && t.tileOf 0x801 == none) = true := by
  decide +kernel
/-- R430: STATE = 2, GEN = 1, DECL = 2. -/
theorem test_tinf : gives (.tinf plain { d := 3, a := 2, sel := 0 }) mT (fun c => c.reg 3 == 0x2000101000002) = true ∧
    gives (.tinf plain { d := 3, a := 3, sel := 0 }) (tiled fun c => { c with h := [(3, 0x802)] }) (fun c => c.reg 3 == 0) = true := by
  decide +kernel
/-- R175: the carry tile of an installed rule. -/
def mCarry : State := mT.modTile 2 fun t => { t with carry := true }
theorem wit_TileInstructions_carry : mCarry.tileOf (mCarry.me.hreg 2) = some 2 ∧ reachable 2 0 = true ∧ (mCarry.tile 2).carry = true ∧
    mCarry.me.passed = none := by decide +kernel
theorem test_tinf_carry : gives (.tinf plain { d := 3, a := 2, sel := 0 }) mCarry (fun c => c.tcause % 256 == 0x45) = true := by
  decide +kernel
theorem test_tcon : after (exec (.tcon plain { a := 2, imm := 1, p := false }) mT) (fun t => (t.tile 2).rem == 1) = true ∧
    gives (.tcon plain { a := 2, imm := 3, p := false }) mT (fun c => c.tcause == 0x530) = true := by decide +kernel
theorem wit_TileAllocation : (List.range (mT.poolPages 0)).any (fun i => !(mT.tilesIn 0).any fun x => x.1 = 0 * 8192 + i) = true ∧
    6 ≤ ((List.range (mT.poolPages 0)).filter fun i => !((mT.tilesIn 0).flatMap fun x => x.2.pmap.take x.2.pg).contains i).length := by
  decide +kernel

/-- A binding of tensor 0x40 for input at 0x6100. -/
def mO : State := bytes (streamed fun c => { c with s := [(1, 0x6100), (2, 0x40)] }) 0x6100 [0x40, 0, 1]
theorem wit_StreamInstructions : mO.feature 6 = true ∧ mO.me.reg 3 = 0 ∧ (mO.me.reg 1).toNat % 32 = 0 ∧ mO.me.reg 1 ≠ 0 ∧
    (match gvLoad (mO.me.reg 1) 32 mO with
     | .ok (b, t) => t.cur = mO.cur && !bindingBad (leNat b) && (bindingOf (leNat b)).any (·.tid == 0x40) &&
         SMap.get? t.me.f 5 == none && (match tensorM 0x40 t with | .ok (x, u) => u.cur = mO.cur && x.isOpen | .error _ => false)
     | .error _ => false) = true ∧
    endsIn (ownTile (mO.me.hreg 1) true mO) 1 mO = true ∧
    (match entryM 0x41 mO with
     | .ok (e, u) => u.cur = mO.cur && decide (e.sliceBytes ≤ (u.tile 1).pg * 2048) && (u.stream 0 0x41).eosx == none &&
         (u.stream 0 0x41).next == 0 && u.holdsFault 0 0x41 0 0x801 == none && u.me.direct
     | .error _ => false) = true ∧
    (mO.stream 0 0x41).eosx = none ∧ mO.me.direct = true := by decide +kernel
/-- The streams that a loader and a storer name, with a slice that the storer holds from the start. -/
def mPu : State := { mO with streams := [(0x40, { Stream.empty with next := 1, slices := [(0, 0x1001)], used := true })] }
def pumpPasses (tid src : Nat) (loader : Bool) : Bool :=
  match tensorM tid mPu with
  | .error _ => false
  | .ok (t, u) => t.isOpen && t.ttab != 0 && (match entryM src u with
    | .error _ => false
    | .ok (e, v) => decide (v.cur = mPu.cur) && t.sliceBytes == e.sliceBytes && v.subsOf 0 loader == [] && v.me.direct &&
        (loader || (let s3 := (v.streamFor 0 tid e).streamFor 0 tid t
          ((s3.stream 0 tid).slices.foldlM (fun (s : State) x => s.holdOr (.storer 256) x.2) { s3 with subs := [(256, {
            loader := false, die := 0, idx := 0, core := 0, part := 0, src := tid, dst := tid, lvl := 0, pg := 1, rds := 1, pos := 0,
            grant := none, retry := none, told := none })] }).toBool)))
theorem wit_StreamInstructions_pump : (mPu.me.reg 2).toNat = 0x40 ∧ pumpPasses 0x40 0x41 true = true ∧ pumpPasses 0x40 0x40 false = true ∧
    bindD.out = true ∧ bindA.out = false := by decide +kernel
theorem test_slput : after (exec (.slput plain { d := 0, a := 3, b := 1, nx := true }) mO) (fun t =>
    SMap.get? (t.stream 0 0x41).slices 0 == some 0x801 && (t.stream 0 0x41).next == 1 && (t.tile 1).st == .committed) = true := by
  decide +kernel
theorem test_sleos : after (exec (.sleos plain { a := 3 }) mO) (fun t => (t.stream 0 0x41).eosx == some 0) = true := by decide +kernel
theorem test_pump : after (exec (.pump plain { a := 3, b := 2, dir := false }) mO) (fun t => (SMap.get? t.subs 0).any fun x =>
    x.loader && x.src == 0x40 && x.dst == 0x41 && x.pg == 1 && x.rds == 1) = true := by decide +kernel
/-- A storer of die 0 and a rule of the running task, both on tensor 0x41 from slice 0, hold the slice. -/
theorem wit_SliceCommits : mO.tileOf 0x801 = some 1 ∧ (mO.tile 1).st = .alloc ∧ (mO.tile 1).hold < 65535 := by decide +kernel

/-- A FAULTED rule in k0 of the running task, from tensor 0x40 to 0x41, at slice 0 with h1 as its result; in k1 one that is armed
and has passed five slices. -/
def rule0 : Rule := ⟨7, 0, 0, 0, 0, .faulted, 0x33, 0, 0x40, 0xFFFF, 0x41, 0, 0, 0, 0x801, 0, 0, 0xFFFF, 0, [], 0, none⟩
def mK : State := { streamed fun c => { c with s := [(3, 3), (4, 5)], k := [(0, rule0), (1, { rule0 with st := .armed, cur := 5 })] } with
  streams := [(0x40, { Stream.empty with next := 1, slices := [(0, 0x1001)], used := true })]
  holds := [(.task 0, 0x801), (.task 0, 0x1001), (.rule (.task 0) 0, 0x1001)] }
theorem wit_RuleInstructions : mK.feature 6 = true ∧ mK.me.direct = true ∧
    endsIn (ruleNamed (.rrev plain ⟨0, false, 0⟩) 0 false 0 mK) (.task 0, 0) mK = true ∧
    endsIn (ruleThere false (.task 0) 0 mK) rule0 mK = true ∧ rule0.tida ≠ 0xFFFF ∧
    SMap.get? (mK.stream (mK.partOf (.task 0)) 0x40).slices rule0.cur = some 0x1001 ∧
    mK.holdsTile (.rule (.task 0) 0) 0x1001 = true ∧
    (substitute (mK.me.hreg 1) rule0.tida (rule0.fslot 0) 0 mK).toBool = true ∧ rule0.rslt ≠ 0 ∧
    (match entryM 0x41 mK with
     | .ok (e, u) => (u.sliceTiles (.task 0) rule0).all (fun h => !u.viewMoving (.tile h)) &&
         u.resultFault (.task 0) rule0 e.sliceBytes == none && u.inputFault (u.inputTiles (u.partOf (.task 0)) rule0) == none &&
         (match ruleStore (.task 0) 0 u with | .ok (_, v) => v.me.direct | .error _ => false)
     | .error _ => false) = true ∧ mK.ruleMoves rule0 = false ∧
    (match ruleStore (.task 0) 0 mK with | .ok (_, v) => v.me.direct | .error _ => false) = true ∧ SMap.get? mK.me.k 2 = none ∧
    (SMap.get? mK.me.k 1).any (fun r => decide ((mK.me.reg 3).toNat < r.cur) && decide (r.cur ≤ (mK.me.reg 4).toNat)) = true := by
  decide +kernel
/-- The slice's tile moves to another pool, and `rskp` waits. -/
def mKm : State := mK.modTile 2 fun t => { t with moving := true }
theorem wit_RuleInstructions_moving : (match entryM 0x41 mKm with
    | .ok (_, u) => (u.sliceTiles (.task 0) rule0).any fun h => u.viewMoving (.tile h)
    | .error _ => false) = true := by decide +kernel
/-- The slot of the rule's result moves, and `rrev` waits. -/
theorem wit_RuleInstructions_ends_moving : (mK.modTile 1 fun t => { t with moving := true }).ruleMoves rule0 = true := by decide +kernel
/-- A keeper's saved image, whose FPC `rres` may write. -/
theorem wit_RuleInstructions_keeper : (with_ fun c => { c with ph := true }).me.ph = true ∧ (4 : Word).toNat % 8 < 5 ∧
    (setKeeperFpc 7 4 { m0 with keepers := [(7, { Keeper.empty with at_ := some 1 })] }).toBool = true := by decide +kernel
/-- R437: the result is committed as slice 0 of 0x41, and CUR is 1. -/
theorem test_rskp : after (exec (.rskp plain ⟨0, false, 0⟩) mK) (fun t => (SMap.get? (t.ctx 0).k 0).any (fun r => r.cur == 1 &&
    r.st == .armed && r.rslt == 0) && SMap.get? (t.stream 0 0x41).slices 0 == some 0x801) = true := by decide +kernel
theorem test_rrev : after (exec (.rrev plain ⟨0, false, 0⟩) mK) (fun t => SMap.get? (t.ctx 0).k 0 == none) = true := by decide +kernel
theorem test_rres : gives (.rres plain { d := 0, a := 0, b := 1, kp := false, ks := 0, sub := 1, fw := false }) mK (fun c =>
    (SMap.get? c.k 0).any fun r => r.st == .armed && r.fcause == 0 && r.sub == 0x801 && r.subOp == 1) = true := by decide +kernel
theorem test_rqry : gives (.rqry plain { d := 3, a := 0, kp := false, ks := 0, inp := true, sel := 0 }) mK (fun c => c.reg 3 == 0x1001) =
    true := by decide +kernel

/-- A descriptor at 0x6400: code 0x10000, group 0xFFFF; its page and its object's have been read. -/
def mD0 : State := bytes (with_ fun c => { c with s := [(1, 0x6400)] }) 0x6400 [0, 0, 1, 0, 0, 0, 0, 0, 0, 0, 0, 0, 0, 0, 0, 0, 0, 0, 0xFF, 0xFF]
def spawner0 : Spawner := { part := 0, die := 0, core := 0, ptb := 0, stamp := 0, launch := none, gang := false, root := false, prio := 0,
                            group := 0, dw := dw0 (.spawn plain y0 { d := 3, a := 1, b := 0, rg := false }) }
def desc0 : List Byte := Mem.readL mD0.mem 0x6400 256
def mD : State := match gvLoad 0x6400 256 mD0 with
  | .ok (_, t) => t.descLook spawner0 0x6400 desc0
  | .error _ => mD0
theorem addRef_cur (s : State) (p i : Nat) (up : Bool) : (s.addRef p i up).cur = s.cur := by
  unfold State.addRef
  split <;> rfl
/-- Some record of die 0 is taken, the model does not say which. -/
theorem wit_Spawns : mD.syncWait mD.cur (some y0) = some mD ∧ mD.me.direct = true ∧ (mD.me.reg 1).toNat % 256 = 0 ∧
    gvLoad (mD.me.reg 1) 256 mD = .ok (desc0, mD) ∧ mD.descLook spawner0 (mD.me.reg 1) desc0 = mD ∧ spawner0 = {
      part := mD.me.part, die := mD.cur / 4 / 144, core := mD.cur / 4, ptb := mD.me.ptb, stamp := mD.me.stamp,
      launch := (mD.task mD.me.task).launch, gang := false, root := false, prio := 0, group := 0,
      dw := dw0 (.spawn plain y0 { d := 3, a := 1, b := 0, rg := false }) } ∧ ∃ s2 t work, mD.create spawner0 (mD.me.reg 1) desc0 = .ok s2 t work ∧ s2.cur = mD.cur ∧
      (pure [] : M (List Work)) s2 = .ok ([], s2) := by
  refine ⟨rfl, rfl, rfl, ends_of (by decide +kernel), by decide +kernel, by decide +kernel, ?_⟩
  obtain ⟨x, hx⟩ := pick_some mD (l := mD.freeRecords 0) (by decide +kernel)
  have hd : mD.descFault spawner0 (mD.me.reg 1) desc0 = none := by decide +kernel
  have hf : mD.findObj 0 (fun o => o.text.toNat = slice desc0 0x00 8) = some obj0 := by decide +kernel
  have hr : mD.recordFree 0 0 = true := by decide +kernel
  have hi : descIns desc0 = [] := by decide +kernel
  obtain ⟨s1, hp, hc⟩ : ∃ s1, mD.records 0 [0] = some ([x], s1) ∧ s1.cur = mD.cur := by
    simp only [State.records, State.record?, hr, if_true, hx]
    exact ⟨_, rfl, rfl⟩
  rw [State.create, hd]
  simp only [spawner0, hf, hi, Option.isSome_none, Bool.false_and, Bool.false_eq_true, if_false, hp, List.foldlM, State.holdInputs, pure,
    bind]
  exact ⟨_, _, _, rfl, by simp only [List.zip, List.zipWith, List.length, List.range, List.range.loop, List.foldl, addRef_cur]; exact hc, rfl⟩

/-! The package, the links and the queues. -/

/-- An image of type 1 for the keys of fuse 0. Whether its signatures verify the model does not say. -/
def image1 : Image := { magic := 0x57465A4C, hver := 1, itype := 1, svn := 3, blen := 0, build := 0, bdig := Config.sha384 [], eks := 3,
                        lks := 0, rsvd := 0, rsvd2 := 0, esig := 0, lsig := 0, body := [] }
theorem wit_SecureBoot (he : ∀ d x, Config.ecdsaVerify 0 d x = true) (hl : ∀ m x, Config.lmsVerify 0 m x = true) :
    State.reset.sec.verify 1 image1 = 0 := by
  have a : (Config.sha384 [] != Config.sha384 []) = false := bne_self_eq_false _
  have b : SMap.getD State.reset.sec.ecdsaFuse image1.eks.toNat 0 = 0 := rfl
  have c : SMap.getD State.reset.sec.lmsFuse image1.lks.toNat 0 = 0 := rfl
  unfold Sec.verify
  simp only [b, c, he, hl]
  simp [image1, State.reset, SMap.getD]
theorem wit_SecureBoot_writes : (0x5254 : Word).toNat % 2 ^ 16 = 0x5254 ∧ (0x5255 : Word).toNat % 2 ^ 16 ≠ 0x5254 ∧
    SMap.get? ({ State.reset with sec := { State.reset.sec with running := [(2, 7, 0)] } } : State).sec.running 2 = some (7, 0) := by
  decide +kernel
/-- R30, R32: with no image in the flash the module stops in stage 15. -/
theorem test_boot : State.reset.rebooted.stage = 15 := by decide +kernel

/-- The module in stage 3, with its blocks at 0x700000: queue 1 has 64 packets at 0x600000, belongs to partition 0 and is enabled; an
image of type 2 may run. -/
def mP : State := bytes (bytes { m0 with mgmt := { m0.mgmt with qtbase := 0x700000, bootstat := 0x300000000 }
                                         freeCtr := 0 }
  0x700108 [0, 0, 0x60, 0, 0, 0, 0, 0, 6, 0, 0xFF]) 0x700188 [1]
/-- Before the feature lock, with the block of queue 0. -/
def mU (stage : Nat) : State := bytes { mP with mgmt := { mP.mgmt with flock := false, dtset := false, bootstat := word (stage * 2 ^ 32) } }
  0x700008 [0, 0, 0x60, 0, 0, 0, 0, 0, 6]
theorem wit_FeatureLock : (mU 3).MemWf ∧ bit (1 : Word).toNat 0 = true ∧ (mU 3).mgmt.flock = false ∧ (mU 3).mgmt.epoch ≠ 0xFFFFFF ∧
    (mU 3).stage = 3 ∧ (mU 4).stage = 4 ∧ (mU 3).qcbField 0 0x13 13 = 0 ∧ (mU 3).qcbField 0 0x20 96 = 0 ∧
    (mU 3).qcbField 0 0x98 104 = 0 ∧ (mU 3).qcbField 0 0x10 1 = 6 ∧ (mU 3).qcbField 0 0x08 8 % 4096 = 0 ∧
    bit ((mU 3).qcbField 0 0x08 8) 63 = false ∧ mP.mgmt.flock = true := by
  refine ⟨Mem.wf_writeL _ _ (Mem.wf_writeL _ _ (Mem.wf_writeL _ _ m0_wf)), ?_⟩
  decide +kernel
theorem test_flock : after (exec (.flock 1) (mU 3)) (fun t => t.mgmt.flock && t.qstate 0 == 1 && t.mgmt.faccept == 0x1FFF &&
    t.mgmt.epoch == 1) = true := by decide +kernel

/-- Throttled, with both limits met for ten seconds; the host's memory at 0x1000000000 is HBM from 0x5000, of which 0x6000 on is
granted to nobody. -/
def mE : State := { mP with power := { mP.power with throttled := true, calm := some 0 }
                            mgmt := { mP.mgmt with dtime := 10000000, attst := 1, attaddr := 0x8000 }
                            hdm := [(0x1000000000, 0x2000, 0x5000)]
                            grants := [⟨0, 0x6000, 0xFE, 0xFF⟩, ⟨0x6000, 0x1000, 0, 0xFF⟩] }
def mSplit : State := { m0 with bclk := 2 ^ 20, launches := [(1, ⟨0, 0, 0, 1, 0, 1, none, 16, 20⟩)]
                                tasks := [(0, { Task.empty with st := .running, launch := some 1 })] }
theorem wit_ModuleEvents : mP.power.throttled = false ∧ (1500 ≤ 1500 ∨ 105 ≤ (0 : Nat)) ∧ (1499 : Nat) < 1500 ∧ (104 : Nat) < 105 ∧
    mE.power.throttled = true ∧ mE.power.calm = some 0 ∧ 0 + 10000000 ≤ mE.mgmt.dtime.toNat ∧ mE.power.cxlUp = true ∧
    mE.decoded 0x0FFFFFFFF8 = none ∧ mE.decoded 0x1000000FF8 = some 0x5FF8 ∧ mE.decoded 0x1000001000 = some 0x6000 ∧
    inHbm 0x5FF8 = true ∧ inHbm 0x6000 = true ∧ mE.hostBarred 0x5FF8 = false ∧ mE.hostBarred 0x6000 = true ∧
    mE.stage ≠ 15 ∧ mE.poison = [] ∧
    (∀ i ∈ List.range 8, mE.decoded (0x1000000FF8 + i) = some (0x5FF8 + i) ∧ mE.hostBarred (0x5FF8 + i) = false ∧
      mE.decoded (0x1000001000 + i) = some (0x6000 + i)) ∧ mP.mgmt.attst ≠ 1 ∧ mE.mgmt.attst = 1 ∧ mE.mgmt.attaddr.toNat % 4096 = 0 ∧ inHbm mE.mgmt.attaddr.toNat = true ∧
    mE.mgmt.leaf < 2 ^ 23 ∧ (mU 3).mgmt.flock = false ∧ mP.mgmt.flock = true ∧ mP.stage = 3 ∧ mP.qstate 0 = 0 ∧
    (mU 3).qcbBad 0 = none ∧ (mU 3).qstate 0 = 0 ∧ (mU 3).qcbField 0 0x10 1 = 6 ∧ ((mU 3).resetQueue 0).toBool = true ∧
    mSplit.limitsOf 0 = some (16, 20) ∧ mSplit.scratchOf 0 = 16 ∧ (SMap.getD mSplit.splits 0 0 + 1) * 2 ^ 20 ≤ mSplit.bclk ∧
    inHbm 0x5000 = true ∧ 0x5000 / 2 ^ 37 = 0 := by decide +kernel
/-- R244: a gain below a sixty-fourth gives the scratchpad a MiB. -/
theorem test_split : after (exec (.splitAdjust 0 0 0 64) mSplit) (fun t => t.scratchOf 0 == 17) = true ∧
    after (exec (.splitAdjust 0 4 0 64) mSplit) (fun t => t.scratchOf 0 == 16) = true := by decide +kernel
theorem test_host_read : after (exec (.hostCxlMemAccess false 0x1000001000 0) mE) (fun t => t.hostOut == [some (BitVec.allOnes 64)]) = true ∧
    after (exec (.hostCxlMemAccess true 0x1000000FF8 0x0102) mE) (fun t => Mem.readL t.mem 0x5FF8 2 == [2, 1]) = true := by decide +kernel
theorem test_halt : after (exec (.thermalShutdown 115) m0) (fun t => t.power.halted) = true ∧
    after (exec (.thermalShutdown 114) m0) (fun t => !t.power.halted) = true := by decide +kernel

/-- Link 0 up; a write of eight bytes to 0x5000 of partition 0 from node 5, the first of its pair. -/
def up0 : Link := { Link.empty with up := true }
def pkt0 : Pkt := ⟨5, 0, 0, 1, 0, 1, 0x5000, 0, [1, 2, 3, 4, 5, 6, 7, 8]⟩
def mLink : State := { mP with net := { mP.net with links := [(0, up0), (1, Link.empty), (2, { up0 with retries := 8 })]
                                                    route := [(5, [0, 2]), (6, [1])] } }
def flit0 : Flit := ⟨0, leBytes 16 (5 * 2 ^ 52) ++ List.replicate 224 0, true⟩
theorem wit_LinkEvents : (mLink.link 1).up = false ∧ (mLink.link 0).up = true ∧ (mLink.link 0).retries < 8 ∧ 8 ≤ (mLink.link 2).retries ∧
    bits flit0.fhdr.toNat 15 14 = 0 ∧ bits flit0.fhdr.toNat 13 12 = 0 ∧ bits flit0.fhdr.toNat 11 0 = (mLink.link 0).rxSeq.toNat ∧
    (mLink.link 0).pay = [] ∧ flit0.pay.length = 240 ∧ bits (slice flit0.pay 0 16) 63 52 < 224 ∧ mLink.pairDue 6 = true ∧
    mLink.net.source = false ∧ mLink.linksRun = true ∧ State.reset.rebooted.linksRun = false ∧
    bits ({ flit0 with fhdr := 0x8000 } : Flit).fhdr.toNat 15 14 = 2 := by decide +kernel
theorem test_link_retry : after (exec (.flitReceive 0 { flit0 with crcOk := false }) mLink) (fun t => (t.link 0).retries == 1) = true ∧
    after (exec (.flitReceive 2 { flit0 with crcOk := false }) mLink) (fun t => !(t.link 2).up) = true := by decide +kernel
/-- R26: 5,000 ns at 200 millionths more; R17: a packet of nine bytes leaves as one flit, with the first link-level sequence. -/
theorem test_time_passes : after (step { mLink with net := { mLink.net with ppm := 200 }, agenda := [.pass 1 5000] }) (fun t =>
    t.mgmt.dtime == 5001 && t.net.frac == 0 && t.bclk == 1) = true := by decide +kernel
theorem test_send : (mLink.sendPkt { pkt0 with src := 0, dst := 5 }).net.wire.map (fun x => (x.1, x.2.fhdr, x.2.pay.length)) = [(0, 0, 240)] ∧
    ((mLink.sendPkt { pkt0 with src := 0, dst := 5 }).link 0).txSeq = 1 := by decide +kernel
theorem wit_PacketEvents : mLink.linksRun = true ∧ ({ pkt0 with dst := 6 } : Pkt).dst ≠ mLink.net.node ∧ mLink.slotMoving 1 0 = false ∧
    2 ≤ ({ pkt0 with pscope := 15 } : Pkt).pscope.toNat ∧ pkt0.dst = mLink.net.node ∧ mLink.pktMoving pkt0 = false ∧ mLink.pktMoving { pkt0 with ptype := 4 } = false ∧ (pkt0.psn - (mLink.rxOf 5).mark).toNat = 1 ∧ pkt0.pscope.toNat < 2 ∧
    (mLink.gvWrite 0 (pkt0.paddr.setWidth 64) (pktData pkt0)).toBool = true ∧
    (mLink.gvWrite 0 0x8000000000 (pktData pkt0)).toBool = false ∧
    (mLink.pktRead { pkt0 with ptype := 2 } 1).toBool = true ∧ (mLink.pktRead { pkt0 with ptype := 4 } 8).toBool = true ∧
    (mLink.tx 5).unacked.length < 4096 ∧ ((mLink.setRx 5 ⟨0xFFFFFFFF, [pkt0]⟩).rxOf 5).held.find?
      (fun y => y.psn = ((mLink.setRx 5 ⟨0xFFFFFFFF, [pkt0]⟩).rxOf 5).mark + 1) = some pkt0 ∧
    mLink.qstate 1 ≠ 0 ∧ 0 ∈ mLink.owners 1 ∧ mLink.qcbField 1 0 8 < mLink.qcbField 1 0x80 8 + 2 ^ mLink.qcbField 1 0x10 1 ∧
    (((mLink.setQcb 1 0 8 1).publish 1 0 0 (fit 56 [])).toBool = true) := by decide +kernel
theorem test_packet_write : after (exec (.write pkt0) mLink) (fun t => Mem.readL t.mem 0x5000 1 == [1] && (t.rxOf 5).mark == 0) = true := by
  decide +kernel


/-- A packet of R50: its header with LAP 1 and index 0, its partition, and its payload. -/
def qword (ty chk : Nat) (l : List Nat) : List Word :=
  (word (ty * 2 ^ 56 + chk * 2 ^ 40 + 2 ^ 39) :: 0 :: (l ++ List.replicate (6 - l.length) 0).map word)
/-- Queue 1 has taken it. -/
def mX (w : List Word) : State := mP.setEng 1 { QEng.empty with taken := some w }
/-- It lies in the ring of queue 1. -/
def mRing (w : List Word) : State := bytes mP 0x600000 (w.flatMap fun x => leBytes 8 x.toNat)
def lapOf (w : List Word) : Nat := b2n (bit (pk w 0 8) 39)
/-- One packet that is taken, one of a type that R50 does not have, and an empty place. -/
theorem wit_QueuePackets_take : (mRing (qword 2 0 [])).qstate 1 = 1 ∧ ((mRing (qword 2 0 [])).eng 1).taken = none ∧
    (∀ x ∈ [(qword 2 0 [], none), (qword 11 0 [], some 0x5E)], (match (mRing x.1).ringRead 1 0 with
      | .ok (t, b) => b = x.1.flatMap (fun y => leBytes 8 y.toNat) && t.packetFault 1 0 x.1 == x.2
      | .error _ => false) = true) ∧
    lapOf (qword 2 0 []) = (0 / 2 ^ 6 + 1) % 2 ∧ lapOf [0] ≠ (0 / 2 ^ 6 + 1) % 2 := by decide +kernel
/-- The fields of the packets that act, each with its arguments. -/
def copyW : List Word := qword 2 0 [0x8000, 0x5000, 64]
def sigW (k : Nat) : List Word := qword 3 0 [0x9000, k, 0]
def semW (core : Nat) : List Word := qword 3 0 [0, 2 + 5 * 2 ^ 8 + core * 2 ^ 16 + 9 * 2 ^ 32]
def waitW : List Word := qword 4 0 [0x9000]
def unlW (m : Nat) : List Word := qword 6 0 [0x10000, m]
def migW : List Word := qword 7 0 [0, 0x40000000, 2]
theorem wit_QueuePackets : (∀ w ∈ [copyW, sigW 0, sigW 1, semW 575, semW 576, waitW, unlW 0, unlW 1, migW, qword 5 0 [], qword 10 0 [],
      qword 1 0 []], ((mX w).eng 1).taken = some w ∧ (mX w).qstate 1 = 1 ∧ pchk w = 0) ∧
    (∀ w ∈ [(copyW, 2), (sigW 0, 3), (sigW 1, 3), (semW 11, 3), (waitW, 4), (qword 5 0 [], 5), (unlW 0, 6), (migW, 7), (qword 10 0 [], 10)],
      pkType w.1 = w.2) ∧
    mP.clustersOf 0 = [0] ∧ pay copyW 16 8 = 64 ∧ (mP.jobsOn 0).length < 8 ∧
    ((mX copyW).accept { Job.empty with
      core := 0, part := 0, op := .copy, d := .gv (word (pay copyW 0 8)), a := .gv (word (pay copyW 8 8)), len := 64,
      fut := if compl copyW = 0 then none else some (compl copyW), qn := 1, img := (mX copyW).index 1,
      stamp := if bit (pk copyW 0 8) 48 then pkTs copyW else 0 }).toBool = true ∧
    ((mX (sigW 0)).futSet 0 0x9000 false 0).toBool = true ∧ ((mX (sigW 1)).futSet 0 0x9000 true 0).toBool = true ∧
    pay (sigW 0) 8 1 = 0 ∧ pay (sigW 1) 8 1 = 1 ∧ pay (semW 11) 8 1 = 2 ∧ pay (semW 11) 10 2 = 11 ∧ mP.owns 0 (11 / 12) = true ∧
    mP.owns 0 (12 / 12) = false ∧ (∀ v ∈ [0, 1, 2], (match (bytes (mX waitW) 0x9000 [v]).futKey 0 (word (pay waitW 0 8)) with
      | .ok (k, _) => Mem.readN (bytes (mX waitW) 0x9000 [v]).mem k 8 % 4 == v.toNat
      | .error _ => false) = true) ∧ ((mX (qword 5 0 [])).eng 1).open_ = [] ∧
    mP.findObj 0 (fun o => o.text.toNat = pay (unlW 0) 0 8) = some obj0 ∧ ({ mP with ctxs := [] } : State).referring 0 obj0 = [] ∧
    mP.lref 0 0 = 0 ∧ gvForm 0 = true ∧ (match mP.walkFrom 0 0 [(39, 13), (30, 9), (21, 9), (16, 5)] (mP.part 0).ptroot with
      | .ok l => bits l.ent 7 6 == 0 && l.size == 30 && pay migW 16 1 == 2 && pay migW 8 8 % 2 ^ 30 == 0 && !bit l.ent 63
      | .error _ => false) = true ∧ mP.granted 0 0x40000000 (2 ^ 30) = true := by decide +kernel
/-- A LAUNCH whose partition is not that of its payload, and one whose root is on its way. -/
theorem wit_QueuePackets_launch : pkType (qword 1 0 [0, 0, 2 ^ 24]) = 1 ∧ ((mX (qword 1 0 [0, 0, 2 ^ 24])).eng 1).root = none ∧
    ((mX (qword 1 0 [0, 0, 2 ^ 24])).launchRoot 1 (qword 1 0 [0, 0, 2 ^ 24])).2.toBool = false ∧ (mP.task 0).st ≠ .waiting := by decide +kernel
theorem wit_QueuePackets_more : partUnknown (qword 2 0 []) = false ∧ (mX (sigW 0)).sigMoving (sigW 0) = false ∧
    (mX (sigW 1)).sigMoving (sigW 1) = false ∧ (∀ v ∈ [0, 1, 2], (bytes (mX waitW) 0x9000 [v]).sigMoving waitW = false ∧
      (bytes (mX waitW) 0x9000 [v]).poisoned 0x9000 8 = false) ∧ mP.objsMoving 0 = false ∧
    mP.findObj 0 (fun o => o.text.toNat = 0x90000) = none ∧
    (let r := ({ mX (unlW 0) with ctxs := [] } : State).readObjs 0 (some 0)
     r.referring 0 obj0 = [] ∧ r.lref 0 0 = 0 ∧ (bytes r 0x300004 [1]).lref 0 0 = 1) ∧
    (let s := bytes ((mX (qword 1 0 [])).setEng 1 { QEng.empty with taken := some (qword 1 0 []), root := some (0, 0) }) 0x700188 [0]
     s.qstate 1 = 0 ∧ (s.eng 1).taken = some (qword 1 0 []) ∧ (s.eng 1).root = some (0, 0)) ∧
    (((mX (qword 1 0 [])).setEng 1 { QEng.empty with taken := some (qword 1 0 []), root := some (0, 0) }).eng 1).root =
      some (0, 0) := by decide +kernel
theorem test_copy : after (exec (.copy 1) (mX copyW)) (fun t => t.index 1 == 1 && (t.eng 1).open_ == [0] && t.jobs.length == 1) = true := by
  decide +kernel
theorem test_signal : after (exec (.signalResolve 1) (mX (sigW 0))) (fun t => Mem.readN t.mem 0x9000 8 == 1 && t.index 1 == 1) = true ∧
    after (exec (.signalSemaphore 1) (mX (semW 11))) (fun t => t.sem 11 5 == 9) = true := by decide +kernel
theorem test_void : after (exec (.void 1) (mX (qword 10 0 []))) (fun t => t.index 1 == 1 && (t.eng 1).taken == none) = true := by
  decide +kernel
/-- A migration of the page at 0x10000 to 0x40000, with its leaf at 0x200000. -/
def mig0 : Mig := ⟨0, 0x200000, 0x10000, 0x40000, 0x10000, 0, 1, 0⟩
theorem wit_MigrationEnd : ({ mP with migs := [(7, mig0)] } : State).MemWf ∧ mig0.new % 256 = 0 ∧ mig0.new < 2 ^ 56 ∧
    mig0.old + mig0.size ≤ mig0.new ∧ mig0.new + mig0.size ≤ mig0.leaf := by
  refine ⟨Mem.wf_writeL _ _ (Mem.wf_writeL _ _ m0_wf), ?_⟩
  decide

/-! PART and MONCFG packets, which queue 0 takes. -/

def partW (op p n a b : Nat) : List Word := qword 8 0xFF [op + p * 2 ^ 8 + n * 2 ^ 16, a, b]
def mY (w : List Word) : State := bytes ({ mP with ctxs := [(0, ctx0)] }.setEng 0 { QEng.empty with taken := some w }) 0x700088 [1]
/-- A descriptor at 0x8000 whose CPOOL is the least that R131 allows. -/
def desc1 (s : State) : State := bytes s 0x805C [64]
theorem wit_PartitionOperations : (∀ w ∈ [partW 1 7 0 (2 ^ 47) 0x8000, partW 4 0 255 0 0, partW 5 0 0 (8 * 2 ^ 32) 0],
      ((mY w).eng 0).taken = some w ∧ (mY w).qstate 0 = 1 ∧ pkType w = 8) ∧
    (let w := partW 1 7 0 (2 ^ 47) 0x8000
     pay w 0 1 = 1 ∧ pid w = 7 ∧ ((mY w).part 7).st = .unused ∧ argA w = 2 ^ 47 ∧ (mY w).ownerOf 47 = none ∧
      (desc1 (mY w)).descriptorBad (argB w) = false) ∧
    (mP.part 0).st ≠ .unused ∧ mP.active 0 = true ∧ mP.active 7 = false ∧ mP.firingsOf 0 = [] ∧ pid (partW 2 0 0 0 0) = 0 ∧
    (let w := partW 3 0 47 0 0
     arg16 w = 47 ∧ mP.moves = [] ∧ mP.ownerOf 47 = none ∧ pid (partW 3 0xFF 0 0 0) = 0xFF ∧
      ({ desc1 mP with parts := [(0, { mP.part 0 with desc := 0x8000 })] } : State).descriptorBad 0x8000 = false) ∧
    mP.ownerOf 0 = some 0 ∧ (mP.clustersOf 0).length ≤ 1 ∧ arg16 (partW 4 0 255 0 0) = 255 ∧ arg16 (partW 4 0 256 0 0) = 256 ∧
    (let w := partW 5 0 0 (8 * 2 ^ 32 + 8) 0
     bits (argA w) 31 0 = 8 ∧ bits (argA w) 63 32 = 8 ∧ pooled.poolPages 0 = 8) ∧
    (let w := partW 6 0 0xFF 0 (2 ^ 30)
     arg16 w = 0xFF ∧ argA w % 2 ^ 30 = 0 ∧ argB w = 2 ^ 30 ∧ inHbm (argA w) = true ∧ argA w % 2 ^ 37 + argB w ≤ stackBytes) ∧
    (arg16 (partW 7 0 4095 0xFF 0) = 4095 ∧ mP.qstate 4095 = 0 ∧ argA (partW 7 0 4095 0xFF 0) = 0xFF) ∧
    (mP.qcbBad 1 = none ∧ (mP.qcbBad 2).isSome = true ∧ mP.qstate 2 = 0 ∧ (bytes mP 0x700188 [0]).qstate 1 = 0 ∧
      ((bytes mP 0x700188 [0]).resetQueue 1).toBool = true) := by decide +kernel
/-- Partition 0 owns clusters 0 and 1; cluster 0, with one context and no firing, is given to partition 7; the move ends when neither a
context nor a tile of partition 0 is left there. -/
def mOwned : State := { desc1 mP with clusters := [(0, 1), (1, 1)]
                                      parts := [(0, { mP.part 0 with desc := 0x8000 }), (7, { mP.part 0 with desc := 0x8000 })] }
theorem wit_PartitionOperations_owned : mOwned.active 7 = true ∧ mOwned.descriptorBad (mOwned.part 7).desc = false ∧
    mOwned.ownerOf 0 = some 0 ∧ ((mOwned.clustersOf 0).filter fun k => !mOwned.leaving 0 k).length = 2 ∧
    (((coresOf 0).flatMap slotsOf).filter fun k => (mOwned.ctx k).slot ≠ .free ∧ (mOwned.ctx k).part = 0) = [0] ∧
    1 ≤ (mOwned.freeSaves 0).length ∧ mOwned.rulesOf (mOwned.ctx 0).ruleOwner = [] ∧ mOwned.ringMoving 2 = false ∧
    (let s : State := { mOwned with ctxs := [], moves := [⟨0, 0, 7, [], [], 0, 0, 0⟩] }
     (∀ k ∈ (coresOf 0).flatMap slotsOf, (s.ctx k).slot = .free) ∧ s.clusterTiles 0 0 = []) := by decide +kernel
/-- DBGSTOP of the task in slot 0, which is chosen a save slot; DBGRES of a held image; DBGBRK. -/
theorem wit_PartitionOperations_debug : (mP.ctx 0).slot ≠ .free ∧ (mP.ctx 0).keeper = none ∧ (mP.task 0).gang = none ∧
    ((mP.instances 0).filterMap mP.slotOfTask).length ≤ (mP.freeSaves 0).length ∧
    arg16 (partW 9 0 576 0 0) = 576 ∧ SMap.get? mP.saves (saveKey 0 3) = none ∧
    (let s : State := { mP with saves := [(saveKey 0 3, ⟨0, some 9, none, true, [], [], [], [], 0, [], [], false⟩)]
                                tasks := [(9, { Task.empty with st := .held })] }
     SMap.get? s.saves (saveKey 0 3) = some ⟨0, some 9, none, true, [], [], [], [], 0, [], [], false⟩ ∧ s.slotOfTask 9 = none ∧ (s.task 9).gang = none ∧
       (s.task 9).live? = true) ∧ arg16 (partW 11 0 3 0x5000 0) = 3 ∧ argA (partW 11 0 3 0x5000 0) % 8 = 0 := by decide +kernel
theorem wit_PartitionOperations_stop : ∃ u, mP.stopTask 0 .held true = some u := by
  have hi : (mP.instances 0).filterMap mP.slotOfTask = [0] := by decide +kernel
  have hf : mP.freeSaves 0 ≠ [] := by decide +kernel
  have hg : (!mP.movable [0]) = false := by decide +kernel
  have hp : (mP.ctx 0).part = 0 := by decide +kernel
  obtain ⟨x, hx⟩ := pick_some mP hf
  refine ⟨({ mP with freeCtr := mP.freeCtr + 1 } : State).saveCtx 0 x .held true, ?_⟩
  rw [State.stopTask, hi]
  simp only [List.foldlM, hg, hp, hx, Bool.false_eq_true, if_false]
  rfl
def monW : List Word := qword 9 0xFF [3 + 31 * 2 ^ 8 + 6 * 2 ^ 16 + 2 * 2 ^ 24, 1000, 0x8000]
def mon0 : Monitor := { Monitor.empty with on := true, src := 5, mode := 2, sel := 0, win := 1000, out := 0x8000 }
def mMon : State := { mP with bclk := 1024, monitors := [(0, mon0), (1, { mon0 with src := 4, sel := 1 })]
                              mgmt := { mP.mgmt with dtime := 1000 } }
theorem wit_PartitionOperations_monitors : pkType monW = 9 ∧ pay monW 0 1 = 3 ∧ pay monW 1 1 = 31 ∧ pay monW 2 1 = 6 ∧ pay monW 3 1 = 2 ∧
    pay monW 8 8 = 1000 ∧ inHbm (pay monW 16 8) = true ∧ SMap.get? mMon.monitors (0 * 32 + 0) = some mon0 ∧
    SMap.get? mMon.monitors (0 * 32 + 1) = some { mon0 with src := 4, sel := 1 } ∧ mon0.on = true ∧ mon0.last + 1024 ≤ mMon.bclk ∧
    mon0.start + mon0.win ≤ mMon.dtime.toNat ∧
    (({ m0 with parts := [(1, { Part.empty with st := .resetting })] } : State).part 1).st = .resetting := by decide +kernel
theorem test_part_create : after (exec (.partCreate 0) (desc1 (mY (partW 1 7 0 (2 ^ 47) 0x8000)))) (fun t => t.ownerOf 47 == some 7 &&
    (t.part 7).st == .active && t.index 0 == 1) = true := by decide +kernel
theorem test_part_weight : after (exec (.partWeight 0) (mY (partW 4 0 255 0 0))) (fun t => (t.part 0).weight == 255) = true ∧
    after (exec (.partWeight 0) (mY (partW 4 0 256 0 0))) (fun t => (t.part 0).weight == 16) = true := by decide +kernel

/-! The scheduler. -/

/-- Task 5 is the one entry of die 0, and has waited 4,096 bclk. -/
def entry0 : PEntry := ⟨0, 0, 7, 0, .task 5, 0, true⟩
def mSched : State := { mQ with
  bclk := 4096
  parts := [(0, { m0.part 0 with weight := 16 })]
  pithead := [entry0]
  tasks := [(0, { Task.empty with st := .running }), (5, { Task.empty with st := .ready, code := 0x10000, obj := 0, prio := 7 })] }
/-- The same with the entry on the deque of core 1, alone and before another, and with core 0 full. -/
def mDeque : State := { mSched with pithead := [], deques := [(1, [.task 5])] }
def mTwo : State := { mDeque with deques := [(1, [.task 5, .task 6])] }
def mFull : State := { mSched with
  clusters := [(0, 1)], tiles := []
  deques := (List.range 12).map fun c => (c, [.task 6, .task 7, .task 8, .task 9])
  ctxs := (List.range 48).map fun k => (k, { ctx0 with slot := if k % 4 = 0 then .run else .res, started := 1 - k }) }
theorem wit_SchedulerEvents : (mSched.wrrNext 0).1 = some 0 ∧ ((mSched.wrrNext 0).2.tryDispatch 0 0).isSome = true ∧
    (mSched.pithead = [entry0] ∧ entry0.inside = true ∧ mSched.pickCore 0 (.task 5) = some 0 ∧ mSched.objsMoving 0 = false ∧ mSched.inPithead 0 0 = [entry0] ∧ (mSched.allocOutputs 5 0).isSome = true) ∧
    (mDeque.deque 1 = [] ++ [.task 5] ∧ mDeque.reservedCore 1 = false ∧ (mDeque.placeable 1 (.task 5)).isSome = true ∧
      mDeque.entStays (.task 5) = true) ∧
    (mDeque.idleCore 2 = true ∧ mDeque.reservedCore 2 = false ∧ mDeque.victim 2 = some 1 ∧ (mDeque.dequeTake 1).isSome = true) ∧
    (mTwo.idleCore 2 = true ∧ mTwo.reservedCore 2 = false ∧ mTwo.victim 2 = some 1 ∧ mTwo.deque 1 = [.task 5, .task 6] ∧
      (mTwo.placeable 2 (.task 5)).isSome = true) ∧
    (mSched.startFault 5 = none ∧ (mSched.task 5).resume = .fresh ∧ (mSched.task 5).gang = none ∧ entry0.part = 0 ∧ (mSched.task 5).pend = none) := by
  decide +kernel
/-- Two entries of a level, of which the older cannot start, since its die has no page for its output, and the other can; below
them stands a third. -/
def entry1 : PEntry := { entry0 with ent := .task 6, since := 1 }
def mLevels : State := { mSched with
  pithead := [{ entry0 with ent := .task 7, level := 3 }, entry0, entry1]
  tasks := [(5, { mSched.task 5 with outs := [(1, 0, 64, 1)] }), (6, mSched.task 5), (7, mSched.task 5)] }
theorem wit_SchedulerEvents_levels : (let l := mLevels.inPithead 0 0
      l.find? (fun x => x.level = entry0.level) = some entry0 ∧ (∀ x ∈ l, x.level ≤ entry0.level)) ∧
    (let s : State := { mLevels with pithead := [entry0, entry1, { entry0 with ent := .task 7, level := 3 }] }
     s.inPithead 0 0 = [entry0, entry1, { entry0 with ent := .task 7, level := 3 }] ∧ s.tryEntry 0 entry0 = none ∧
       (s.tryEntry 0 entry1).isSome = true) ∧
    (∀ p, p < 8 → (mLevels.wrrNext 0).1 = some p → p = 0) := by decide +kernel
theorem wit_SchedulerEvents_preempt : mFull.topEntry 0 0 = some entry0 ∧ entry0.born + 4096 ≤ mFull.bclk ∧ mFull.makingWay entry0.ent = false ∧
    (let cores := (mFull.homeCores 0 5).filter fun c => !mFull.leaving 0 (clusterOf c)
     (∀ c ∈ cores, mFull.freeSlot c = none ∧ 4 ≤ (mFull.deque c).length) ∧ mFull.yielding 0 7 (cores.flatMap slotsOf) = some 1) ∧
    (mFull.ctx 1).inSlot = true ∧ (mFull.ctx 1).keeper = none := by decide +kernel
/-- A waiting task with an input on core 0 and one on core 12, of the next cluster. -/
def mMove : State := { mT with
  clusters := [(0, 16 * 8 + 1), (1, 16 * 8 + 1)]
  tiles := [(2, { tileA with st := .committed }), (12 * 8192 + 1, { tileA with st := .committed })]
  tasks := [(5, { Task.empty with st := .waiting, ins := [(1, 0x1001), (2, mkHandle 0 12 1 1)] })] }
theorem wit_SchedulerEvents_move : mMove.tileOf 0x1001 = some 2 ∧ mMove.tileOf (mkHandle 0 12 1 1) = some (12 * 8192 + 1) ∧
    (mMove.task 5).lead = true ∧ (mMove.task 5).live = 0 ∧ (mMove.tile 2).st ≠ .alloc ∧ (mMove.tile (12 * 8192 + 1)).st ≠ .alloc ∧
    2 / 8192 < 576 ∧ inHome (.cluster (clusterOf 0)) 12 = false ∧ (mMove.tile (12 * 8192 + 1)).moving = false := by decide +kernel
/-- A context at its end. -/
theorem wit_SchedulerEvents_end : (let s := with_ fun c => { c with ending := true }
    (s.ctx 0).inSlot = true ∧ (s.ctx 0).mx = [] ∧ (s.ctx 0).stall ≠ some .cancelled ∧ s.inputMoving (s.ctx 0).task = false ∧
      s.endMoving (s.ctx 0).task = false ∧ (match s.commitRegion 0 with
      | .ok u => ((u.endReads 0).handover 0).isSome
      | .error _ => false) = true) := by decide +kernel
theorem test_dispatch : after (exec (.dispatch 0) mSched) (fun t => t.deque 0 == [.task 5] && t.pithead == [] && (t.task 5).st == .queued) = true := by
  decide +kernel
/-- R87, R94: the newest entry goes to the thief, the last one to its owner. -/
theorem test_steal : after (exec (.steal 2) mTwo) (fun t => (t.ctx 8).task == 5 && (t.ctx 8).pc == 0x10000 && (t.ctx 8).reg 6 == 1 &&
    (t.ctx 8).ltb == 0x20000 && (t.ctx 8).tvec == 0x10100 && t.deque 1 == [.task 6]) = true := by decide +kernel
/-- R85: a level up after 2^20 bclk, not a bclk before. -/
theorem test_aging : after (exec (.pitheadAging 0) { mSched with bclk := 2 ^ 20, pithead := [{ entry0 with level := 6 }] })
      (fun t => t.pithead == [⟨0, 0, 7, 2 ^ 20, .task 5, 0, true⟩]) = true ∧
    after (exec (.pitheadAging 0) { mSched with bclk := 2 ^ 20 - 1, pithead := [{ entry0 with level := 6 }] })
      (fun t => t.pithead == [{ entry0 with level := 6 }]) = true := by decide +kernel
theorem wit_PitheadAging : mSched.startFault 5 = none ∧ (mSched.task 5).resume = .fresh := by decide +kernel
theorem wit_GrantRule : (let w := partW 5 0 575 (0 * 2 ^ 32) 0
    ((mY w).eng 0).taken = some w ∧ (mY w).qstate 0 = 1 ∧ pkType w = 8 ∧ pay w 0 1 = 5 ∧ pid w = 0 ∧ (mY w).active 0 = true ∧
    arg16 w = 575 ∧ arg16 (partW 5 0 (2 ^ 15 + 3) 0 0) = 2 ^ 15 + (579 - 576)) ∧
    (let w := partW 5 0 (2 ^ 15 + 3) (8192 * 2 ^ 32 + 8192) 0
     bits (argA w) 31 0 ≤ bits (argA w) 63 32 ∧ bits (argA w) 63 32 ≤ mP.poolPages 579 ∧
     (((List.range 8).filter fun q => q ≠ 0).map fun q => (mP.quota 579 q).g).sum + bits (argA w) 31 0 ≤ mP.poolPages 579) := by
  decide +kernel
theorem test_grantable : mQ.grantable 0 0 6 = true ∧ mQ.grantable 0 0 7 = false := by decide +kernel
/-- Task 5 waits, and the gang of tasks 6 and 7 runs, registered with a task that is gone on the future at 0x9000; task 8 is the
transferred record of a name; a rule of task 9 fires. -/
def fut5 : Task := { Task.empty with st := .waiting, code := 0x10000 }
def mFut : State := { mSched with
  pithead := [], gangs := [(1, { gang0 with cores := [0, 1], tasks := [6, 7] })]
  tasks := [(5, fut5), (6, { fut5 with st := .running, gang := some (1, 0, 2) }), (7, { fut5 with st := .running, gang := some (1, 1, 2) }),
    (8, fut5), (9, { fut5 with st := .running })]
  names := [(70000, 8)], futs := [(0x9000, [.task 5, .task 6, .task 70000, .task 0x50005])]
  ctxs := [(0, { ctx0 with task := 9, k := [(0, { rule0 with st := .firing })] })] }
theorem wit_FailedFuture : mFut.MemWf ∧ (match mFut.futKey 0 0x9000 with
    | .ok (k, _) => k == 0x9000 && !mFut.poisoned k 8 && Mem.readN mFut.mem k 8 % 4 == 0 &&
        SMap.getD mFut.futs k [] == [(5 : Word), 6, 70000, 0x50005].map Waiter.task
    | .error _ => false) = true ∧ mFut.recordNamed 5 = some 5 ∧ mFut.recordNamed 6 = some 6 ∧ mFut.recordNamed 70000 = some 8 ∧
    mFut.recordNamed 0x50005 = none ∧
    (∀ t ∈ [5, 6, 8], ((mFut.instances t).filter fun i => (mFut.task i).live?).all fun i => !mFut.firing i) ∧
    mFut.instances 6 = [6, 7] ∧ (∀ t ∈ [5, 6, 8, 9], (mFut.task t).live? = true) ∧ mFut.firing 9 = true ∧ mFut.slotOfTask 9 = some 0 ∧
    (mFut.task 5).gang = none ∧ mFut.firing 5 = false := by
  refine ⟨m0_wf, ?_⟩; decide +kernel
/-- The firing of a cancelled task has ended. -/
theorem wit_FailedFuture_ended : (let s : State := { mFut with tasks := [(9, { fut5 with pend := some (0x49, true) })], ctxs := [] }
    (s.task 9).pend = some (0x49, true) ∧ s.firing 9 = false) := by decide +kernel
theorem test_failed_future : after (exec (.signalFail 1) { mX (qword 3 0 [0x9000, 1]) with
      tasks := mFut.tasks, gangs := mFut.gangs, futs := [(0x9000, [.task 6])] }) (fun t =>
    (t.task 6).st == .cancelled && (t.task 7).st == .cancelled && (t.task 5).st == .waiting) = true := by decide +kernel

/-! The contexts. -/

/-- Task 0 resumes from an empty record at 0x9000, which has been read. -/
def mRec : State := (match ({ with_ (fun c => { c with slot := .load }) with
    tasks := [(0, { Task.empty with st := .running, resume := .record 0x9000 })] } : State).gvRead 0 0x9000 256 true with
  | .ok (t, _) => t
  | .error _ => m0)
theorem wit_ContextEvents_record : (mRec.task (mRec.ctx 0).task).resume = .record 0x9000 ∧ (mRec.ctx 0).slot = .load ∧
    mRec.startFault (mRec.ctx 0).task = none ∧ (mRec.ctx 0).heir = none ∧
    (match mRec.gvRead 0 0x9000 256 true with
     | .ok (t, b) => recordBad b == none && (t.task 0).recObj == none
     | .error _ => false) = true ∧ mRec.moves = [] ∧ mRec.objsMoving (mRec.ctx 0).part = false ∧
    (mRec.task (mRec.ctx 0).task).pend = none ∧ mRec.gvBad (mRec.ctx 0).part 0x9000 256 = [] := by decide +kernel
theorem wit_ContextEvents : (let s : State := { m0 with parts := [(0, { m0.part 0 with wdog := 1000 })], bclk := 1000 }
     (s.part (s.ctx 0).part).wdog = 1000 ∧ (s.ctx 0).slot ≠ .free ∧ (s.ctx 0).keeper = none ∧ 1000 ≤ s.bclk - (s.ctx 0).wd ∧
       (s.ctx 0).stall ≠ some .cancelled ∧ (s.ctx 0).wdFired = false) ∧
    (let s : State := { with_ (fun c => { c with stall := some (.sem 5 2) }) with bclk := 64 }
     (s.ctx 0).slot = .run ∧ Stall.switches (.sem 5 2) = true ∧ s.waitOver 0 (.sem 5 2) = false ∧ max (s.ctx 0).stallAt (s.ctx 0).since + 64 ≤ s.bclk) ∧
    (let s : State := { m0 with tasks := [(5, { Task.empty with st := .parked, page := some 0x9000 })] }
     (s.task 5).gang = none ∧ s.slotOfTask 5 = none ∧ s.pageBack (s.task 5) = true) ∧
    (let s := with_ fun c => { c with async := [exc 0x5A 1] }
     (s.ctx 0).async = exc 0x5A 1 :: [] ∧ (s.ctx 0).inSlot = true ∧ (s.ctx 0).ending = false ∧ (s.ctx 0).th = false ∧
       (s.ctx 0).stall ≠ some .cancelled ∧ (s.ctx 0).passed = none ∧ s.objsMoving (s.ctx 0).part = false) := by decide +kernel
/-- The state after a fetch, which has marked the page of the text as used. -/
def fetchedIn (s : State) : State := match fetch s with | .ok (_, t) => t | .error _ => s
theorem fetch_of {s : State} {i : Instr} (h : (match fetch s with | .ok (j, _) => decide (j = i) | .error _ => false) = true) :
    fetch s = .ok (i, fetchedIn s) := by
  unfold fetchedIn
  split at h
  · next j t e => rw [e, of_decide_eq_true h]
  · cases h
/-- The instruction's words at the pc of a context that waits. -/
def mWait (i : Instr) (w : Stall) : State := bytes { with_ (fun c => { c with stall := some w }) with
    bclk := 10, sems := [(5, 2)], tasks := [(0, { Task.empty with st := .running, gang := some (1, 0, 2), group := 7 })]
    gangs := [(1, gang0)] }
  0x10000 (leBytes 8 (encodeNat i))
def barwI : Instr := .barw plain { d := 0, a := 0, tlg := 0 }
def semwI : Instr := .semw plain { semi := 5, thr := 2 }
theorem wit_ContextEvents_semaphores : (∀ i ∈ [Instr.nop plain, semwI], (mWait i (.sem 5 2)).waits 0 = true) ∧
    ((mWait (.nop plain) (.sem 5 2)).ctx 0).stall = some (.sem 5 2) ∧ 2 ≤ (mWait (.nop plain) (.sem 5 2)).sem 0 5 ∧
    (∃ t, fetch { mWait (.nop plain) (.sem 5 2) with cur := 0 } = .ok (.nop plain, t)) ∧
    ∃ t, fetch { mWait semwI (.sem 5 2) with cur := 0 } = .ok (semwI, t) ∧ (2 : BitVec 16).toNat ≤ t.sem 0 5 :=
  ⟨by decide +kernel, by decide +kernel, by decide +kernel, ⟨_, fetch_of (by decide +kernel)⟩, _, fetch_of (by decide +kernel),
    by decide +kernel⟩
/-- A `waita` for the other value, and for this one; R356: a limit that has passed. -/
def mWatch (cnd : BitVec 2) : State := mWait (.waita plain (waitaO cnd)) (.mon 0 (some 10))
theorem wit_ContextEvents_waita : ∀ cnd ∈ [(0 : BitVec 2), 1], ∃ s1, (mWatch cnd).waits 0 = true ∧
    fetch { mWatch cnd with cur := 0 } = .ok (.waita plain (waitaO cnd), s1) ∧ s1.watches (waitaO cnd) 0 (lsKey 0 0x40) s1 ∧
    s1.waitaMet (waitaO cnd) 0 = decide (cnd = 1) ∧ ((mWatch cnd).ctx 0).stall = some (.mon 0 (some 10)) ∧ 10 ≤ (mWatch cnd).bclk ∧
    s1.me.stall = some (.mon 0 (some 10)) ∧ s1.bclk = 10 ∧ s1.hurt 0 (.waita plain (waitaO cnd)) = false := by
  intro cnd hc
  have h : ∀ cnd ∈ [(0 : BitVec 2), 1], let s1 := fetchedIn { mWatch cnd with cur := 0 }
      ((mWatch cnd).waits 0 = true ∧ (match fetch { mWatch cnd with cur := 0 } with
        | .ok (j, _) => decide (j = .waita plain (waitaO cnd))
        | .error _ => false) = true ∧ s1.waitaMet (waitaO cnd) 0 = decide (cnd = 1) ∧
      ((mWatch cnd).ctx 0).stall = some (.mon 0 (some 10)) ∧ 10 ≤ (mWatch cnd).bclk ∧ s1.me.stall = some (.mon 0 (some 10)) ∧
      s1.bclk = 10 ∧ s1.hurt 0 (.waita plain (waitaO cnd)) = false) ∧ (waitaO cnd).sc.toNat < 6 ∧ (waitaO cnd).cnd ≠ 3 ∧
      endsIn (spaceLoc 1 (s1.me.reg 1 + s1.me.reg 0) 8 8 s1) (.key (lsKey 0 0x40)) s1 = true ∧
      endsIn (ordered [⟨lsKey 0 0x40, 8, false⟩] s1) () s1 = true ∧ s1.poisoned (lsKey 0 0x40) 8 = false ∧
      0 = leNat (Mem.readL s1.mem (lsKey 0 0x40) 8) := by decide +kernel
  obtain ⟨⟨h1, h2, h3, h4, h5, h6, h7⟩, h8, h9, h10, h11, h12, h13⟩ := h cnd hc
  exact ⟨_, h1, fetch_of h2, ⟨h8, h9, rfl, .inl ⟨.inl rfl, fun _ => ⟨rfl, rfl⟩, ends_of h10, ends_of h11, h12, h13, rfl⟩⟩, h3, h4, h5,
    h6, h7⟩
theorem wit_ContextEvents_barw : ∃ s1, (mWait barwI (.barw 0 (some 10))).waits 0 = true ∧
    fetch { mWait barwI (.barw 0 (some 10)) with cur := 0 } = .ok (barwI, s1) ∧ s1.me.stall = some (.barw 0 (some 10)) ∧
    10 ≤ (mWait barwI (.barw 0 (some 10))).bclk ∧ 10 ≤ s1.bclk ∧ (s1.task s1.me.task).gang = some (1, 0, 2) ∧
    SMap.get? s1.gangs 1 = some gang0 ∧ (s1.me.reg 0).toNat < SMap.getD gang0.arrived 0 0 ∧ s1.hurt 0 barwI = false :=
  ⟨_, by decide +kernel, fetch_of (by decide +kernel), by decide +kernel, by decide +kernel, by decide +kernel, by decide +kernel,
    by decide +kernel, by decide +kernel, by decide +kernel⟩
theorem test_waita_limit : after (exec (.waitaTimeout 0 0) (mWatch 0)) (fun t => (t.ctx 0).stall == none && (t.ctx 0).reg 2 == 1) = true ∧
    after (exec (.waitaTimeout 0 0) (mWatch 1)) (fun t => (t.ctx 0).stall == none && (t.ctx 0).reg 2 == 0) = true := by decide +kernel
/-- A job of 256 k-steps has more to do after its first chunk. -/
def mChunk : State := match fieldSetup (.mma plain y0 { mmaO 1 1 with km1 := 255 }) .mma { mmaO 1 1 with km1 := 255 } y0 none mAt with
  | .ok (j, t) => t.modCtx 0 fun c => { c with mx := [j] }
  | .error _ => mAt
theorem wit_ContextEvents_matrix : (mChunk.ctx 0).inSlot = true ∧ (match (mChunk.ctx 0).mx with
    | [j] => j.memb == none && !(mChunk.ctx 0).accBad (chunkOf j).acc && !mChunk.viewMoving j.a && !mChunk.viewMoving j.b && !j.o.be && decide (j.done < total j) &&
        (mChunk.runChunk (mChunk.ctx 0) j).any fun x => decide (x.2.done < total x.2)
    | _ => false) = true := by decide +kernel
theorem test_watchdog : after (exec (.watchdogTimeout 0 0) { m0 with parts := [(0, { m0.part 0 with wdog := 1000 })], bclk := 1000 })
    (fun t => (t.ctx 0).async == [exc 0x5A 1000] && (t.ctx 0).wd == 1000) = true := by decide +kernel
theorem test_semw_pass : after (exec (.semaphoreWaitPass 0 0) (mWait (.nop plain) (.sem 5 2))) (fun t => t.sem 0 5 == 0 &&
    (t.ctx 0).passed == some (5, 2) && (t.ctx 0).stall == none) = true := by decide +kernel
/-! Images are long: what reads and writes only zeros beyond every listed byte. -/

theorem getD_beyond {m : SMap Byte} {lo k : Nat} (h : ∀ x ∈ m, x.1 < lo) (hk : lo ≤ k) (d : Byte) : SMap.getD m k d = d := by
  have : SMap.get? m k = none := by
    induction m with
    | nil => rfl
    | cons y r ih =>
      have hy : y.1 < lo := h y (List.mem_cons_self ..)
      have := ih fun x hx => h x (List.mem_cons_of_mem _ hx)
      obtain ⟨a, b⟩ := y
      simp only [SMap.get?]
      split
      · next e => simp at hy; omega
      · split
        · rfl
        · exact this
  rw [SMap.getD, this]; rfl
theorem readL_beyond {m : SMap Byte} {lo k n : Nat} (h : ∀ x ∈ m, x.1 < lo) (hk : lo ≤ k) : ∀ b ∈ Mem.readL m k n, b = 0 := by
  simp only [Mem.readL, List.mem_map, forall_exists_index, and_imp]
  intro b i _ e
  rw [← e, Mem.read, getD_beyond h (by omega)]; rfl
theorem del_beyond {m : SMap Byte} {lo k : Nat} (h : ∀ x ∈ m, x.1 < lo) (hk : lo ≤ k) : SMap.del m k = m := by
  induction m with
  | nil => rfl
  | cons y r ih =>
    have hy : y.1 < lo := h y (List.mem_cons_self ..)
    obtain ⟨a, b⟩ := y
    have := ih fun x hx => h x (List.mem_cons_of_mem _ hx)
    simp only [SMap.del]
    simp at hy
    split
    · omega
    · split
      · rfl
      · rw [this]
theorem writeL_beyond {m : SMap Byte} {lo : Nat} (h : ∀ x ∈ m, x.1 < lo) : ∀ (l : List Byte) (k : Nat), (∀ b ∈ l, b = 0) → lo ≤ k →
    Mem.writeL m k l = m
  | [], _, _, _ => rfl
  | b :: r, k, hl, hk => by
    have hb : b = Mem.fill := hl b (List.mem_cons_self ..)
    rw [Mem.writeL, Mem.write, if_pos hb, del_beyond h hk]
    exact writeL_beyond h r (k + 1) (fun x hx => hl x (List.mem_cons_of_mem _ hx)) (by omega)
theorem slice_zero {b : List Byte} (h : ∀ x ∈ b, x = 0) (o n : Nat) : slice b o n = 0 := by
  have hz : ∀ l : List Byte, (∀ x ∈ l, x = 0) → leNat l = 0 := by
    intro l
    induction l with
    | nil => intro _; rfl
    | cons y r ih =>
      intro hl
      rw [leNat, ih fun x hx => hl x (List.mem_cons_of_mem _ hx), hl y (List.mem_cons_self ..)]; rfl
  exact hz _ fun x hx => h x (List.mem_of_mem_drop (List.mem_of_mem_take hx))
theorem imageBad_zero {b : List Byte} (h : ∀ x ∈ b, x = 0) : imageBad b = false ∧ mxValid b = [] := by
  have hr : ruleBad 0 = false ∧ bindingBad 0 = false := by decide +kernel
  simp only [imageBad, mxValid, slice_zero h, hr.1, hr.2]
  exact ⟨by decide +kernel, by decide +kernel⟩
theorem leBytes_zero (n : Nat) : ∀ b ∈ leBytes n 0, b = 0 := by
  induction n with
  | zero => simp [leBytes]
  | succ n ih => simp only [leBytes, List.mem_cons, forall_eq_or_imp, Nat.zero_div]; exact ⟨rfl, ih⟩
theorem flat_zero {α : Type} {l : List α} {f : α → List Byte} (h : ∀ x, ∀ b ∈ f x, b = 0) : ∀ b ∈ l.flatMap f, b = 0 := by
  intro b hb
  obtain ⟨x, _, hx⟩ := List.mem_flatMap.mp hb
  exact h x b hx
theorem places_zero {n w : Nat} {f : Nat → Nat} (h : ∀ i, f i = 0) : ∀ b ∈ places n w f, b = 0 :=
  flat_zero fun i => by rw [h i]; exact leBytes_zero w
theorem flat_length {α : Type} {w : Nat} (f : α → List Byte) (h : ∀ x, (f x).length = w) (l : List α) : (l.flatMap f).length = l.length * w := by
  induction l with
  | nil => simp
  | cons x r ih => simp only [List.flatMap_cons, List.length_append, h, ih, List.length_cons, Nat.add_mul, Nat.one_mul]; omega
theorem places_length (n w : Nat) (f : Nat → Nat) : (places n w f).length = n * w := by
  rw [places, flat_length _ (fun i => leBytes_length w (f i)), List.length_range]
theorem all_app {a b : List Byte} (ha : ∀ x ∈ a, x = 0) (hb : ∀ x ∈ b, x = 0) : ∀ x ∈ a ++ b, x = 0 :=
  List.forall_mem_append.mpr ⟨ha, hb⟩
theorem imageBase_empty : (∀ b ∈ Ctx.empty.imageBase, b = 0) ∧ Ctx.empty.imageBase.length = 0xD000 := by
  have h12 : ∀ w ∈ [Ctx.empty.etb, Ctx.empty.ptb, Ctx.empty.ltb, word (Ctx.empty.task / 65536 * 2 ^ 32 + Ctx.empty.task % 65536),
      Ctx.empty.stamp, Ctx.empty.fpc, Ctx.empty.fps, Ctx.empty.tcause, Ctx.empty.tpc, Ctx.empty.tval, Ctx.empty.tinfo, Ctx.empty.tvec],
      w = 0 := by simp [Ctx.empty, word]
  have hw : ∀ b ∈ [Ctx.empty.etb, Ctx.empty.ptb, Ctx.empty.ltb, word (Ctx.empty.task / 65536 * 2 ^ 32 + Ctx.empty.task % 65536),
      Ctx.empty.stamp, Ctx.empty.fpc, Ctx.empty.fps, Ctx.empty.tcause, Ctx.empty.tpc, Ctx.empty.tval, Ctx.empty.tinfo,
      Ctx.empty.tvec].flatMap (fun w => leBytes 8 w.toNat), b = 0 := by
    intro b hb
    obtain ⟨w, hw, hb⟩ := List.mem_flatMap.mp hb
    rw [h12 w hw] at hb
    exact leBytes_zero 8 b hb
  have hs : ∀ i, (if i = 0 then 0 else (SMap.getD Ctx.empty.s i 0).toNat) = 0 := fun i => by split <;> rfl
  constructor
  · unfold Ctx.imageBase
    exact all_app (all_app (all_app (all_app (all_app (all_app (all_app (all_app (all_app (all_app (all_app (all_app (all_app (all_app (all_app (all_app (all_app (all_app (all_app (leBytes_zero 8) (leBytes_zero 8)) (places_zero fun _ => rfl)) (hw)) (leBytes_zero 8)) (leBytes_zero 8)) (leBytes_zero 112)) (places_zero hs)) (places_zero fun _ => rfl)) (places_zero fun _ => rfl)) (leBytes_zero 64)) (places_zero fun _ => rfl)) (places_zero fun _ => rfl)) (places_zero fun _ => rfl)) (flat_zero fun _ => leBytes_zero 32)) (places_zero fun _ => rfl)) (leBytes_zero 1024)) (places_zero fun _ => rfl)) (flat_zero fun _ => leBytes_zero 32)) (flat_zero fun _ => leBytes_zero 128)
  · unfold Ctx.imageBase
    have hl (x : Word) : (leBytes 8 x.toNat).length = 8 := leBytes_length 8 _
    have hm : Ctx.empty.mx = [] := rfl
    have hq : Ctx.empty.secs = [] := rfl
    simp only [hm, hq, List.getElem?_nil, List.length_append, places_length, leBytes_length, flat_length _ hl,
      flat_length _ (fun _ : Nat => leBytes_length 32 0), flat_length _ (fun _ : Nat => leBytes_length 128 0), List.length_range,
      List.length_cons, List.length_nil]

theorem bind_ok {ε α β : Type} {x : Except ε α} {a : α} (h : x = .ok a) (f : α → Except ε β) : (x >>= f) = f a := by rw [h]; rfl
/-- An image slot in pages that have been read and written. -/
def mImg (st : SlotSt) (r : Resume) : State :=
  { bytes m0 0x200000 [0x3F] with ctxs := [(0, { Ctx.empty with slot := st, image := some 0 })]
                                  tasks := [(0, { Task.empty with st := .held, resume := r })], saves := [(0, ⟨0, some 0, none, true, [], [], [], [], 0, [], [], false⟩)] }
/-- A range that maps to one piece and changes nothing. -/
theorem map_of {s : State} {p n : Nat} {a : Word} {u : Use} {hold : Bool} {ps : List (Word × Nat × Nat × Bool)}
    (h : (match s.mapRange p a n u hold with | .ok (t, q) => decide (t = s) && decide (q = ps) | .error _ => false) = true) :
    s.mapRange p a n u hold = .ok (s, ps) := by
  split at h
  · next e => simp only [Bool.and_eq_true, decide_eq_true_eq] at h; rw [e, h.1, h.2]
  · cases h
theorem mem_low {st : SlotSt} {r : Resume} : ∀ x ∈ (mImg st r).mem, x.1 < 0x800000 :=
  (by decide +kernel : ∀ x ∈ (bytes m0 0x200000 [0x3F]).mem, x.1 < 0x800000)
/-- R113: an image of zeros is read. -/
theorem readImage_zero {s : State} {b tr : List Byte} (h : ∀ x ∈ b, x = 0)
    (hb : s.gvRead 0 (s.saveAddr 0 0) 0xD000 true = .ok (s, b))
    (hz : ∀ a, s.gvRead 0 a 0 true = .ok (s, [])) (ht : s.gvRead 0 (s.saveAddr 0 0 + 0x6F000) 32 true = .ok (s, tr))
    (hp : s.poison = []) : s.readImage 0 = .ok (s, ⟨b, [], s.saveAddr 0 0 + word (0xD000 + 16384 * 0), [], [], tr, []⟩) := by
  have h8 : slice b 8 8 = 0 := slice_zero h 8 8
  have ha : popcount 16 (slice b 8 8 / 2 ^ 16 % 2 ^ 16) = 0 := by rw [h8]; decide
  have hl : bit (slice b 8 8) 15 = false := by rw [h8]; decide
  simp only [State.readImage, Nat.zero_div, Nat.zero_mod]
  rw [bind_ok hb]
  simp only [ha, hl, if_true, Bool.false_eq_true, if_false, Nat.mul_zero]
  rw [bind_ok (hz _), bind_ok (hz _), bind_ok (hz _), bind_ok ht]
  simp only [State.gvBad, hp, if_true, List.map_nil, List.append_nil]
  rfl
theorem readImage_of {s : State} (ha : s.saveAddr 0 0 = 0x800000) (hl : ∀ x ∈ s.mem, x.1 < 0x800000)
    (hm : s.mapRange 0 0x800000 0xD000 .rd true = .ok (s, [(0x800000, 0x800000, 0xD000, false)]))
    (ht : (match s.gvRead 0 (0x800000 + 0x6F000) 32 true with | .ok (t, _) => decide (t = s) | .error _ => false) = true)
    (hp : s.poison = []) : ∃ rd, s.readImage 0 = .ok (s, rd) ∧ rd.lx = [] ∧ (∀ job, mxBad rd.base job = none) ∧ rd.consumed = none ∧
      rd.broken = false := by
  have hb := readL_beyond (n := 0xD000) (k := 0x800000) hl (Nat.le_refl _)
  have h0 : s.gvRead 0 (s.saveAddr 0 0) 0xD000 true = .ok (s, Mem.readL s.mem 0x800000 0xD000) := by
    rw [ha, State.gvRead, hm]
    simp only [List.flatMap_cons, List.flatMap_nil, List.append_nil, Bool.false_eq_true, if_false]
  obtain ⟨tr, ht⟩ : ∃ tr, s.gvRead 0 (s.saveAddr 0 0 + 0x6F000) 32 true = .ok (s, tr) := by
    rw [ha]
    split at ht
    · next e => exact ⟨_, by rw [e, of_decide_eq_true ht]⟩
    · cases ht
  refine ⟨_, readImage_zero hb h0 (fun a => by
    simp only [State.gvRead, State.mapRange, pieces, Nat.zero_min, Nat.zero_sub, Nat.zero_add, List.foldlM_cons, if_true]
    rfl) ht hp, rfl, fun job => ?_, rfl, by
      rw [ImageRead.broken, (imageBad_zero hb).1]; simp [leNat]⟩
  show mxBad (Mem.readL s.mem 0x800000 0xD000) job = none
  rw [mxBad, (imageBad_zero hb).2]
  rfl
theorem wit_ContextEvents_load : ∃ rd, (mImg .load (.image 0)).readImage 0 = .ok (mImg .load (.image 0), rd) ∧ rd.lx = [] ∧
    (∀ job, mxBad rd.base job = none) ∧ rd.consumed = none ∧ rd.broken = false :=
  readImage_of (by decide +kernel) mem_low (map_of (by decide +kernel)) (by decide +kernel) rfl
theorem wit_ContextEvents_slots : (mImg .load (.image 0)).saveAddr 0 0 = 0x800000 ∧ ((mImg .load (.image 0)).task 0).resume = .image 0 ∧
    ((mImg .load (.image 0)).ctx 0).slot = .load ∧ ((mImg .load (.image 0)).ctx 0).keeper = none ∧
    ((mImg .load (.image 0)).ctx 0).heir = none ∧ (mImg .load (.image 0)).startFault 0 = none ∧ (mImg .load (.image 0)).objsMoving 0 = false ∧
    ((mImg .load (.image 0)).task 0).pend = none ∧ ((mImg .save .fresh).ctx 0).keeper = none ∧
    ((mImg .save .fresh).ctx 0).slot = .save ∧ ((mImg .save .fresh).ctx 0).image = some 0 ∧ ((mImg .save .fresh).ctx 0).accMap = [] ∧
    ((mImg .save .fresh).ctx 0).heir = none ∧ ((mImg .save .fresh).task 0).dbg = none ∧ ((mImg .save .fresh).task 0).st ≠ .preempted := by
  decide +kernel
/-- And one is written. -/
theorem save_same {c : Ctx} (hc : c.imageBase = Ctx.empty.imageBase) : (mImg .save .fresh).gvWrite 0 0x800000 c.imageBase true = .ok (mImg .save .fresh) := by
  have hm : (mImg .save .fresh).mapRange 0 0x800000 0xD000 .wr true = .ok (mImg .save .fresh, [(0x800000, 0x800000, 0xD000, false)]) :=
    map_of (by decide +kernel)
  have hp : (mImg .save .fresh).poison = [] := rfl
  have he : (mImg .save .fresh).store 0x800000 c.imageBase = mImg .save .fresh := by
    rw [hc, State.store, writeL_beyond mem_low _ _ imageBase_empty.1 (Nat.le_refl _), hp, List.filter_nil, ← hp]
  have hn : c.imageBase.length = 0xD000 := by rw [hc, imageBase_empty.2]
  have ht : c.imageBase.take 0xD000 = c.imageBase := by rw [List.take_of_length_le (by omega)]
  rw [State.gvWrite, hn, hm]
  simp only [List.foldl_cons, List.foldl_nil, ht, he]
theorem save_none : (mImg .save .fresh).gvWrite 0 (0x800000 + 0xD000) [] true = .ok (mImg .save .fresh) := rfl
theorem save_trailer : (match (mImg .save .fresh).gvWrite 0 (0x800000 + 0x6F000) (trailer (fun _ => 0xFFFF) []) true with
    | .ok t => decide (t.ctx 0 = (mImg .save .fresh).ctx 0 ∧ t.task 0 = (mImg .save .fresh).task 0)
    | .error _ => false) = true := by decide +kernel
theorem save_zero (c : Ctx) (hc : c.imageBase = Ctx.empty.imageBase) (ha : c.accMap = []) (hl : c.lxu = false) (hk : c.k = [])
    (hu : c.badBytes = []) : ∃ s1, (mImg .save .fresh).writeImage 0 0 0 c [] = .ok s1 ∧
    s1.ctx 0 = (mImg .save .fresh).ctx 0 ∧ s1.task 0 = (mImg .save .fresh).task 0 := by
  have ha' : (mImg .save .fresh).saveAddr 0 0 = 0x800000 := by decide +kernel
  have hw : (mImg .save .fresh).writeImage 0 0 0 c [] = (mImg .save .fresh).gvWrite 0 (0x800000 + 0x6F000) (trailer (fun _ => 0xFFFF) []) true := by
    have hb : c.accBytes = [] := by rw [Ctx.accBytes, ha]; rfl
    simp only [State.writeImage, ha', hb, ha, hl, hk, hu, State.gvPoison, List.foldl_nil, Bool.false_eq_true, if_false, if_true]
    rw [bind_ok (save_same hc), bind_ok save_none, bind_ok rfl, bind_ok rfl]
    exact congrArg (fun f => (mImg .save .fresh).gvWrite 0 (0x800000 + 0x6F000) (trailer f []) true) rfl
  have ht := save_trailer
  rw [hw]
  generalize (mImg .save .fresh).gvWrite 0 (0x800000 + 0x6F000) (trailer (fun _ => 0xFFFF) []) true = x at ht
  cases x with
  | ok t => exact ⟨t, rfl, of_decide_eq_true ht⟩
  | error e => cases ht
theorem wit_ContextEvents_save : ∃ s1, (mImg .save .fresh).writeImage 0 0 0 ((mImg .save .fresh).ctx 0)
    (pobjOf ((SMap.get? (mImg .save .fresh).saves 0).getD (SaveSlot.empty 0)).objs ((mImg .save .fresh).ctx 0).k) = .ok s1 ∧
    s1.ctx 0 = (mImg .save .fresh).ctx 0 ∧ s1.task 0 = (mImg .save .fresh).task 0 := by
  have hx : (mImg .save .fresh).ctx 0 = { Ctx.empty with slot := .save, image := some 0 } := by decide +kernel
  rw [hx]
  exact save_zero _ rfl rfl rfl rfl rfl

/-! A LAUNCH (R54) reads a table of 256 groups, here all zero. -/

theorem get_other {m : SMap Byte} {k : Nat} (h : ∀ x ∈ m, x.1 ≠ k) : SMap.get? m k = none := by
  induction m with
  | nil => rfl
  | cons y r ih =>
    obtain ⟨a, b⟩ := y
    have hy : k ≠ a := Ne.symm (h _ (List.mem_cons_self ..))
    simp only [SMap.get?, hy, if_false, ih fun x hx => h x (List.mem_cons_of_mem _ hx), ite_self]
theorem readL_other {m : SMap Byte} {k n : Nat} (h : ∀ x ∈ m, x.1 < k ∨ k + n ≤ x.1) : ∀ b ∈ Mem.readL m k n, b = 0 := by
  simp only [Mem.readL, List.mem_map, forall_exists_index, and_imp]
  intro b i hi e
  have hn := List.mem_range.mp hi
  rw [← e, Mem.read, SMap.getD, get_other fun x hx => by have := h x hx; omega]
  rfl
theorem groupTable_zero {s t : State} {p : Nat} {b : List Byte} (h : s.gvRead p (s.part p).gtbase 32768 = .ok (t, b))
    (hb : ∀ x ∈ b, x = 0) : s.groupTable p = .ok [] := by
  have he : (List.range 256).filterMap (fun i =>
      if bit (slice b (128 * i) 128) 576 then some (i, slice b (128 * i) 128) else none) = [] := by
    rw [List.filterMap_eq_nil_iff]
    intro i _
    rw [slice_zero hb, show bit 0 576 = false by decide +kernel, if_neg Bool.false_ne_true]
  rw [State.groupTable, h]
  simp only [he]
  rfl
def launchW : List Word := qword 1 0 [0x30000, 0, 0xFFFF + 16 * 2 ^ 32 + 20 * 2 ^ 40]
def mLa0 : State := bytes (mX launchW) 0x30000 [0, 0, 1, 0, 0, 0, 0, 0, 0, 0, 0, 0, 0, 0, 0, 0, 0, 0, 0xFF, 0xFF]
def rootFrom (id : Nat) : Spawner := { part := 0, die := 0, core := 0, ptb := 0, stamp := 0, launch := some id, gang := false, root := true,
                                       prio := 0, group := 0xFFFF, late := true }
def rootB : List Byte := Mem.readL mLa0.mem 0x30000 256
def mLa : State := match mLa0.gvRead 0 0x30000 256 true with
  | .ok (t, _) => t.descLook (rootFrom t.nextId) 0x30000 rootB
  | .error _ => mLa0
theorem mLa_table : mLa.groupTable 0 = .ok [] := by
  have hm : mLa.mapRange 0 (mLa.part 0).gtbase 32768 .rd = .ok (mLa, [(0, 0, 32768, false)]) := map_of (by decide +kernel)
  refine groupTable_zero (t := mLa) (b := Mem.readL mLa.mem 0 32768) ?_ (readL_other (by decide +kernel))
  rw [State.gvRead, hm]
  simp only [List.flatMap_cons, List.flatMap_nil, List.append_nil, Bool.false_eq_true, if_false]
theorem wit_QueuePackets_launched : pkType launchW = 1 ∧ (mLa.eng 1).root = none ∧ (mLa.eng 1).taken = some launchW ∧ mLa.qstate 1 = 1 ∧
    ∃ s0 s1 t, mLa.launchRoot 1 launchW = (s0, .ok (some (s1, t))) := by
  refine ⟨by decide +kernel, by decide +kernel, by decide +kernel, by decide +kernel, ?_⟩
  have hg : mLa.gvRead 0 0x30000 256 true = .ok (mLa, rootB) := by
    have h : (match mLa.gvRead 0 0x30000 256 true with | .ok (t, b) => decide (t = mLa) && decide (b = rootB) | .error _ => false) = true := by
      decide +kernel
    split at h
    · next e => simp only [Bool.and_eq_true, decide_eq_true_eq] at h; rw [e, h.1, h.2]
    · cases h
  let s2 : State := { mLa.setPart 0 { mLa.part 0 with groups := [] } with
    launches := SMap.put mLa.launches mLa.nextId ⟨0, 0, 0, 1, mLa.index 1, 0, none, 16, 20⟩, nextId := mLa.nextId + 1 }
  have hc : ∃ s3 t work, s2.create (rootFrom mLa.nextId) 0x30000 rootB = .ok s3 t work := by
    obtain ⟨x, hx⟩ := pick_some s2 (l := s2.freeRecords 0) (by decide +kernel)
    have hd : s2.descFault (rootFrom mLa.nextId) 0x30000 rootB = none := by decide +kernel
    have hf : s2.findObj 0 (fun o => o.text.toNat = slice rootB 0x00 8) = some obj0 := by decide +kernel
    have hr : s2.recordFree 0 0 = true := by decide +kernel
    have hi : descIns rootB = [] := by decide +kernel
    have hp' : descFps rootB = [] := by decide +kernel
    obtain ⟨s1, hp⟩ : ∃ s1, s2.records 0 [0] = some ([x], s1) := by
      simp only [State.records, State.record?, hr, if_true, hx]
      exact ⟨_, rfl⟩
    rw [State.create, hd]
    simp only [rootFrom, hf, hi, hp', bne_self_eq_false, Bool.and_false, Bool.false_and, Bool.false_eq_true, if_false, hp, List.foldlM,
      State.holdInputs, pure, bind]
    exact ⟨_, _, _, rfl⟩
  obtain ⟨s3, t, work, hc⟩ := hc
  have hcl : mLa.clustersOf (pchk launchW) = [0] := by decide +kernel
  have hb : (8 ≤ pchk launchW || pay launchW 19 1 != pchk launchW || pay launchW 8 8 % 8 != 0 || (pay launchW 20 1 != 0xFF &&
      (96 < pay launchW 20 1 || pay launchW 21 1 < pay launchW 20 1 || 96 < pay launchW 21 1))) = false := by decide +kernel
  have hq : mLa.gvPoisoned 0 0x30000 256 = false := by decide +kernel
  have hw : pchk launchW = 0 ∧ word (pay launchW 0 8) = 0x30000 ∧ pay launchW 16 2 = 0xFFFF ∧ pay launchW 20 1 = 16 ∧ pay launchW 21 1 = 20 ∧
      pay launchW 18 1 = 0 ∧ compl launchW = 0 ∧ bit (pk launchW 0 8) 48 = false ∧ word (pay launchW 8 8) = 0 := by decide +kernel
  have hl : mLa.descLook (rootFrom mLa.nextId) 0x30000 rootB = mLa := by decide +kernel
  have ho : mLa.objsMoving 0 = false := by decide +kernel
  have hs : { launchSpawner launchW 0 mLa.nextId with group := 0xFFFF } = rootFrom mLa.nextId := by decide +kernel
  refine ⟨mLa, State.work (s3, work), t, ?_⟩
  obtain ⟨w1, w2, _, w4, w5, _, w7, _, _⟩ := hw
  rw [w1] at hb hcl
  unfold State.launchRoot
  simp only [w1]
  rw [if_neg (by rw [hb]; exact Bool.false_ne_true)]
  simp only [hcl, List.head?_cons, w2, w4, w5, w7, hg, hq, ho, hs, hl, mLa_table, Bool.false_eq_true, if_false,
    show ((196608 : Word).toNat % 256 != 0) = false by decide, show ((16 : Nat) != 0xFF) = true by decide, if_true]
  generalize hm : State.create _ _ _ _ = m
  have h : m = Made.ok s3 t work := hm.symm.trans hc
  rw [h]

/-! Pools, pumps, rules and drift jobs. -/

def sub0 : Sub := ⟨true, 0, 0, 0, 0, 0x40, 0x41, 0, 1, 1, 0, none, none, none⟩
def sub1 : Sub := { sub0 with loader := false, src := 0x41 }
/-- A loader that waits for its page. -/
def mGrant : State := { mQ with subs := [(0, sub0)], reqs := [⟨0, 0, 1, 0, 0, .loader 0⟩] }
theorem wit_PoolEvents : mGrant.mayGrant ⟨0, 0, 1, 0, 0, .loader 0⟩ = true ∧ SMap.get? mGrant.subs 0 = some sub0 ∧
    mGrant.headReq 0 0 = some ⟨0, 0, 1, 0, 0, .loader 0⟩ := by decide +kernel
/-- The `cpym` at the pc of a context that waits; its landing in h1 of what it reads from h2. -/
def cpymI : Instr := .cpym plain y0 cpymO
def mCast : State := bytes { mG with ctxs := [(0, { mG.me with stall := some .alloc })] } 0x10000 (leBytes 16 (encodeNat cpymI))
def mCasts : State := fetchedIn { mCast with cur := 0 }
theorem mCast_multicasts : ∃ t, mCasts.multicasts y0 cpymO t := by
  obtain ⟨j, h1, h2⟩ := looks_of (x := drJob .cpym cpymO.c y0) (s := mCasts) (p := fun j => (mCasts.accept { j with
    a := .tile (mCasts.me.hreg 2), len := 0, rsi := 0, rds := 1, dstLs := 0x40, land := [],
    rng := ⟨lsKey 0 0x40, 4, true⟩ :: mCasts.tileRng 2 false }).toBool) (by decide +kernel)
  obtain ⟨t, h⟩ := ok_of h2
  have hr : mCasts.receivers mCasts.me.task 0 cpymO.xs = [] := by decide +kernel
  have hd : (mCasts.me.reg cpymO.c.d).toNat = 0x40 := by decide +kernel
  have hc : mCasts.cur = 0 := by decide +kernel
  refine ⟨t, 2, j, rfl, rfl, by decide, by decide +kernel, by decide +kernel, ?_⟩
  simp only [hd, hc, Nat.zero_div, hr]
  refine ⟨by decide, ends_of (by decide +kernel), ends_of (by decide +kernel), by decide +kernel, by decide +kernel,
    (fun _ hx => nomatch hx), (fun _ hx => nomatch hx), ends_of (by decide +kernel), ends_of (by decide +kernel), h1, by decide +kernel, rfl, ?_⟩
  have e : ({ mCasts with reqs := mCasts.reqs.filter fun r => !([] : List Req).contains r } : State) = mCasts := by decide +kernel
  simp only [List.foldl_nil, List.length_nil]
  rw [e]
  simp only [State.landings, List.foldl_nil, show cpymO.c.a = 2 from rfl, show cpymO.rsi = 0 from rfl, show cpymO.rds.toNat = 1 from rfl]
  exact h
theorem wit_PoolEvents_multicast : mCast.waiting 0 = [0] ∧ fetch { mCast with cur := 0 } = .ok (cpymI, mCasts) ∧
    mCasts.hurt 0 cpymI = false ∧
    mCasts.syncWait 0 (some y0) = some mCasts ∧ ∃ t, mCasts.multicasts y0 cpymO t :=
  ⟨by decide +kernel, fetch_of (by decide +kernel), by decide +kernel, rfl, mCast_multicasts⟩
def mLand : State := { mT with jobs := [(7, { Job.empty with op := .cpym, st := .running, a := .tile 0x1001, land := [(0, 0x801)] })] }
theorem wit_PoolEvents_landing : (SMap.get? mLand.jobs 7).any (fun j => j.st == .running && j.land == [(0, 0x801)] && j.fail == none) = true ∧
    mLand.tileOf 0x1001 = some 2 ∧ mLand.viewMoving (.tile 0x1001) = false ∧ mLand.viewMoving (.tile 0x801) = false ∧
    (mLand.viewRead (.tile 0x1001) 0 ((mLand.tile 2).pg * 2048)).isSome = true := by decide +kernel
/-- Its one context blocks on an allocation that its cap of two pages does not allow. -/
def mDead : State := { mT with
  quotas := [(0, ⟨0, 2⟩)], bclk := 65536, dead := [(0, (0, false))]
  ctxs := [(0, { mT.me with stall := some .alloc })], reqs := [⟨0, 0, 1, 0, 0, .ctx 0⟩] }
theorem wit_PoolEvents_deadlock : SMap.get? mDead.dead (0 * 4 + 0) = some (0, false) ∧ 0 + 65536 ≤ mDead.bclk ∧ mDead.deadNow 0 0 = true ∧
    (mDead.part 0).hvec = 0 ∧ mDead.oldestReq 0 0 = some ⟨0, 0, 1, 0, 0, .ctx 0⟩ := by decide +kernel
theorem test_deadlock : after (exec (.poolDeadlock 0 0) mDead) (fun t => SMap.get? t.dead 0 == some (0, true)) = true ∧
    after (exec (.poolDeadlock 0 0) { mDead with bclk := 65535 }) (fun t => SMap.get? t.dead 0 == some (0, false)) = true := by decide +kernel
def mMoved : State := { mT with tileMoves := [⟨2, 0⟩], quotas := [(576 * 8, ⟨0, 1⟩)] }
theorem wit_PoolEvents_move : mMoved.tileMoves.find? (·.key = 2) = some ⟨2, 0⟩ ∧ (mMoved.tile 2).st ≠ .free ∧ mMoved.moves = [] ∧
    mMoved.moveFits ⟨2, 0⟩ = true ∧ 2 / 8192 < 576 ∧ 2 % 8192 < 512 ∧ (∀ y ∈ mMoved.tiles, y.2.gen < 2048) ∧
    mMoved.tilesIn 576 = [] ∧ (mMoved.tile 2).pg = 1 := by decide +kernel
/-- The die pool has every slot and every page free. -/
theorem wit_PoolEvents_arrival : mMoved.MemWf ∧ (∃ i, i < 8192 ∧ ∀ y ∈ mMoved.tilesIn (576 + 0), y.1 ≠ (576 + 0) * 8192 + i) ∧
    (mMoved.tile 2).pg ≤ ((List.range 8192).filter fun i => !((mMoved.tilesIn (576 + 0)).flatMap fun y => y.2.pmap.take y.2.pg).contains i).length := by
  have h : mMoved.tilesIn (576 + 0) = [] := by decide +kernel
  refine ⟨m0_wf, ⟨0, by decide, by rw [h]; intro y hy; cases hy⟩, ?_⟩
  rw [h]
  rw [List.filter_eq_self.mpr (by intro i _; rfl), List.length_range]
  decide +kernel

/-- Tensor 0x40 with one slice stored in the frame at 0x70000, loaded into h1 for the stream of 0x41; and the same frame supplied for
the first slice of 0x41, which is h2. -/
def mPump (sub : Sub) (q : List (Nat × Quota)) (eos : Byte) : State :=
  { bytes (bytes (bytes (bytes (bytes mS 0x2024 [1]) 0x2038 [1]) 0x20A4 [1]) 0x6000 [3, 0, 7]) 0x2000 [eos] with
    subs := [(0, sub)], quotas := q, streams := [(0x41, { Stream.empty with next := 1, slices := [(0, 0x1001)], used := true })] }
theorem wit_PumpEvents_loader : (let s := mPump sub0 [] 7
     SMap.get? s.subs 0 = some sub0 ∧ (match s.tensorFor 0 0x40 with | .ok (_, t) => t.eosv && decide (t.eosi ≤ 0) | .error _ => false) = true) ∧
    (let s := mPump { sub0 with pos := 1 } [] 3
     (match s.tensorFor 0 0x40 with | .ok (_, t) => !t.eosv && decide (t.stored ≤ 1) | .error _ => false) = true) ∧
    (let s := mPump sub0 [(0, ⟨0, 1⟩)] 3
     s.reqs = [] ∧ 0 < (s.quota 0 0).c ∧ 1 ≤ (s.quota 0 0).c) := by decide +kernel
theorem wit_PumpEvents_load : (let s := { mPump { sub0 with grant := some 0x801 } [] 3 with streams := [] }
    s.tileOf 0x801 = some 1 ∧ (s.tile 1).moving = false ∧ (match s.tensorFor 0 0x40 with
     | .ok (u, t) => u.tileOf 0x801 == some 1 && !t.eosv && decide (0 < t.stored) && decide (t.sliceBytes ≤ (u.tile 1).pg * 2048) &&
         decide (u.sliceBytesOf 0 0x41 ≤ (u.tile 1).pg * 2048) && (u.stream 0 0x41).next == 0 &&
         u.sliceCheck 0 0x41 0 0 == none && u.holdsFault 0 0x41 0 0x801 == none && t.sstamp == 0 && (match (u.readTensor 0 0x41).loadSlice 0 0x40 t 0 with
           | .ok (_, vs) => vs.all (·.2 == none)
           | .error _ => false)
     | .error _ => false) = true) := by decide +kernel
/-- With a stamp vector at 0x9000. -/
theorem wit_PumpEvents_stamp : ∀ x ∈ [({ sub0 with grant := some 0x801 }, (0x40 : Nat), (0x2048 : Nat)), (sub1, 0x41, 0x20C8)],
    (let s := bytes (mPump x.1 [] 3) x.2.2 [0, 0x90]
     match s.tensorFor 0 x.2.1 with
     | .ok (u, t) => t.sstamp == 0x9000 && (if x.1.loader then match (u.readTensor 0 0x41).loadSlice 0 0x40 t 0 with
         | .ok (v, vs) => vs.all (·.2 == none) && (v.gvRead 0 (t.sstamp + word (8 * 0)) 8 true).toBool
         | .error _ => false
       else match (u.storeTiles 0 0x41 t 2 (numbered 0 (t.sliceTiles 0))).1.gvWrite 0 (t.sstamp + word (8 * 0))
           (leBytes 8 (u.tile 2).stamp.toNat) true with
         | .ok v => (v.gvWrite 0 (t.addr + 0x38) (leBytes 6 1) true).toBool
         | .error _ => false)
     | .error _ => false) = true := by decide +kernel
/-- A storer at the end of its stream, and one with a slice still to come. -/
def mEnd (e : Nat) : State := { mPump { sub1 with pos := 1 } [] 3 with
  streams := [(0x41, { Stream.empty with next := 1, eosx := some e, used := true })] }
theorem wit_PumpEvents_end : ∀ e ∈ [1, 2], (let s := mEnd e
    ((SMap.get? (s.stream 0 0x41).slices 1).bind s.tileOf = none ∧ (s.stream 0 0x41).eosx = some e) ∧
    (match s.tensorFor 0 0x41 with
     | .ok (u, t) => match u.gvWrite 0 (t.addr + 0x40) (leBytes 6 e) true with
       | .ok v => match v.gvRead 0 t.addr 1 with
         | .ok (_, b) => ((v.markRead 0 t.addr 1).gvWrite 0 t.addr (leBytes 1 (insertField (leNat b) 2 1 1)) true).toBool
         | .error _ => false
       | .error _ => false
     | .error _ => false) = true) := by decide +kernel
/-- R171: EOSV and EOSI are set, and the subscription is gone. -/
theorem test_storer_end : after (exec (.storerSlice 0) (mEnd 1)) (fun t => bit (Mem.readN t.mem 0x2080 1) 2 && Mem.readN t.mem 0x20C0 6 == 1 &&
    t.subs == []) = true := by decide +kernel
theorem wit_PumpEvents_store : (let s := mPump sub1 [] 3
    (SMap.get? (s.stream 0 0x41).slices 0 = some 0x1001 ∧ s.tileOf 0x1001 = some 2 ∧ (s.tile 2).moving = false ∧ 0 < (s.stream 0 0x41).next) ∧
    (match s.tensorFor 0 0x41 with
     | .ok (_, t) => let r := s.storeTiles 0 0x41 t 2 (numbered 0 (t.sliceTiles 0))
         r.2.isNone && t.sstamp == 0 && (match r.1.gvWrite 0 (t.addr + 0x38) (leBytes 6 1) true with
           | .ok u => (u.tile 2).rem != 0
           | .error _ => false)
     | .error _ => false) = true) := by decide +kernel
/-- R170: the first element of the slice, and the slice committed. -/
theorem test_loader : after (exec (.loaderSlice 0) (bytes { mPump { sub0 with grant := some 0x801 } [] 3 with streams := [] } 0x70000 [5, 6]))
    (fun t => t.tileRead 1 0 2 == [5, 6] && (t.stream 0 0x41).next == 1 && (t.tile 1).st == .committed && (SMap.get? t.subs 0).any (·.pos == 1)) =
    true := by decide +kernel
theorem test_storer : after (exec (.storerSlice 0) (mPump sub1 [] 3)) (fun t => Mem.readN t.mem 0x20B8 6 == 1 && (t.tile 2).rem == 1) = true := by
  decide +kernel

/-- The rule of `cpy` s4, f3, f2 installed, with a slice to read: no result tile, with h1 as its result, and firing. -/
def mArm : State := match exec (.cpy plain y0 cpyRule) mS with
  | .next t => { t with quotas := [(0, ⟨0, 1⟩)], streams := [(0x40, { Stream.empty with next := 1, slices := [(0, 0x1001)], used := true })] }
  | _ => mS
def armed0 : Rule := (SMap.get? (mArm.ctx 0).k 0).getD rule0
/-- A rule whose image is no instruction: its run raises a cause. -/
def bad0 : Rule := { armed0 with img0 := 3 }
def mBad : State := mArm.setRules (.task 0) [(0, bad0)]
theorem wit_RuleEvents : (∀ x ∈ [(mArm, armed0, 4), (mBad, bad0, 0)], x.1.ruleAt 0 0 = some (.task 0, x.2.1) ∧ x.1.withdraw (.task 0) = x.1 ∧
      x.1.mayFire 0 0 = true ∧ x.2.1.engine = x.2.2 ∧ (∀ y ∈ x.1.fireable 0 x.2.2, x.1.goesBefore y (0, 0) = false)) ∧
    mArm.ruleReady (.task 0) 0 armed0 = true ∧ armed0.sub = 0 ∧ armed0.pins = [] ∧
    (mArm.fireRun 0 0 (.task 0) armed0).toBool = true ∧
    (match mBad.fireRun 0 0 (.task 0) bad0 with | .error (.trap _ _) => true | _ => false) = true := by decide +kernel
/-- The same with a result to make: it asks for its page. -/
theorem wit_RuleEvents_result : (let r : Rule := { armed0 with tidd := 0x41, outf := 0x01000001, rslt := 0 }
    r.outf.toNat / 2 ^ 30 = 0 ∧ r.outf.toNat / 2 ^ 24 % 64 = 1 ∧ 0 < (mArm.quota 0 0).c ∧ mArm.reqs = [] ∧
    (mArm.setRules (.task 0) [(0, r)]).ruleAt 0 0 = some (.task 0, r) ∧ (mArm.setRules (.task 0) [(0, r)]).ruleDue 0 0 (.task 0) r = true) := by
  decide +kernel
/-- It fires; it ends with its effects, with its cause, or with no read left of its input. -/
def fireOf (s : State) : State := match exec (.ruleFire 0 0 0) s with | .next t => t | _ => s
def ruleIn (s : State) : Rule := (SMap.get? (s.ctx 0).k 0).getD rule0
def firedOf (s : State) : Fired := ((ruleIn s).out).getD (Fired.failed 0)
def mFire : State := fireOf mArm
def mDry : State := mFire.modTile 2 fun t => { t with rem := 0 }
theorem wit_RuleEvents_firing : (∀ s ∈ [mFire, mDry, fireOf mBad], s.ruleAt 0 0 = some (.task 0, ruleIn s) ∧ (ruleIn s).st = .firing ∧
      (ruleIn s).out = some (firedOf s) ∧ (ruleIn s).target = 0 ∧ s.inputTiles 0 (ruleIn s) = [0x1001] ∧ (firedOf s).uses = [] ∧
      s.viewMoving (.tile 0) = false ∧ s.viewMoving (.tile 0x1001) = false) ∧
    (firedOf (fireOf mBad)).cause.isSome = true ∧
    (∀ x ∈ [(mFire, false), (mDry, true)], let s := x.1
      (firedOf s).cause = none ∧ (s.writeFired 0 (firedOf s)).toBool = true ∧ s.resultFault (.task 0) (ruleIn s) (s.sliceBytesOf 0 (ruleIn s).tidd.toNat) = none ∧
      (s.inputFault [0x1001]).isSome = x.2) := by decide +kernel
theorem test_fire : (ruleIn mFire).st = .firing ∧ (ruleIn mFire).pins = [0x1001] ∧ after (exec (.firingEnd 0 0 0) mFire) (fun t =>
    (ruleIn t).cur == 1 && (ruleIn t).st == .armed && (t.tile 2).rem == 1) = true := by decide +kernel
/-- A keeper in its image with a ready rule, one whose image of zeros is read, and one idle in slot 0. -/
def keeper0 : Keeper := { Keeper.empty with save := 0 }
def side0 : SaveSlot := { SaveSlot.empty 0 with keeper := some 3 }
/-- R185: the record of a `cpy` that reads stream 0x40. -/
def kept0 : Rule := { rule0 with img0 := 0x8006020862800001, img1 := 0, img2 := 0, img3 := 0, cur := 0, st := .armed, fcause := 0, rank := 0,
                                 tida := 0x40, tidb := 0xFFFF, tidd := 0xFFFF, outf := 0, carry := 0, ckind := 0, rslt := 0, sub := 0,
                                 subOp := 0, obj := 0, home := 0, pins := [], ft := 0, out := none }
def mKeep (queued : Bool) : State := { bytes (bytes pooled 0x800600 [1, 0, 0x80, 0x62, 8, 2, 6, 0x80]) 0x800626 [1, 0, 0, 0, 0x40, 0, 0xFF, 0xFF, 0xFF, 0xFF] with
  tiles := [(2, { tileA with st := .committed, pmap := [5] })], ctxs := []
  streams := [(0x40, { Stream.empty with next := 1, slices := [(0, 0x1001)], used := true })]
  keepers := [(3, keeper0)], saves := [(0, side0)], deques := if queued then [(0, [.keeper 3])] else [] }
def keptBytes : List Byte := [1, 0, 0x80, 0x62, 8, 2, 6, 0x80] ++ List.replicate 30 0 ++ [1, 0, 0, 0, 0x40, 0, 0xFF, 0xFF, 0xFF, 0xFF] ++
  List.replicate 976 0
theorem kept_rules : ∀ b, (mKeep b).rulesOf (.keeper 3) = [(0, kept0)] := by
  have h : ∀ b, (mKeep b).savedBytes 0 0x600 1024 = keptBytes ∧ (mKeep b).savedBytes 0 0x240 128 = List.replicate 128 0 ∧
      (mKeep b).savedBytes 0 0x6F000 32 = List.replicate 32 0 ∧ SMap.get? (mKeep b).saves 0 = some side0 ∧
      (mKeep b).rulesIn (.keeper 3) = some 0 := by decide +kernel
  intro b
  obtain ⟨h1, h2, h3, h4, h5⟩ := h b
  unfold State.rulesOf
  rw [h5]
  simp only [State.savedRules, h1, h2, h3, h4]
  decide +kernel
theorem kept_ready : ∀ b, (mKeep b).keeperReady 3 = some (0, kept0) := by
  have h : ∀ b, (mKeep b).ruleReady (.keeper 3) 0 kept0 = true := by decide +kernel
  intro b
  rw [State.keeperReady, kept_rules, List.filter_cons, h b, show kept0.st = .armed from rfl]
  rfl
theorem kept_wants (b : Bool) : (mKeep b).keeperWants 3 = true := by
  have h : ∀ b, ((mKeep b).keeper 3).at_ = none ∧ (List.range 7).all (fun i => (mKeep b).pagePresent ((mKeep b).keeper 3).part
      ((mKeep b).saveAddr ((mKeep b).keeper 3).part ((mKeep b).keeper 3).save + word (65536 * i))) = true := by decide +kernel
  simp only [State.keeperWants, kept_ready, (h b).1, (h b).2, Option.isNone_none, Option.isSome_some, Bool.and_self]
/-- It is READY and enters; its entry finds a core; from the deque it takes a slot. -/
theorem wit_RuleEvents_keeper : SMap.get? (mKeep false).keepers 3 = some keeper0 ∧ (mKeep false).keeperWants 3 = true ∧
    (mKeep false).pithead = [] ∧ (mKeep false).deques = [] ∧ (mKeep false).objsMoving 0 = false ∧ (mKeep false).keeperDead 3 = none ∧ (mKeep false).held = [] ∧
    keeper0.at_ = none :=
  ⟨by decide +kernel, kept_wants _, by decide +kernel, by decide +kernel, by decide +kernel, by decide +kernel, rfl, rfl⟩
theorem wit_RuleEvents_dispatch : ∃ c, (mKeep false).pickCore 0 (.keeper 3) = some c := by
  have hi : ∀ b, (((mKeep b).inputTiles ((mKeep b).keeper 3).part kept0).filterMap (mKeep b).tileOf).head? = some 2 := by decide +kernel
  have hc : (mKeep false).keeperCores 3 = coresOf 0 := by
    rw [State.keeperCores, State.keeperHome, kept_ready]
    simp only [Option.bind_some, hi, show 2 / 8192 < 576 by decide, if_true]
    decide +kernel
  simp only [State.pickCore, State.entCores, hc]
  exact Option.isSome_iff_exists.mp (by decide +kernel)
theorem wit_RuleEvents_deque : (mKeep true).pithead.find? (·.ent = Ent.keeper 3) = none ∧
    (mKeep true).deques.find? (fun d => d.2.getLast? = some (Ent.keeper 3)) = some (0, [.keeper 3]) ∧
    ∃ t, (mKeep true).dequeTake 0 = some t := by
  refine ⟨by decide +kernel, by decide +kernel, ?_⟩
  have hd : (mKeep true).deque 0 = [.keeper 3] := by decide +kernel
  have hr : (mKeep true).reservedCore 0 = false := by decide +kernel
  have hs : (mKeep true).entStays (.keeper 3) = true := kept_wants true
  have hp : (mKeep true).placeable 0 (.keeper 3) = some 0 := by decide +kernel
  simp only [State.dequeTake, hd, List.getLast?_singleton, hr, hs, hp, Bool.not_true, Bool.or_self, Bool.false_eq_true, if_false]
  exact ⟨_, rfl⟩
/-- A rule of a keeper that faults. -/
theorem wit_RuleEvents_told : kept0.sub = 0 ∧ kept0.pins = [] := ⟨rfl, rfl⟩
def mLoads : State := { bytes m0 0x200000 [0x3F] with
  ctxs := [(0, { Ctx.empty with slot := .load, keeper := some 3, image := some 0 })], keepers := [(3, { keeper0 with at_ := some 0 })]
  saves := [(0, side0)] }
theorem wit_RuleEvents_load : (mLoads.ctx 0).slot = .load ∧ (mLoads.ctx 0).keeper = some 3 ∧ mLoads.keeperDead 3 = none ∧
    saveKey (mLoads.ctx 0).part keeper0.save = 0 ∧ mLoads.objsMoving 0 = false ∧ ∃ rd, mLoads.readImage 0 = .ok (mLoads, rd) ∧
    rd.consumed = none ∧ rd.broken = false := by
  obtain ⟨rd, h1, _, _, h2⟩ := readImage_of (s := mLoads) (by decide +kernel) (by decide +kernel) (map_of (by decide +kernel))
    (by decide +kernel) rfl
  exact ⟨by decide +kernel, by decide +kernel, by decide +kernel, by decide +kernel, by decide +kernel, rd, h1, h2⟩
theorem wit_RuleEvents_idle : let x : Keeper := { keeper0 with at_ := some 0 }
    let s : State := { mLoads with ctxs := [(0, { Ctx.empty with slot := .res, keeper := some 3 })], bclk := 4096 }
    SMap.get? s.keepers 3 = some x ∧ x.at_ = some 0 ∧ 4096 ≤ s.bclk - x.lastFire ∧ (∀ y ∈ x.k, y.2.st ≠ .firing) ∧ (s.ctx 0).slot = .res ∧
      s.imageFree (0 / 4) = true := by decide +kernel

/-- A `cpy` at the pc of a context that waits for its engine; one accepted job, and one that an edge holds. -/
def cpyI : Instr := .cpy plain y0 (cpyOf 0 0 4)
def mAcc : State := bytes { mT with ctxs := [(0, { mT.me with stall := some .engine })] } 0x10000 (leBytes 8 (encodeNat cpyI))
def mAccs : State := fetchedIn { mAcc with cur := 0 }
theorem wit_DriftEvents_accept : mAcc.waiting 0 = [0] ∧ isDrift cpyI = true ∧ fetch { mAcc with cur := 0 } = .ok (cpyI, mAccs) ∧
    mAccs.hurt 0 cpyI = false ∧ mAccs.syncWait 0 (syncOf cpyI) = some mAccs ∧ ∃ t, mAccs.accepts t cpyI := by
  refine ⟨by decide +kernel, rfl, fetch_of (by decide +kernel), by decide +kernel, rfl, ?_⟩
  have h : (mAccs.me.reg 1).toNat = 64 ∧ endsIn (cvChecks cpyI (cpyOf 0 0 4).c mAccs) () mAccs = true ∧
      endsIn (drRanges (cpyOf 0 0 4).c (endsOf 0 0 4) mAccs) () mAccs = true ∧
      looks (drJob .cpy (cpyOf 0 0 4).c y0) mAccs (fun j => taken mAccs (mAccs.withEnds { j with
        len := 64, kk := 64, tc := false, tilec := false } false (endsOf 0 0 4))) = true ∧ mAccs.me.direct = true ∧
      (mAccs.jobsOn (mAccs.cur / 4)).length < 8 ∧ (mAccs.task mAccs.me.task).launch = none := by decide +kernel
  obtain ⟨h1, h2, h3, h4, h5, h6, h7⟩ := h
  obtain ⟨j, h8, h9⟩ := looks_of h4
  obtain ⟨t, h10⟩ := takes_of h5 h6 h7 h9
  refine ⟨t, j, by decide, by decide, fun hc => absurd hc (by decide), fun hc => absurd rfl hc, ends_of h2, ?_⟩
  rw [show (mAccs.me.reg (cpyOf 0 0 4).c.b).toNat = 64 from h1]
  exact ⟨ends_of h3, h8, h10⟩
def job0 : Job := { Job.empty with st := .running, a := .gv 0x80000000, d := .mem 0x10000, len := 0x10000, scout := 1 }
def mJobs : State := { mT with jobs := [(3, { job0 with st := .accepted }), (4, { job0 with d := .tile 0x801, op := .cpy, st := .running })] }
def mTileJob : State := { mT with jobs := [(3, { job0 with d := .tile 0x801, a := .mem 0x5000, st := .accepted })] }
theorem wit_DriftEvents : mJobs.nextJob 0 = some 3 ∧ mJobs.keepMoves (mJobs.job 3) = false ∧ mTileJob.keepMoves (mTileJob.job 3) = false ∧ (mJobs.job 3).op = .cpy ∧ (mJobs.job 3).d = .mem 0x10000 ∧
    mTileJob.nextJob 0 = some 3 ∧ (mTileJob.job 3).d = .tile 0x801 ∧ (mTileJob.job 3).dir = false ∧ mTileJob.tileOf 0x801 = some 1 ∧
    (mTileJob.tile 1).st = .alloc ∧
    (let s : State := { m0 with jobs := [(3, { job0 with fail := some (exc 0x5B), len := 0 }), (4, { job0 with len := 0 })] }
     (s.job 3).st = .running ∧ (s.job 3).fail.isSome = true ∧ (s.job 4).fail = none ∧ (s.job 4).len = 0 ∧ s.srcPages (s.job 4) = [] ∧
       s.destPages (s.job 4) = []) := by decide +kernel
/-- A source that its destination overlaps, in a page under migration. -/
theorem wit_DriftEvents_moving : (let s : State := { bytes m0 0x200000 [0x8F] with
      jobs := [(3, { job0 with a := .gv 0x10000, d := .gv 0x10010, kk := 64, len := 64, st := .accepted })] }
    s.nextJob 0 = some 3 ∧ s.keepMoves (s.job 3) = true) := by decide +kernel
/-- A source of three pages, of which the pass has translated two; its first byte is in error. -/
def mData (bad : List Nat) : State := { m0 with poison := bad, jobs := [(3, { Job.empty with
  st := .running, a := .gv 0xFFF0, d := .mem 0x8000, len := 0x10020, scout := 1, scouted := [scoutMark .rd 0xFFF0, scoutMark .rd 0x10000] })] }
theorem wit_DriftEvents_data : ∀ x ∈ [(([] : List Nat), (none : Option Cause)), ([0xFFF0], some 0x5B)], (let s := mData x.1
    let j := s.job 3
    j.st = .running ∧ j.fail = none ∧ s.srcPages j = [0xFFF0, 0x10000, 0x20000] ∧ s.destPages j = [] ∧
    j.scoutAt .rd (s.srcPages j) = some 2 ∧ s.jobMoves j = false ∧
    (s.moveOver j (s.piecesBefore j .rd 0x10000)).2.fail.map (·.cause) = x.2) := by decide +kernel
/-- R225: the data of the first page pass as the pass comes to the third. -/
theorem test_canary_data : after (exec (.canaryPass 3 2) (bytes (mData []) 0xFFF0 [5])) (fun t => Mem.readL t.mem 0x8000 1 == [5] &&
    (t.job 3).done == 1 && (t.job 3).scouted.contains (scoutMark .rd 0x20000)) = true := by decide +kernel
/-- A source that no leaf maps, and a destination; a page ahead of each; and no page left. -/
def mScout : State := { m0 with jobs := [(3, job0), (4, { job0 with a := .mem 0x10000, d := .gv 0x80000000, kk := 0x10000 }),
  (5, { job0 with scouted := [scoutMark .rd 0x80000000] })] }
theorem wit_DriftEvents_canary : (∀ id ∈ [3, 4, 5], (mScout.job id).st = .running ∧ (mScout.job id).scout ≠ 0 ∧
      (mScout.job id).fail = none) ∧ mScout.srcPages (mScout.job 3) = [0x80000000] ∧ mScout.destPages (mScout.job 3) = [] ∧
    mScout.srcPages (mScout.job 4) = [] ∧ mScout.destPages (mScout.job 4) = [0x80000000] ∧
    (match mScout.translate 0 0x80000000 .rd, mScout.translate 0 0x80000000 .wr with
      | .fault _, .fault _ => true
      | _, _ => false) = true := by decide +kernel
theorem wit_DriftEvents_scouted : ∀ x ∈ mScout.scoutPages (mScout.job 5), ∀ b ∈ x.2,
    (mScout.job 5).scouted.contains (scoutMark x.1 b) = true := by
  rw [show mScout.scoutPages (mScout.job 5) = [(.rd, [0x80000000]), (.wr, [])] by decide +kernel,
    show (mScout.job 5).scouted = [65536] by decide +kernel]
  intro x hx b hb
  simp only [List.mem_cons, List.not_mem_nil, or_false] at hx
  rcases hx with rfl | rfl
  · rw [List.mem_singleton.mp hb, show scoutMark .rd 0x80000000 = 65536 by decide +kernel]
    simp only [List.contains_cons, BEq.rfl, Bool.true_or]
  · cases hb
/-- 64 bytes at 0x5000 copied to 0x8000; eight bytes filled with a pattern of four. -/
def copyJob : Job := { Job.empty with st := .running, a := .mem 0x5000, d := .mem 0x8000, len := 64 }
def fillJob : Job := { Job.empty with op := .fill, st := .running, d := .mem 0x8000, len := 8, pat := 0x01020304, pw := 4 }
theorem wit_DriftData : m0.MemWf ∧ m0.poison = [] ∧ copyJob.fail = none ∧ 0 < copyJob.len ∧ copyJob.cv = 0 ∧ copyJob.scout = 0 ∧ copyJob.done = 0 ∧
    fillJob.scout = 0 ∧ fillJob.done = 0 ∧ fillJob.op = .fill ∧ 0 < fillJob.pw ∧ fillJob.len % fillJob.pw = 0 ∧
    SMap.get? ({ m0 with jobs := [(7, copyJob)] } : State).jobs 7 = some copyJob ∧ (∀ off n, off + n ≤ 64 →
      ({ m0 with jobs := [(7, copyJob)] } : State).dxFault (0x8000 + off) n = none ∧
      ({ m0 with jobs := [(7, copyJob)] } : State).dxFault (0x5000 + off) n = none) := by
  refine ⟨m0_wf, rfl, rfl, by decide, rfl, rfl, rfl, rfl, rfl, rfl, by decide, by decide, rfl, fun off n h => ?_⟩
  have h1 : ¬ 2 ^ 66 ≤ 0x8000 + off := by omega
  have h2 : ¬ 2 ^ 66 ≤ 0x5000 + off := by omega
  simp only [State.dxFault, h1, h2, decide_false, Bool.false_and, Bool.false_eq_true, if_false, and_self]
/-- A copy onto its own source: what stood there when it started is kept. -/
def overJob : Job := let j : Job := { Job.empty with st := .running, a := .mem 0x5000, d := .mem 0x5010, len := 64 }
  { j with src := (cuts j.d j.a j.len).map fun c => (c.1, some ((List.range c.2).map fun _ => 7)) }
theorem wit_DriftData_kept : overJob.src ≠ [] ∧ (∀ a, overJob.fut = some a → m0.futMoving 0 a = false) ∧
    overJob.src = (cuts overJob.d overJob.a overJob.len).map fun c => (c.1, some ((List.range c.2).map fun i => (fun _ => 7 : Nat → Byte) (c.1 + i))) := by
  refine ⟨by decide +kernel, ?_, rfl⟩
  intro a h
  exact nomatch (h : (none : Option Word) = some a)
theorem test_drift_kept : after (exec (.driftJobEnd 7) (bytes { m0 with jobs := [(7, overJob)] } 0x5000 [1, 2, 3])) (fun t =>
    Mem.readL t.mem 0x5010 2 == [7, 7]) = true := by decide +kernel
theorem test_drift_copy : after (exec (.driftJobEnd 7) (bytes { m0 with jobs := [(7, copyJob)] } 0x5000 [1, 2, 3])) (fun t =>
    Mem.readL t.mem 0x8000 4 == [1, 2, 3, 0] && t.jobs == []) = true := by decide +kernel
theorem test_drift_fill : after (exec (.driftJobEnd 7) { m0 with jobs := [(7, fillJob)] }) (fun t =>
    Mem.readL t.mem 0x8000 8 == [4, 3, 2, 1, 4, 3, 2, 1]) = true := by decide +kernel

/-! The whole machine. -/

/-- The context in slot 0 is next, with an instruction of one doubleword, of two, an event, and time. -/
def mNext (t : Turn) (i : Instr) : State := bytes { m0 with agenda := [t] } 0x10000 (leBytes 16 (encodeNat i))
def mTick (f : Ctx → Ctx) : State := State.tick { bytes (with_ f) 0x10000 (leBytes 16 (encodeNat (.nop plain))) with agenda := [] }
theorem wit_StepRunsDecoded : (mNext (.ctx 0) (.nop plain)).stuck = false ∧
    State.tick { mNext (.ctx 0) (.nop plain) with agenda := [] } = mTick id ∧ (mTick id).canRun 0 = true ∧
    (mTick id).objsMoving 0 = false ∧ ((mTick id).ctx 0).trapDue = false ∧ ((mTick id).ctx 0).upset = false ∧
    (match ({ mTick id with cur := 0 } : State).fetched with
     | .inl (_, i) => i == .nop plain
     | .inr _ => false) = true ∧ ((mTick id).ctx 0).exits ≠ [] ∧
    (match (mTick id).translate 0 0x10000 .ex true with | .ok a d _ _ => !d && !(mTick id).poisoned a 8 | _ => false) = true ∧
    (match decodeHead (encodeNat (.nop plain)), decodeHead (encodeNat (.mma plain y0 (mmaO 1 1))) with
     | .ok m, .ok n => m == 1 && n == 2
     | _, _ => false) = true ∧ (0x10000 : Word).toNat % 65536 + 8 * 2 ≤ 65536 ∧ m0.rulesOn 0 = [] := by decide +kernel
/-- A trap that is due, an upset register file, a context that has ended, and a table under migration; a doubleword that was fetched
before; time that passes where no agent has anything to do. -/
theorem wit_StepRunsDecoded_turns :
    (let s := mTick fun c => { c with async := [exc 0x5A 1] }; s.canRun 0 = true ∧ s.objsMoving 0 = false ∧ (s.ctx 0).trapDue = true) ∧
    (let s := mTick fun c => { c with upset := true }
     s.canRun 0 = true ∧ s.objsMoving 0 = false ∧ (s.ctx 0).trapDue = false ∧ (s.ctx 0).upset = true) ∧
    (mTick fun c => { c with ending := true }).canRun 0 = false ∧
    SMap.get? ({ m0 with icache := [(0x10000, 5)] } : State).icache (0 * 2 ^ 64 + (0x10000 : Word).toNat) = some 5 ∧
    m0.pithead = [] ∧ m0.keepers = [] ∧ (∀ x ∈ m0.ctxs, x.2.stall = none) ∧ m0.rulesOf (.task 0) = [] := by decide +kernel
/-- Where no agent has anything to do, and where one has. -/
theorem wit_StepRunsDecoded_due : (State.reset.tick.due.find? (moves State.reset.tick)).isNone = true ∧ State.reset.tick.nextCtx = none ∧
    (let s : State := State.tick { m0 with parts := [(0, { m0.part 0 with wdog := 1 })], bclk := 5 }
     (s.due.find? (moves s)).isSome = true) := by decide +kernel
/-- R137: of two contexts that consume the last read in one bclk the second gets 0x30. -/
def mLast : State := { bytes mT 0x10000 (leBytes 8 (encodeNat (.tcon plain { a := 2, imm := 1, p := false }))) with
  tiles := [(2, { tileA with st := .committed, rem := 1, pmap := [5], hold := 2 })], holds := [(.task 0, 0x1001), (.task 1, 0x1001)]
  ctxs := [(0, { ctx0 with h := [(2, 0x1001)] }), (1, { ctx0 with h := [(2, 0x1001)], task := 1 })]
  tasks := [(0, { Task.empty with st := .running }), (1, { Task.empty with st := .running })]
  agenda := [.together [] [0, 1]] }
theorem test_step_together : after (step mLast) (fun t => (t.ctx 0).pc == 0x10008 && (t.ctx 1).tcause % 256 == 0x30) = true := by
  decide +kernel
/-- R43: s3 is in error; the instruction that reads it takes 0x5B, one that does not runs. -/
def mHurt (i : Instr) : State := { mNext (.ctx 0) i with ctxs := [(0, { ctx0 with bad := [0x118] })] }
theorem test_step_bad : after (step (mHurt (.add plain { d := 4, a := 3, b := 0, imm := 5, p := false, i := true, w := false, u := false })))
      (fun t => (t.ctx 0).tcause % 256 == 0x5B) = true ∧
    after (step (mHurt (.add plain { d := 3, a := 4, b := 0, imm := 5, p := false, i := true, w := false, u := false })))
      (fun t => (t.ctx 0).tcause == 0 && (t.ctx 0).bad == []) = true := by decide +kernel
/-- A register file in error: the instruction does not run, and its context takes 0x5B. -/
theorem test_step_upset : after (step { (with_ fun c => { c with upset := true }) with agenda := [.ctx 0] }) (fun t =>
    (t.ctx 0).tcause % 256 == 0x5B && (t.ctx 0).pc == 0x10100) = true := by decide +kernel
theorem test_step_nop : after (step (mNext (.ctx 0) (.nop plain))) (fun t => (t.ctx 0).pc == 0x10008) = true := by decide +kernel
theorem test_step_event : after (step (mNext (.event (.dtset 5)) (.nop plain))) (fun t => t.agenda == []) = true := by decide +kernel
theorem wit_EncodeDecode : isCoded (.mma plain y0 (mmaO 1 1)) = true ∧ WellFormed (.mma plain y0 (mmaO 1 1)) = true ∧
    isCoded (.nop ⟨5, 12, 0⟩) = true ∧ WellFormed (.nop ⟨5, 12, 0⟩) = true := by decide +kernel
theorem wit_MemWfStep : (mNext (.ctx 0) (.nop plain)).MemWf ∧ after (step (mNext (.ctx 0) (.nop plain))) (fun _ => true) = true :=
  ⟨Mem.wf_writeL _ _ m0_wf, by decide +kernel⟩

end Sys2Proof.Tests
end

section
/-! PROOFS. O49, QueuePackets: what a queue engine takes from its ring, what each packet does, and what the end of a migration
leaves in memory. -/

namespace Sys2Proof.Machine
open Sys2Proof

/-! R49 to R51: the packet at RIDX. -/

section
variable {s s1 : State} {q i : Nat} {b : List Byte} {w : List Word}

/-- R50: an engine acts on a taken packet of a type while its queue runs. -/
theorem packet_runs {p : List Word → Bool} {f : List Word → State} {t : State} (ht : (s.eng q).taken = some w)
    (hq : s.qstate q = 1) (hp : p w = true) (hf : f w = t) : s.packet q p f = .next t := by
  simp [State.packet, ht, hq, hp, hf]

section
variable (hq : s.qstate q = 1) (ht : (s.eng q).taken = none) (hlt : q < 4096)
  (hr : s.ringRead q (s.qcbField q 0x80 8) = .ok (s1, b)) (hw : ((List.range 8).map fun n => word (slice b (8 * n) 8)) = w)
include hq ht hlt hr hw

/-- R50: a header whose LAP is not that of the lap is no packet yet. -/
theorem queueTake_early
    (hl : b2n (bit (pk w 0 8) 39) ≠ (s.qcbField q 0x80 8 / 2 ^ s.qcbField q 0x10 1 + 1) % 2) : s.queueTake q = s := by
  subst hw
  simp [State.queueTake, hq, ht, Nat.not_le.2 hlt, hr, hl]
/-- R51: the first check that fails faults the queue. -/
theorem queueTake_faults {c : Nat}
    (hl : b2n (bit (pk w 0 8) 39) = (s.qcbField q 0x80 8 / 2 ^ s.qcbField q 0x10 1 + 1) % 2)
    (hc : s1.packetFault q (s.qcbField q 0x80 8) w = some c) : s.queueTake q = s1.queueFault q c (pkTs w) := by
  subst hw
  simp [State.queueTake, hq, ht, Nat.not_le.2 hlt, hr, hl, hc]
/-- R49: a packet that passes the checks is taken. -/
theorem queueTake_takes
    (hl : b2n (bit (pk w 0 8) 39) = (s.qcbField q 0x80 8 / 2 ^ s.qcbField q 0x10 1 + 1) % 2)
    (hc : s1.packetFault q (s.qcbField q 0x80 8) w = none) (hu : partUnknown w = false) :
    s.queueTake q = s1.setEng q { s1.eng q with taken := some w } := by
  subst hw
  simp [State.queueTake, hq, ht, Nat.not_le.2 hlt, hr, hl, hc, hu]
end

/-- A doubleword of a packet's payload. -/
theorem pay_lt (w : List Word) (o : Nat) : pay w o 8 < 2 ^ 64 := by
  exact Nat.lt_of_lt_of_le (leNat_lt _) (Nat.pow_le_pow_right (by decide : 256 > 0) (List.length_take_le 8 _))
theorem word_pay_toNat (w : List Word) (o : Nat) : (word (pay w o 8)).toNat = pay w o 8 :=
  (BitVec.toNat_ofNat _ _).trans (Nat.mod_eq_of_lt (pay_lt w o))

/-! R54: LAUNCH. -/

theorem launchPacket_root {t : Nat} {g : BitVec 16} (hr : (s.eng q).root = some (t, g)) :
    s.launchPacket q w = if s.outside t g then s else s.queueNext q := by
  simp only [State.launchPacket, hr]
theorem launchPacket_creates {s0 : State} {t : Nat} (hr : (s.eng q).root = none)
    (hl : s.launchRoot q w = (s0, .ok (some (s1, t)))) :
    let u := s1.setEng q { s1.eng q with root := some (t, (s1.task t).gen), open_ := (s1.eng q).open_ ++ [s.index q] }
    s.launchPacket q w = if u.outside t (s1.task t).gen then u else u.queueNext q := by
  simp only [State.launchPacket, hr, hl]
theorem launchPacket_refused {s0 : State} {e : Exc} (hr : (s.eng q).root = none) (hl : s.launchRoot q w = (s0, .error e)) :
    s.launchPacket q w = s0.settled q w true e.cause.toNat := by
  simp only [State.launchPacket, hr, hl]
/-- R54: a LAUNCH without a root is a packet like the others. -/
theorem launch_fresh (ht : (s.eng q).taken = some w) (hq : s.qstate q = 1) (hw : pkType w = 1) (hr : (s.eng q).root = none) :
    exec (.launch q) s = .next (s.launchPacket q w) := by
  change execLaunch q s = _
  rw [execLaunch, hr]
  exact packet_runs ht hq (decide_eq_true hw) rfl
/-- R47, R54: a LAUNCH whose root waits goes on in a running queue and in one disabled meanwhile. -/
theorem launch_waiting {t : Nat} {g : BitVec 16} (ht : (s.eng q).taken = some w) (hr : (s.eng q).root = some (t, g))
    (h : s.qstate q = 0 ∨ s.qstate q = 1 ∧ pkType w = 1) :
    exec (.launch q) s = .next (if s.outside t g then s else s.queueNext q) := by
  change execLaunch q s = _
  rw [execLaunch, hr, ht, ← launchPacket_root (w := w) hr]
  rcases h with h0 | ⟨h1, hw⟩
  · simp [h0]
  · have hp := packet_runs (p := (pkType · = 1)) (f := s.launchPacket q) ht h1 (decide_eq_true hw) rfl
    simp [h1, hp]

/-! R55: COPY. -/

theorem copyPacket_accepted {cl n : Nat} {l : List Nat} {j : Job} (hc : s.clustersOf (pchk w) = cl :: l) (hp : pchk w < 8)
    (hn : pay w 16 8 = n) (h1 : 1 ≤ n) (h2 : n ≤ 2 ^ 40) (hj : (s.jobsOn (cl * 12)).length < 8)
    (hJ : j = { Job.empty with
      core := cl * 12, part := pchk w, op := .copy, d := .gv (word (pay w 0 8)), a := .gv (word (pay w 8 8)), len := n,
      fut := if compl w = 0 then none else some (compl w), qn := q, img := s.index q,
      stamp := if bit (pk w 0 8) 48 then pkTs w else 0 }) (ha : s.accept j = .ok s1) :
    s.copyPacket q w = s1.accepted q := by
  have hfit : (8 ≤ pchk w || n = 0 || 2 ^ 40 < n : Bool) = false := by
    simp only [Bool.or_eq_false_iff, decide_eq_false_iff_not]
    omega
  subst hJ
  simp only [State.copyPacket, hc, List.head?_cons, hn, hfit, Nat.not_le.2 hj, ha, Bool.false_eq_true, if_false]

/-! R56: SIGNAL. -/

theorem signalFuture_set {x : State × List Work} {failed : Bool} (hm : s.sigMoving w = false)
    (hx : s.futSet (pchk w) (word (pay w 0 8)) failed (pay w 16 8) = .ok x) :
    s.signalFuture q w failed = (State.work x).queueNext q := by
  simp [State.signalFuture, hm, hx]

/-! R57: WAITF, by the state of the future. -/

section
variable {k : Nat} (hm : s.sigMoving w = false) (hk : s.futKey (pchk w) (word (pay w 0 8)) = .ok (k, s1))
  (hp : s.poisoned k 8 = false)
include hm hk hp

theorem waitPacket_resolved (hv : Mem.readN s.mem k 8 % 4 = 1) : s.waitPacket q w = s1.queueNext q := by
  simp [State.waitPacket, hm, hk, hp, hv]
theorem waitPacket_failed (hv : Mem.readN s.mem k 8 % 4 = 2) : s.waitPacket q w = s1.queueFault q 0x49 (pkTs w) := by
  simp [State.waitPacket, hm, hk, hp, hv]
/-- A queue that waits is registered at the future, whose address its QCB shows. -/
theorem waitPacket_pending (hv : Mem.readN s.mem k 8 % 4 = 0) :
    s.waitPacket q w = { (s1.setQcb q 0x88 1 2).setQcb q 0x90 8 (pay w 0 8) with
      futs := SMap.put s1.futs k (SMap.getD s1.futs k [] ++ [.queue q]) } := by
  simp [State.waitPacket, hm, hk, hp, hv, word_pay_toNat]
end

/-! R58, R310 to R312: UNLOAD. -/

theorem unloadPacket_unknown (hp : pchk w < 8) (hm : s.objsMoving (pchk w) = false)
    (ho : s.findObj (pchk w) (fun o => o.text.toNat = pay w 0 8) = none) :
    s.unloadPacket q w = (s.readObjs (pchk w) none).settled q w true 0x58 := by
  simp [State.unloadPacket, Nat.not_le.2 hp, hm, ho]

section
variable {o : Obj} (hp : pchk w < 8) (hm : s.objsMoving (pchk w) = false)
  (ho : s.findObj (pchk w) (fun o => o.text.toNat = pay w 0 8) = some o)
  (hr : s.readObjs (pchk w) (some o.idx) = s1) (hb : s1.referring (pchk w) o = [])
include hp hm ho hr hb

/-- R310: no linkage word and no context refers to the object, which becomes EMPTY. -/
theorem unloadPacket_free (h0 : pay w 8 1 = 0) (hl : s1.lref (pchk w) o.idx = 0) :
    s.unloadPacket q w = (s1.unloaded (pchk w) o 0).settled q w false 0 := by
  subst hr
  simp [State.unloadPacket, Nat.not_le.2 hp, hm, ho, hb, h0, hl]
/-- R311: an object that linkage words refer to stays; COMPL gives 1. -/
theorem unloadPacket_busy (h0 : pay w 8 1 = 0) (hl : 0 < s1.lref (pchk w) o.idx) :
    s.unloadPacket q w = s1.settled q w false 1 := by
  subst hr
  simp [State.unloadPacket, Nat.not_le.2 hp, hm, ho, h0, hl]
/-- R312: forced, it becomes FORCED. -/
theorem unloadPacket_forced (h0 : pay w 8 1 ≠ 0) (hl : 0 < s1.lref (pchk w) o.idx) :
    s.unloadPacket q w = (s1.unloaded (pchk w) o 2).settled q w false 0 := by
  subst hr
  simp [State.unloadPacket, Nat.not_le.2 hp, hm, ho, hb, h0, Nat.ne_of_gt hl]
end

/-! R58, R226: MIGRATE, and the end of a migration. -/

/-- The size of a leaf that a page size code names. -/
theorem pageBits_of_mem {c n : Nat} (h : (c, n) ∈ [(0, 16), (1, 21), (2, 30)]) : pageBits c = n := by
  simp only [List.mem_cons, Prod.mk.injEq, List.not_mem_nil, or_false] at h
  rcases h with ⟨rfl, rfl⟩ | ⟨rfl, rfl⟩ | ⟨rfl, rfl⟩ <;> rfl

/-- R226 step 1: the leaf is marked MOVING. -/
theorem migratePacket_starts {l : Leaf} (hp : pchk w < 8) (ha : gvForm (word (pay w 0 8)) = true)
    (hl : s.walkFrom (pchk w) (word (pay w 0 8)) [(39, 13), (30, 9), (21, 9), (16, 5)] (s.part (pchk w)).ptroot = .ok l)
    (hs : bits l.ent 7 6 = 0) (hz : (pay w 16 1, l.size) ∈ [(0, 16), (1, 21), (2, 30)]) (hn : pay w 8 8 % 2 ^ l.size = 0)
    (hh : bit l.ent 63 = false) (hg : s.granted (pchk w) (pay w 8 8) (2 ^ l.size) = true) :
    s.migratePacket q w = ({ s with
      mem := Mem.write s.mem l.key (BitVec.ofNat 8 (insertField (Mem.read s.mem l.key).toNat 6 2 2))
      migs := SMap.put s.migs s.nextId
        ⟨pchk w, l.key, entAddr l.ent, pay w 8 8, 2 ^ l.size, compl w, q, s.index q⟩
      nextId := s.nextId + 1 } : State).accepted q := by
  simp [State.migratePacket, Nat.not_le.2 hp, ha, hl, hs, pageBits_of_mem hz, hn, hh, hg]
end

/-! Memory: numbers, filters, and bytes that are moved. -/

theorem Mem.readN_eq_readL (m : SMap Byte) (k n : Nat) : Mem.readN m k n = leNat (Mem.readL m k n) := by
  induction n generalizing k with
  | zero => rfl
  | succ n ih =>
    simp only [Mem.readN, ih, Mem.readL, List.range_succ_eq_map, List.map_cons, List.map_map, leNat, Nat.add_zero]
    congr 3
    exact List.map_congr_left fun i _ => by simp [Nat.add_comm, Nat.add_left_comm]
theorem Mem.writeN_eq_writeL (m : SMap Byte) (k n v : Nat) : Mem.writeN m k n v = Mem.writeL m k (leBytes n v) := by
  induction n generalizing m k v with
  | zero => rfl
  | succ n ih => exact ih _ _ _
/-- A number read back from where it was written. -/
theorem Mem.readN_writeN {m : SMap Byte} (k n v : Nat) (h : Mem.wf m) : Mem.readN (Mem.writeN m k n v) k n = v % 256 ^ n := by
  have hl := Mem.readL_writeL k (leBytes n v) h
  rw [leBytes_length] at hl
  rw [Mem.readN_eq_readL, Mem.writeN_eq_writeL, hl, leNat_leBytes]
theorem Mem.read_writeN_other {m : SMap Byte} {k j n : Nat} (v : Nat) (h : Mem.wf m) (hj : j < k ∨ k + n ≤ j) :
    Mem.read (Mem.writeN m k n v) j = Mem.read m j := by
  rw [Mem.writeN_eq_writeL]
  exact Mem.read_writeL_other _ h (by rwa [leBytes_length])
theorem Mem.readN_lt (m : SMap Byte) (k n : Nat) : Mem.readN m k n < 256 ^ n := by
  have h := leNat_lt (Mem.readL m k n)
  rwa [Mem.readL_length, ← Mem.readN_eq_readL] at h

/-- What a key of a table holds. -/
theorem SMap.get?_of_mem {β : Type} {m : SMap β} (h : SMap.Rising m) {k : Nat} {v : β} (hx : (k, v) ∈ m) : SMap.get? m k = some v := by
  induction m with
  | nil => cases hx
  | cons e r ih =>
    obtain ⟨hk, hr⟩ := List.pairwise_cons.1 h
    rcases List.mem_cons.1 hx with rfl | hx
    · simp [SMap.get?]
    · have hlt : e.1 < k := hk _ hx
      simp [SMap.get?, show k ≠ e.1 by omega, show ¬ k < e.1 by omega, ih hr hx]
theorem SMap.mem_of_get? {β : Type} {m : SMap β} {k : Nat} {v : β} (h : SMap.get? m k = some v) : (k, v) ∈ m := by
  induction m with
  | nil => cases h
  | cons e r ih =>
    unfold SMap.get? at h
    split at h
    · next hk => cases h; cases hk; exact List.mem_cons_self
    · split at h
      · cases h
      · exact List.mem_cons_of_mem _ (ih h)
theorem Mem.read_of_mem {m : SMap Byte} (h : Mem.wf m) {k : Nat} {v : Byte} (hx : (k, v) ∈ m) : Mem.read m k = v := by
  simp [Mem.read, SMap.getD, SMap.get?_of_mem h.1 hx]
/-- A byte that is not listed reads as one that was never written. -/
theorem Mem.read_of_not_mem {m : SMap Byte} {k : Nat} (h : ∀ v, (k, v) ∉ m) : Mem.read m k = Mem.fill := by
  cases hg : SMap.get? m k with
  | none => simp [Mem.read, SMap.getD, hg]
  | some v => exact absurd (SMap.mem_of_get? hg) (h v)

theorem Mem.read_clear_inside {m : SMap Byte} {lo n k : Nat} (hk : lo ≤ k ∧ k < lo + n) : Mem.read (Mem.clear m lo n) k = Mem.fill := by
  refine Mem.read_of_not_mem fun v hv => ?_
  have := (List.mem_filter.1 hv).2
  simp only [Bool.or_eq_true, decide_eq_true_eq] at this
  omega
theorem Mem.read_clear_outside {m : SMap Byte} (h : Mem.wf m) {lo n k : Nat} (hk : k < lo ∨ lo + n ≤ k) :
    Mem.read (Mem.clear m lo n) k = Mem.read m k := by
  cases hg : SMap.get? m k with
  | none =>
    have hn : ∀ v, (k, v) ∉ m := fun v hv => by simp [SMap.get?_of_mem h.1 hv] at hg
    rw [Mem.read_of_not_mem hn, Mem.read_of_not_mem (m := Mem.clear m lo n) fun v hv => hn v (List.mem_filter.1 hv).1]
  | some v =>
    have hv := SMap.mem_of_get? hg
    rw [Mem.read_of_mem h hv, Mem.read_of_mem (Mem.wf_clear lo n h) (List.mem_filter.2 ⟨hv, by simpa using hk⟩)]

/-- The memory with listed bytes written where `f` moves them. -/
def Mem.relocate (f : Nat → Nat) (l : SMap Byte) (m : SMap Byte) : SMap Byte := l.foldl (fun mm x => Mem.write mm (f x.1) x.2) m
theorem Mem.wf_relocate (f : Nat → Nat) (l : SMap Byte) {m : SMap Byte} (h : Mem.wf m) : Mem.wf (Mem.relocate f l m) := by
  induction l generalizing m with
  | nil => exact h
  | cons x l ih => exact ih (Mem.wf_write _ _ h)
/-- A byte to which none is moved. -/
theorem Mem.read_relocate_other {f : Nat → Nat} {l m : SMap Byte} {k : Nat} (h : Mem.wf m) (hk : ∀ x ∈ l, f x.1 ≠ k) :
    Mem.read (Mem.relocate f l m) k = Mem.read m k := by
  induction l generalizing m with
  | nil => rfl
  | cons x l ih =>
    exact (ih (Mem.wf_write _ _ h) fun y hy => hk y (List.mem_cons_of_mem _ hy)).trans
      (Mem.read_write_other _ h (hk x List.mem_cons_self).symm)
/-- A byte that is moved to a place of its own. -/
theorem Mem.read_relocate_at {f : Nat → Nat} {l m : SMap Byte} {j : Nat} {v : Byte} (h : Mem.wf m) (hx : (j, v) ∈ l)
    (hl : SMap.Rising l) (hf : ∀ x ∈ l, f x.1 = f j → x.1 = j) : Mem.read (Mem.relocate f l m) (f j) = v := by
  induction l generalizing m with
  | nil => cases hx
  | cons x l ih =>
    obtain ⟨hlt, hl⟩ := List.pairwise_cons.1 hl
    rcases List.mem_cons.1 hx with rfl | hx
    · refine (Mem.read_relocate_other (Mem.wf_write _ _ h) fun y hy he => ?_).trans (Mem.read_write_same _ _ h)
      exact Nat.ne_of_gt (hlt y hy) (hf y (List.mem_cons_of_mem _ hy) he)
    · exact ih (Mem.wf_write _ _ h) hx hl fun y hy => hf y (List.mem_cons_of_mem _ hy)

/-! R226: the page after its migration. -/

/-- A byte of the page, and where a byte lies once the page has moved. -/
def Mig.inOld (m : Mig) (k : Nat) : Bool := m.old ≤ k && k < m.old + m.size
def Mig.dest (m : Mig) (k : Nat) : Nat := if m.inOld k then m.new + (k - m.old) else k
/-- The leaf with the new frame and STATE 0. -/
def Mig.entry (m : Mig) (e : Nat) : Nat := insertField (insertField e 8 48 (m.new / 256)) 6 2 0
/-- The memory with the page copied to its new frame. -/
def Mig.copied (m : Mig) (mem : SMap Byte) : SMap Byte :=
  Mem.relocate m.dest (mem.filter fun x => m.inOld x.1) (Mem.clear mem m.new m.size)
/-- The memory when the migration has ended. -/
def Mig.memory (m : Mig) (mem : SMap Byte) : SMap Byte := Mem.writeN (m.copied mem) m.leaf 8 (m.entry (Mem.readN mem m.leaf 8))

/-- What the end of a migration leaves before its COMPL is resolved. -/
theorem migrated_eq (s : State) (id : Nat) (m : Mig) :
    ∃ t : State, s.migrated id m = State.heldOn (State.work (t.packetDone m.q m.idx, [.resolve m.part m.compl false 0])) ∧
      t.mem = m.memory s.mem ∧ t.migs = SMap.del s.migs id ∧ t.tasks = s.tasks ∧ t.qs = s.qs :=
  ⟨_, rfl, rfl, rfl, rfl, rfl⟩

theorem Mig.inOld_iff (m : Mig) (k : Nat) : m.inOld k = true ↔ m.old ≤ k ∧ k < m.old + m.size := by
  simp [Mig.inOld]
theorem Mig.dest_inOld {m : Mig} {k : Nat} (h : m.inOld k = true) : m.dest k = m.new + (k - m.old) := if_pos h

section
variable (m : Mig) {mem : SMap Byte} (h : Mem.wf mem)
include h

theorem Mig.wf_copied : Mem.wf (m.copied mem) := Mem.wf_relocate _ _ (Mem.wf_clear _ _ h)
/-- The new frame holds the page, whose unlisted bytes read as before. -/
theorem Mig.read_copied_inside {i : Nat} (hi : i < m.size) : Mem.read (m.copied mem) (m.new + i) = Mem.read mem (m.old + i) := by
  have hin : m.inOld (m.old + i) = true := (m.inOld_iff _).2 (by omega)
  have hd : m.dest (m.old + i) = m.new + i := by rw [Mig.dest_inOld hin]; omega
  have hone : ∀ x ∈ mem.filter fun x => m.inOld x.1, m.dest x.1 = m.new + i → x.1 = m.old + i := fun x hx he => by
    have hx := (List.mem_filter.1 hx).2
    rw [Mig.dest_inOld hx] at he
    have := (m.inOld_iff _).1 hx
    omega
  cases hg : SMap.get? mem (m.old + i) with
  | some v =>
    have hv := SMap.mem_of_get? hg
    rw [Mem.read_of_mem h hv, ← hd]
    exact Mem.read_relocate_at (Mem.wf_clear _ _ h) (List.mem_filter.2 ⟨hv, hin⟩) (h.1.filter _) fun x hx he => hone x hx (he.trans hd)
  | none =>
    have hn : ∀ v, (m.old + i, v) ∉ mem := fun v hv => by simp [SMap.get?_of_mem h.1 hv] at hg
    have hmove : Mem.read (m.copied mem) (m.new + i) = Mem.read (Mem.clear mem m.new m.size) (m.new + i) :=
      Mem.read_relocate_other (Mem.wf_clear _ _ h) fun x hx he => hn x.2 (hone x hx he ▸ (List.mem_filter.1 hx).1)
    rw [hmove, Mem.read_clear_inside (by omega), Mem.read_of_not_mem hn]
/-- Outside the new frame nothing is copied. -/
theorem Mig.read_copied_outside {k : Nat} (hk : k < m.new ∨ m.new + m.size ≤ k) : Mem.read (m.copied mem) k = Mem.read mem k := by
  refine (Mem.read_relocate_other (Mem.wf_clear _ _ h) fun x hx he => ?_).trans (Mem.read_clear_outside h hk)
  have hx := (List.mem_filter.1 hx).2
  rw [Mig.dest_inOld hx] at he
  have := (m.inOld_iff _).1 hx
  omega

theorem Mig.read_memory_inside (hl : m.leaf + 8 ≤ m.new ∨ m.new + m.size ≤ m.leaf) {i : Nat} (hi : i < m.size) :
    Mem.read (m.memory mem) (m.new + i) = Mem.read mem (m.old + i) :=
  (Mem.read_writeN_other _ (m.wf_copied h) (by omega)).trans (m.read_copied_inside h hi)
theorem Mig.read_memory_outside {k : Nat} (hk : k < m.new ∨ m.new + m.size ≤ k) (hl : k < m.leaf ∨ m.leaf + 8 ≤ k) :
    Mem.read (m.memory mem) k = Mem.read mem k :=
  (Mem.read_writeN_other _ (m.wf_copied h) hl).trans (m.read_copied_outside h hk)
theorem Mig.leaf_memory : Mem.readN (m.memory mem) m.leaf 8 = m.entry (Mem.readN mem m.leaf 8) % 256 ^ 8 :=
  Mem.readN_writeN _ _ _ (m.wf_copied h)
end

/-- The entry names the new frame, is PRESENT, and keeps its low bits. -/
theorem Mig.entry_fields {m : Mig} {e : Nat} (he : e < 256 ^ 8) (ha : m.new % 256 = 0) (hn : m.new < 2 ^ 56) :
    entAddr (m.entry e % 256 ^ 8) = m.new ∧ bits (m.entry e % 256 ^ 8) 7 6 = 0 ∧
      bits (m.entry e % 256 ^ 8) 5 0 = bits e 5 0 := by
  simp only [Mig.entry, insertField, entAddr, bits, Nat.reducePow, Nat.reduceAdd, Nat.reduceSub] at *
  omega

/-! The statement. -/

section
variable {s s0 s1 : State} {q : Nat} {w : List Word}

/-- A SIGNAL to a semaphore passes where the partition owns the core, and faults the queue elsewhere (R56). -/
theorem signalSemaphore_owned (ht : (s.eng q).taken = some w) (hq : s.qstate q = 1) (hw : pkType w = 3) (hk : pay w 8 1 = 2)
    (hc : pay w 10 2 < 576) (ho : s.owns (pchk w) (pay w 10 2 / 12) = true) :
    exec (.signalSemaphore q) s = .next ((s.semAdd (pay w 10 2) (pay w 9 1) (pay w 12 2)).queueNext q) := by
  refine packet_runs ht hq (by simp [hw, hk]) ?_
  simp [clusterOf, Nat.not_le.2 hc, ho]
theorem signalSemaphore_foreign (ht : (s.eng q).taken = some w) (hq : s.qstate q = 1) (hw : pkType w = 3) (hk : pay w 8 1 = 2)
    (h : 576 ≤ pay w 10 2 ∨ s.owns (pchk w) (pay w 10 2 / 12) = false) :
    exec (.signalSemaphore q) s = .next (s.queueFault q 0x4D (pkTs w)) := by
  refine packet_runs ht hq (by simp [hw, hk]) ?_
  simp [clusterOf, h]

/-- R57: QBAR waits in STATE 3 for the packets before it. -/
theorem qbar_complete (ht : (s.eng q).taken = some w) (hq : s.qstate q = 1) (hw : pkType w = 5) (ho : (s.eng q).open_ = []) :
    exec (.qbar q) s = .next (s.settled q w false 0) := by
  change execQbar q s = _
  simp [execQbar, ht, hq, hw, ho]
theorem qbar_waits (ht : (s.eng q).taken = some w) (hq : s.qstate q = 1) (hw : pkType w = 5) (ho : (s.eng q).open_ ≠ []) :
    exec (.qbar q) s = .next (s.setQcb q 0x88 1 3) := by
  change execQbar q s = _
  simp [execQbar, ht, hq, hw, ho]
end

/-- R226: what the end of a migration leaves, with every byte that it does not touch. -/
theorem migrationComplete_effect {s : State} {id : Nat} {m : Mig} (hs : s.MemWf) (hm : SMap.get? s.migs id = some m)
    (ha : m.new % 256 = 0) (hn : m.new < 2 ^ 56) (hl : m.leaf + 8 ≤ m.new ∨ m.new + m.size ≤ m.leaf) :
    ∃ t : State, exec (.migrationComplete id) s = .next (State.heldOn (State.work (t.packetDone m.q m.idx,
        [.resolve m.part m.compl false 0]))) ∧
      (∀ i, i < m.size → Mem.read t.mem (m.new + i) = Mem.read s.mem (m.old + i)) ∧
      entAddr (Mem.readN t.mem m.leaf 8) = m.new ∧ bits (Mem.readN t.mem m.leaf 8) 7 6 = 0 ∧
      bits (Mem.readN t.mem m.leaf 8) 5 0 = bits (Mem.readN s.mem m.leaf 8) 5 0 ∧
      (∀ k, (k < m.new ∨ m.new + m.size ≤ k) → (k < m.leaf ∨ m.leaf + 8 ≤ k) → Mem.read t.mem k = Mem.read s.mem k) ∧
      t.migs = SMap.del s.migs id ∧ t.tasks = s.tasks ∧ t.qs = s.qs := by
  obtain ⟨t, hx, hmem, hmigs, htasks, hqs⟩ := migrated_eq s id m
  obtain ⟨haddr, hstate, hlow⟩ := Mig.entry_fields (m := m) (Mem.readN_lt s.mem m.leaf 8) ha hn
  refine ⟨t, ?_, ?_, ?_, ?_, ?_, ?_, hmigs, htasks, hqs⟩
  · change execMigrationComplete id s = _
    rw [execMigrationComplete, hm]
    exact congrArg _ hx
  · intro i hi
    rw [hmem, m.read_memory_inside hs hl hi]
  · rw [hmem, m.leaf_memory hs, haddr]
  · rw [hmem, m.leaf_memory hs, hstate]
  · rw [hmem, m.leaf_memory hs, hlow]
  · intro k hk hkl
    rw [hmem, m.read_memory_outside hs hk hkl]

/-- R49 to R51: the header decides whether a packet is taken. -/
theorem queueTake_cases {s s1 : State} {q : Nat} {b : List Byte} (hq : s.qstate q = 1) (ht : (s.eng q).taken = none) (hlt : q < 4096)
    (hr : s.ringRead q (s.qcbField q 0x80 8) = .ok (s1, b)) :
    let i := s.qcbField q 0x80 8
    let w := (List.range 8).map fun n => word (slice b (8 * n) 8)
    let lap := b2n (bit (pk w 0 8) 39)
    (lap ≠ (i / 2 ^ s.qcbField q 0x10 1 + 1) % 2 → exec (.queueTake q) s = .next s) ∧
    (lap = (i / 2 ^ s.qcbField q 0x10 1 + 1) % 2 →
      (∀ c, s1.packetFault q i w = some c → exec (.queueTake q) s = .next (s1.queueFault q c (pkTs w))) ∧
      (s1.packetFault q i w = none → partUnknown w = false →
        exec (.queueTake q) s = .next (s1.setEng q { s1.eng q with taken := some w }))) := by
  have run {t : State} (h : s.queueTake q = t) : exec (.queueTake q) s = .next t := congrArg Host.Outcome.next h
  exact ⟨fun hl => run (queueTake_early hq ht hlt hr rfl hl), fun hl =>
    ⟨fun _ hc => run (queueTake_faults hq ht hlt hr rfl hl hc), fun hc hu => run (queueTake_takes hq ht hlt hr rfl hl hc hu)⟩⟩

/-- Settles O49: the ring's header, each packet by its type, and the memory after a migration, from the lemma of each. -/
theorem queuePackets : Obligations.QueuePackets := by
  refine ⟨fun s s0 s1 q => ⟨fun b hq ht hlt => queueTake_cases hq ht hlt, ?_, ?_⟩,
    fun s id m hs hm ha hn _ hl => migrationComplete_effect hs hm ha hn hl⟩
  · intro w ht hq p i
    refine ⟨?launch, ?refused, ?waiting, ?copy, ?resolve, ?fail, ?semaphore, ?waitf, ?qbar, ?unknown, ?unload, ?migrate, ?void⟩
    case launch =>
      intro t hw hr hl
      rw [launch_fresh ht hq hw hr, launchPacket_creates hr hl]
    case refused =>
      intro e hw hr hl
      rw [launch_fresh ht hq hw hr, launchPacket_refused hr hl]
    case waiting => exact fun t g hw hr => launch_waiting ht hr (.inr ⟨hq, hw⟩)
    case copy =>
      intro cl l n hw hc hp h1 h2 hj ha
      exact packet_runs ht hq (decide_eq_true hw) (copyPacket_accepted hc hp rfl h1 h2 hj rfl ha)
    case resolve => exact fun x hw hk hm hx => packet_runs ht hq (by simp [hw, hk]) (signalFuture_set hm hx)
    case fail => exact fun x hw hk hm hx => packet_runs ht hq (by simp [hw, hk]) (signalFuture_set hm hx)
    case semaphore => exact fun hw hk => ⟨signalSemaphore_owned ht hq hw hk, signalSemaphore_foreign ht hq hw hk⟩
    case waitf =>
      intro k hw hm hk hp st
      have run {t : State} (h : s.waitPacket q w = t) : exec (.waitf q) s = .next t := packet_runs ht hq (decide_eq_true hw) h
      exact ⟨fun hv => run (waitPacket_resolved hm hk hp hv), fun hv => run (waitPacket_failed hm hk hp hv),
        fun hv => run (waitPacket_pending hm hk hp hv)⟩
    case qbar => exact fun hw => ⟨qbar_complete ht hq hw, qbar_waits ht hq hw⟩
    case unknown => exact fun hw hp hm ho => packet_runs ht hq (decide_eq_true hw) (unloadPacket_unknown hp hm ho)
    case unload =>
      intro o hw hp hm ho r hb
      have run {t : State} (h : s.unloadPacket q w = t) : exec (.unload q) s = .next t := packet_runs ht hq (decide_eq_true hw) h
      exact ⟨fun h0 hl => run (unloadPacket_free hp hm ho rfl hb h0 hl), fun h0 hl => run (unloadPacket_busy hp hm ho rfl hb h0 hl),
        fun h0 hl => run (unloadPacket_forced hp hm ho rfl hb h0 hl)⟩
    case migrate =>
      intro l a new hw hp ha hl hs hz hn hh hg
      exact packet_runs ht hq (decide_eq_true hw) (migratePacket_starts hp ha hl hs hz hn hh hg)
    case void => exact fun hw => packet_runs ht hq (decide_eq_true hw) rfl
  · exact fun w t g ht hr h0 => launch_waiting ht hr (.inl h0)

end Sys2Proof.Machine
end

section
/-! PROOFS. O50, PartitionOperations: what each packet of the driver does, the samples and windows of a monitor, and the ends of a
reset and of a move. -/

namespace Sys2Proof.Machine
open Sys2Proof

/-! R60: an operation, done or refused. -/

section
variable {s s1 : State} {q : Nat} {w : List Word}

theorem orFail_none (done : State) : s.orFail q w none done = done.settled q w false 0 := rfl
theorem orFail_some (c : Nat) (done : State) : s.orFail q w (some c) done = s.settled q w true c := rfl

theorem partOp_runs {op : Nat} {f : List Word → State} {t : State} (ht : (s.eng q).taken = some w) (hq : s.qstate q = 1)
    (hw : pkType w = 8) (ho : pay w 0 1 = op) (hf : f w = t) : s.partOp q op f = .next t :=
  packet_runs ht hq (by simp [hw, ho]) hf
/-- A QSTATE packet that names a queue by its number, with one of the three codes of R60. -/
theorem queueOp_runs {op : Nat} {f : List Word → Nat → State} {t : State} (ht : (s.eng q).taken = some w) (hq : s.qstate q = 1)
    (hw : pkType w = 8) (ho : pay w 0 1 = 8) (h0 : 0 < arg16 w) (hn : arg16 w < 4096) (ha : argA w = op) (h3 : op < 3)
    (hf : f w (arg16 w) = t) : s.queueOp q op f = .next t := by
  refine packet_runs ht hq (by simp [hw, ho, ha]) ?_
  simp [ha, Nat.ne_of_gt h0, Nat.not_le.2 hn, Nat.not_le.2 h3, hf]

theorem active_iff {p : Nat} : s.active p = true ↔ p < 8 ∧ (s.part p).st = .active := by
  simp [State.active]
/-- The numbers 0xFE and 0xFF name no partition. -/
theorem active_lt {p : Nat} (h : s.active p = true) : p < 8 := (active_iff.1 h).1

/-- What names one of the instances of a task alone names the task. -/
theorem any_contains_singleton (x : Option Nat) (t : Nat) : x.any [t].contains = true ↔ x = some t := by
  cases x <;> simp
/-- The arguments name a cluster that no move is on, and nobody or a partition that may receive it. -/
theorem partMove_arguments (hn : arg16 w < 48) (hm : ∀ m ∈ s.moves, m.cluster ≠ arg16 w)
    (hd : pid w = 0xFF ∨ s.active (pid w) = true ∧ s.descriptorBad (s.part (pid w)).desc = false) :
    (48 ≤ arg16 w || !(pid w = 0xFF || s.active (pid w)) || (pid w != 0xFF && s.descriptorBad (s.part (pid w)).desc) : Bool) = false ∧
      s.moves.any (·.cluster = arg16 w) = false := by
  refine ⟨?_, by simpa using hm⟩
  rcases hd with hd | ⟨ha, hb⟩
  · simp [hd, Nat.not_le.2 hn]
  · simp [ha, hb, Nat.not_le.2 hn]

/-- The contexts that a partition has in slots, and those among them that a move saves, as the model tests them. -/
theorem resident_eq (s : State) (k p : Nat) :
    ((s.ctx k).slot != .free && decide ((s.ctx k).part = p)) = decide ((s.ctx k).slot ≠ .free ∧ (s.ctx k).part = p) := by
  rw [Bool.eq_iff_iff]
  simp only [Bool.and_eq_true, bne_iff_ne, decide_eq_true_eq]
theorem mustSave_eq (s : State) (k : Nat) :
    ((s.ctx k).keeper.isNone && (s.ctx k).slot != .save) = decide ((s.ctx k).keeper = none ∧ (s.ctx k).slot ≠ .save) := by
  rw [Bool.eq_iff_iff]
  simp only [Bool.and_eq_true, bne_iff_ne, decide_eq_true_eq, Option.isNone_iff_eq_none]

section
variable (ht : (s.eng q).taken = some w) (hq : s.qstate q = 1) (hw : pkType w = 8)
include ht hq hw

/-! R59: CREATE. -/

theorem partCreate_done (ho : pay w 0 1 = 1) (hp : pid w < 8) (hu : (s.part (pid w)).st = .unused) (ha : argA w < 2 ^ 48)
    (hc : ∀ c, bit (argA w) c = true → s.ownerOf c = none) (hd : s.descriptorBad (argB w) = false) :
    exec (.partCreate q) s = .next ((((List.range 48).filter (bit (argA w))).foldl (fun u c => u.passCluster c (some (pid w)))
      (s.setPart (pid w) (s.partOfDesc (argB w)))).settled q w false 0) := by
  refine partOp_runs ht hq hw ho ?_
  have hfree : ((List.range 48).filter (bit (argA w))).any (fun c => (s.ownerOf c).isSome) = false := by
    simp only [List.any_eq_false, List.mem_filter]
    exact fun c h => by simp [hc c h.2]
  simp only [Nat.not_le.2 hp, hu, Nat.not_le.2 ha, hfree, hd, decide_false, bne_self_eq_false, Bool.or_false, Bool.false_eq_true, if_false,
    orFail_none]
theorem partCreate_used (ho : pay w 0 1 = 1) (hu : (s.part (pid w)).st ≠ .unused) :
    exec (.partCreate q) s = .next (s.settled q w true 0x5E) :=
  partOp_runs ht hq hw ho (by simp [hu, orFail_some])

/-! R62: RESET. -/

theorem partReset_active (ho : pay w 0 1 = 2) (ha : s.active (pid w) = true) :
    let u := (s.firingsOf (pid w)).foldl (fun u x => u.endFiring x.1 x.2) s
    exec (.partReset q) s = .next (if u.firingsOf (pid w) = [] then ((u.setPart (pid w) { u.part (pid w) with
      st := .resetting, reset := some (q, s.index q, compl w) }).resetPart (pid w)).accepted q else u) := by
  refine partOp_runs ht hq hw ho ?_
  simp only [ha, Bool.not_true, Bool.false_eq_true, if_false, bne_iff_ne, ite_not]
theorem partReset_inactive (ho : pay w 0 1 = 2) (ha : s.active (pid w) = false) :
    exec (.partReset q) s = .next (s.settled q w true 0x5E) :=
  partOp_runs ht hq hw ho (by simp [ha])

/-! R60: WEIGHT. -/

theorem partWeight_done (ho : pay w 0 1 = 4) (ha : s.active (pid w) = true) (h1 : 1 ≤ arg16 w) (h2 : arg16 w ≤ 255) :
    exec (.partWeight q) s = .next ((s.setPart (pid w) { s.part (pid w) with weight := arg16 w }).settled q w false 0) :=
  partOp_runs ht hq hw ho (by simp [ha, h1, h2, orFail_none])
theorem partWeight_refused (ho : pay w 0 1 = 4) (h : arg16 w = 0 ∨ 255 < arg16 w) :
    exec (.partWeight q) s = .next (s.settled q w true 0x5E) := by
  have hn : ¬(1 ≤ arg16 w ∧ arg16 w ≤ 255) := by omega
  refine partOp_runs ht hq hw ho ?_
  simp only [Bool.and_assoc, Bool.and_eq_true, decide_eq_true_eq, hn, and_false, if_false, orFail_some]

/-! R60: QUOTA of a core's pool. -/

/-- R60: the cap holds the guarantee, and the pool the cap and the guarantees of all partitions; else 0x35. -/
theorem partQuota_eq (ho : pay w 0 1 = 5) (ha : s.active (pid w) = true) (hn : arg16 w < 576) :
    let others := ((List.range 8).filter (· != pid w)).foldl (fun m o => m + (s.quota (arg16 w) o).g) 0
    let g := bits (argA w) 31 0
    let c := bits (argA w) 63 32
    exec (.partQuota q) s = .next (s.orFail q w
      (if c < g ∨ s.poolPages (arg16 w) < c ∨ s.poolPages (arg16 w) < others + g then some 0x35 else none)
      { s with quotas := SMap.put s.quotas (arg16 w * 8 + pid w) ⟨g, c⟩ }) := by
  have hmod : arg16 w % 4096 = arg16 w := Nat.mod_eq_of_lt (by omega)
  have hdie : bit (arg16 w) 15 = false := by simp only [bit, decide_eq_false_iff_not]; omega
  have hres : bits (arg16 w) 14 12 = 0 := by simp only [bits]; omega
  refine partOp_runs ht hq hw ho ?_
  simp [ha, hmod, hdie, hres, Nat.not_le.2 hn, or_assoc]

/-! R60, R63: HBM. -/

theorem partHbm_done (ho : pay w 0 1 = 6) (ha : s.active (pid w) = true) (hn : arg16 w = 0xFF) (hl : argA w % 2 ^ 30 = 0)
    (hz : argB w % 2 ^ 30 = 0) (hpos : 0 < argB w) (hin : inHbm (argA w) = true) (hend : argA w % 2 ^ 37 + argB w ≤ stackBytes) :
    exec (.partHbm q) s = .next ((s.grantRange (pid w) 0xFF (argA w) (argB w)).settled q w false 0) := by
  refine partOp_runs ht hq hw ho ?_
  simp only [ha, hn, hl, hz, hin, Nat.ne_of_gt hpos, Nat.not_lt.2 hend]
  rfl

/-! R46, R47, R52: QASSIGN and QSTATE. -/

theorem partQassign_done (ho : pay w 0 1 = 7) (ha : s.active (pid w) = true) (h0 : 0 < arg16 w) (hn : arg16 w < 4096)
    (hs : s.qstate (arg16 w) = 0) (hA : argA w = 0xFF) :
    exec (.partQassign q) s =
      .next ((((s.setQcb (arg16 w) 0x11 1 (pid w)).setQcb (arg16 w) 0x12 1 0xFF).setEng (arg16 w) (s.eng (arg16 w))).settled
        q w false 0) := by
  refine partOp_runs ht hq hw ho ?_
  simp [ha, Nat.ne_of_gt h0, Nat.not_le.2 hn, hs, hA, orFail_none]

section
variable (ho : pay w 0 1 = 8) (h0 : 0 < arg16 w) (hn : arg16 w < 4096)
include ho h0 hn

theorem qstateDisable_done (hA : argA w = 0) : exec (.qstateDisable q) s = .next ((s.stopQueue (arg16 w)).settled q w false 0) := by
  change execQstateDisable q s = _
  exact queueOp_runs ht hq hw ho h0 hn hA (by decide) rfl
theorem qstateEnable_eq (hA : argA w = 1) (hs : s.qstate (arg16 w) = 0 ∨ s.qstate (arg16 w) = 4) :
    exec (.qstateEnable q) s = .next (s.orFail q w (s.qcbBad (arg16 w)) (s.enableQueue (arg16 w))) := by
  change execQstateEnable q s = _
  refine queueOp_runs ht hq hw ho h0 hn hA (by decide) ?_
  rcases hs with hs | hs <;> simp [hs]
theorem qstateReset_done (hA : argA w = 2) (hs : s.qstate (arg16 w) = 0) (h6 : 6 ≤ s.qcbField (arg16 w) 0x10 1)
    (h16 : s.qcbField (arg16 w) 0x10 1 ≤ 16) (hm : s.ringMoving (arg16 w) = false) (hr : s.resetQueue (arg16 w) = .ok s1) :
    exec (.qstateReset q) s = .next (s1.settled q w false 0) := by
  change execQstateReset q s = _
  refine queueOp_runs ht hq hw ho h0 hn hA (by decide) ?_
  simp [hs, Nat.not_lt.2 h6, Nat.not_lt.2 h16, hm, hr]
end

/-! R64: debugging. -/

theorem dbgstop_done {key : Nat} {u : State} (ho : pay w 0 1 = 9) (ha : s.active (pid w) = true) (hn : arg16 w < 576)
    (hown : s.owns (pid w) (arg16 w / 12) = true) (hA : argA w < 3) (hk : key = arg16 w * 4 + argA w % 4)
    (hslot : (s.ctx key).slot ≠ .free) (hpart : (s.ctx key).part = pid w) (hkeep : (s.ctx key).keeper = none)
    (hgang : (s.task (s.ctx key).task).gang = none)
    (hroom : ((s.instances (s.ctx key).task).filterMap s.slotOfTask).length ≤ (s.freeSaves (pid w)).length)
    (hstop : s.stopTask (s.ctx key).task .held true = some u) :
    exec (.dbgstop q) s =
      .next ((u.modTask (s.ctx key).task fun x => { x with dbg := some (q, s.index q, compl w) }).accepted q) := by
  subst hk
  refine partOp_runs ht hq hw ho ?_
  simp [State.debugStop, ha, clusterOf, hown, Nat.not_le.2 hn, Nat.not_le.2 hA, hslot, hpart, hkeep, hgang, Nat.not_lt.2 hroom, hstop]
theorem dbgstop_refused (ho : pay w 0 1 = 9) (hn : 576 ≤ arg16 w) : exec (.dbgstop q) s = .next (s.settled q w true 0x5E) :=
  partOp_runs ht hq hw ho (by simp [State.debugStop, hn])
theorem dbgres_refused (ho : pay w 0 1 = 10) (hx : SMap.get? s.saves (saveKey (pid w) (argA w)) = none) :
    exec (.dbgres q) s = .next (s.settled q w true 0x5E) :=
  partOp_runs ht hq hw ho (by simp [State.debugGo, hx])
theorem dbgbrk_done (ho : pay w 0 1 = 11) (ha : s.active (pid w) = true) (hn : arg16 w < 4) (hA : argA w % 8 = 0) :
    exec (.dbgbrk q) s = .next ((s.setPart (pid w) { s.part (pid w) with
      brk := if argA w = 0 then SMap.del (s.part (pid w)).brk (arg16 w)
        else SMap.put (s.part (pid w)).brk (arg16 w) (word (argA w)) }).settled q w false 0) :=
  partOp_runs ht hq hw ho (by simp [ha, hn, hA, orFail_none])

theorem dbgres_done {x : SaveSlot} {t : Nat} (ho : pay w 0 1 = 10) (ha : s.active (pid w) = true) (hA : argA w < 2 ^ 32)
    (hn : arg16 w < 2) (hx : SMap.get? s.saves (saveKey (pid w) (argA w)) = some x) (htask : x.task = some t) (hheld : x.held = true)
    (hslot : s.slotOfTask t = none) (hgang : (s.task t).gang = none) (hlive : (s.task t).live? = true) :
    exec (.dbgres q) s = .next ((({ s.modTask t (fun y => { y with st := .preempted, stepping := bit (arg16 w) 0 }) with
      saves := (s.modTask t fun y => { y with st := .preempted, stepping := bit (arg16 w) 0 }).saves.map
        fun y => if y.2.task = some t then (y.1, { y.2 with held := false }) else y } : State).readyAgain t .preempted).settled
          q w false 0) := by
  have hall : (s.instances t).filter (fun i => (s.task i).live?) = [t] := by simp [State.instances, hgang, hlive]
  have hslot' : ([t].any fun i => (s.slotOfTask i).isSome) = false := by
    rw [List.any_eq_false]
    simp only [List.mem_singleton, forall_eq, hslot, Option.isSome_none, Bool.false_eq_true, not_false_eq_true]
  have hheld' : (((some x).filter (·.held)).bind (·.task)) = some t := by
    simp only [Option.filter_some, hheld, if_true, Option.bind_some, htask]
  have hok : (s.active (pid w) && argA w < 2 ^ 32 && arg16 w < 2 : Bool) = true := by
    simp only [ha, decide_eq_true hA, decide_eq_true hn, Bool.and_self]
  refine partOp_runs ht hq hw ho ?_
  simp only [State.debugGo, hok, if_true, hx, hheld', hall, hslot', Bool.false_eq_true, if_false, List.foldl_cons, List.foldl_nil,
    any_contains_singleton]

/-! R61: MOVE. -/

section
variable (ho : pay w 0 1 = 3) (hn : arg16 w < 48) (hm : ∀ m ∈ s.moves, m.cluster ≠ arg16 w)
  (hd : pid w = 0xFF ∨ s.active (pid w) = true ∧ s.descriptorBad (s.part (pid w)).desc = false)
include ho hn hm hd

theorem partMove_unowned (hown : s.ownerOf (arg16 w) = none) :
    exec (.partMove q) s =
      .next ((if pid w = 0xFF then s else s.passCluster (arg16 w) (some (pid w))).settled q w false 0) := by
  obtain ⟨hargs, hfree⟩ := partMove_arguments hn hm hd
  refine partOp_runs ht hq hw ho ?_
  simp only [State.movePart, hargs, hfree, hown, Bool.false_eq_true, if_false]
/-- An owned cluster: its partition must keep another one, and have save slots for the contexts that run there. -/
theorem partMove_owned {old : Nat} (hown : s.ownerOf (arg16 w) = some old) (hne : old ≠ pid w) :
    let keys := ((coresOf (arg16 w)).flatMap slotsOf).filter fun k => (s.ctx k).slot ≠ .free ∧ (s.ctx k).part = old
    let need := (keys.filter fun k => (s.ctx k).keeper = none ∧ (s.ctx k).slot ≠ .save).length
    let left := ((s.clustersOf old).filter fun k => !s.leaving old k).length
    exec (.partMove q) s = .next (if left ≤ 1 ∨ (s.freeSaves old).length < need then s.settled q w true 0x5E
      else if ∃ k ∈ keys, ∃ x ∈ s.rulesOf (s.ctx k).ruleOwner, x.2.st = .firing then s
      else (({ s.emptyDeques (arg16 w) with
        moves := s.moves ++ [⟨arg16 w, old, pid w, (s.freeSaves old).take need, [], compl w, q, s.index q⟩] } : State).accepted q).movesOn) := by
  obtain ⟨hargs, hfree⟩ := partMove_arguments hn hm hd
  refine partOp_runs ht hq hw ho ?_
  simp only [State.movePart, hargs, hfree, hown, hne, resident_eq, mustSave_eq, Bool.false_eq_true, if_false, Bool.or_eq_true,
    decide_eq_true_eq, List.any_eq_true]
end

end
end

/-! R67, R68: health monitors. -/

section
variable {s : State} {q : Nat} {w : List Word}

theorem moncfg_done (ht : (s.eng q).taken = some w) (hq : s.qstate q = 1) (hw : pkType w = 9) (hdie : pay w 0 1 < 4)
    (hmon : pay w 1 1 < 32) (hs1 : 1 ≤ pay w 2 1) (hs7 : pay w 2 1 < 7) (hmode : pay w 3 1 < 3)
    (hwin : pay w 3 1 ≠ 0 → 1000 ≤ pay w 8 8 ∧ inHbm (pay w 16 8) = true) :
    exec (.moncfg q) s = .next (({ s with
      monitors := SMap.put s.monitors (pay w 0 1 * 32 + pay w 1 1) { Monitor.empty with
        on := pay w 3 1 != 0, src := pay w 2 1, mode := pay w 3 1, sel := pay w 4 4, win := pay w 8 8, out := pay w 16 8,
        start := s.dtime.toNat, last := s.bclk } } : State).settled q w false 0) := by
  have hok : (pay w 3 1 != 0 && (pay w 8 8 < 1000 || !inHbm (pay w 16 8)) : Bool) = false := by
    by_cases h : pay w 3 1 = 0
    · simp [h]
    · obtain ⟨h1, h2⟩ := hwin h
      simp [Nat.not_lt.2 h1, h2]
  refine packet_runs ht hq (decide_eq_true hw) ?_
  simp [hok, Nat.not_le.2 hdie, Nat.not_le.2 hmon, Nat.ne_of_gt hs1, Nat.not_le.2 hs7, Nat.not_le.2 hmode, orFail_none]

section
variable {die mon : Nat} {m : Monitor} (hm : SMap.get? s.monitors (die * 32 + mon) = some m) (hon : m.on = true)
include hm hon

/-- R67: a periodic source is read every 1,024 bclk. -/
theorem periodicSample_takes {v : Nat} (hv : s.periodic m = some v) (hb : m.last + 1024 ≤ s.bclk) :
    exec (.monitorPeriodicSample die mon) s =
      .next { s with monitors := SMap.put s.monitors (die * 32 + mon) { m.take v with last := s.bclk } } := by
  change execMonitorPeriodicSample die mon s = _
  simp [execMonitorPeriodicSample, hm, hv, hon, hb]
/-- R68: a window's record, its event, and the next window. -/
theorem windowEnd_records (hw : m.start + m.win ≤ s.dtime.toNat) :
    exec (.monitorWindowEnd die mon) s = .next (({ s.store m.out m.record with
      monitors := SMap.put s.monitors (die * 32 + mon) { Monitor.empty with
        on := m.mode = 2, src := m.src, mode := m.mode, sel := m.sel, win := m.win, out := m.out, start := m.start + m.win,
        last := m.last } } : State).devEvent 0 8 0xFF (die * 32 + mon) (word m.out) 0) := by
  change execMonitorWindowEnd die mon s = _
  simp [execMonitorWindowEnd, hm, hon, Nat.not_lt.2 hw]
end

theorem periodic_pending {m : Monitor} (h : m.src = 4) :
    s.periodic m = some (word (s.qcbField m.sel 0 8) - word (s.qcbField m.sel 0x80 8)).toNat := by
  simp only [State.periodic, h]
theorem periodic_pages {m : Monitor} (h : m.src = 5) (hs : m.sel < 576) :
    s.periodic m = some (s.poolPages m.sel - s.freePages m.sel) := by
  have hcore : bit m.sel 15 = false := by simp only [bit, decide_eq_false_iff_not]; omega
  have hmod : m.sel % 2 ^ 12 = m.sel := Nat.mod_eq_of_lt (by omega)
  simp only [State.periodic, h, hcore, hmod, Bool.false_eq_true, if_false]

/-! R61, R62: the end of a reset and of a move. -/

theorem resetComplete_done {p : Nat} (hp : (s.part p).st = .resetting) (hc : ∀ x ∈ s.ctxs, x.2.slot = .free ∨ x.2.part ≠ p)
    (hj : ∀ x ∈ s.jobs, x.2.part ≠ p) : exec (.partitionResetComplete p) s = .next (s.resetDone p) := by
  have hctx : (s.ctxs.any fun x => x.2.slot != .free && x.2.part = p) = false := by
    simp only [List.any_eq_false, Bool.and_eq_true, bne_iff_ne, decide_eq_true_eq]
    exact fun x hx h => (hc x hx).elim h.1 fun hne => hne h.2
  have hjob : (s.jobs.any (·.2.part = p)) = false := by simpa using hj
  change execPartitionResetComplete p s = _
  simp [execPartitionResetComplete, hp, hctx, hjob]

/-- A slot that is free is in no slot. -/
theorem inSlot_free {c : Ctx} (h : c.slot = .free) : c.inSlot = false := by simp [Ctx.inSlot, h]

section
variable {m : Move} (hc : ∀ k ∈ (coresOf m.cluster).flatMap slotsOf, (s.ctx k).slot = .free ∨ (s.ctx k).part ≠ m.from_)
include hc

/-- R61 step 2 with no context left. -/
theorem moveSaves_none : s.moveSaves m = s := by
  have hstay : ∀ k ∈ (coresOf m.cluster).flatMap slotsOf, (!(s.ctx k).inSlot || (s.ctx k).part != m.from_) = true := by
    intro k hk
    rcases hc k hk with h | h
    · simp [inSlot_free h]
    · simp [h]
  unfold State.moveSaves
  generalize (coresOf m.cluster).flatMap slotsOf = l at hstay ⊢
  clear hc
  induction l with
  | nil => rfl
  | cons k l ih =>
    simp only [List.foldl_cons, hstay k List.mem_cons_self, if_true]
    exact ih fun j hj => hstay j (List.mem_cons_of_mem _ hj)
/-- R61 step 5: with no context and no tile of the old owner left the move ends. -/
theorem moveOn_ends (ht : m.tiles = []) (hl : s.clusterTiles m.from_ m.cluster = []) : s.moveOn m = s.endMove m := by
  have hctx : ((coresOf m.cluster).flatMap slotsOf).any (fun k => (s.ctx k).slot != .free && (s.ctx k).part = m.from_) = false := by
    simp only [List.any_eq_false, Bool.and_eq_true, bne_iff_ne, decide_eq_true_eq]
    exact fun k hk h => (hc k hk).elim h.1 fun hne => hne h.2
  simp only [State.moveOn, ht, moveSaves_none hc, hctx, hl, bne_self_eq_false, Bool.false_eq_true, if_false, List.foldl_nil,
    Nat.not_lt_zero, if_true]
end
end

/-! The statement. -/

/-- R60: a quota, by whether its guarantee and its cap fit the pool. -/
theorem partQuota_cases {s : State} {q : Nat} {w : List Word} (ht : (s.eng q).taken = some w) (hq : s.qstate q = 1)
    (hw : pkType w = 8) (ho : pay w 0 1 = 5) (ha : s.active (pid w) = true) (hn : arg16 w < 576) :
    let g := bits (argA w) 31 0
    let c := bits (argA w) 63 32
    let others := ((List.range 8).filter (· != pid w)).foldl (fun m o => m + (s.quota (arg16 w) o).g) 0
    (g ≤ c → c ≤ s.poolPages (arg16 w) → others + g ≤ s.poolPages (arg16 w) → exec (.partQuota q) s =
      .next (({ s with quotas := SMap.put s.quotas (arg16 w * 8 + pid w) ⟨g, c⟩ } : State).settled q w false 0)) ∧
    (c < g ∨ s.poolPages (arg16 w) < c ∨ s.poolPages (arg16 w) < others + g →
      exec (.partQuota q) s = .next (s.settled q w true 0x35)) := by
  intro g c others
  have hx := partQuota_eq ht hq hw ho ha hn
  refine ⟨fun h1 h2 h3 => ?_, fun h => ?_⟩
  · rw [hx, if_neg (by omega), orFail_none]
  · rw [hx, if_pos h, orFail_some]

/-- R61: what MOVE does with a cluster that no move is on. -/
theorem partMove_cases {s : State} {q : Nat} {w : List Word} (ht : (s.eng q).taken = some w) (hq : s.qstate q = 1)
    (hw : pkType w = 8) (old : Nat) (ho : pay w 0 1 = 3) (hn : arg16 w < 48) (hm : ∀ m ∈ s.moves, m.cluster ≠ arg16 w) :
    (pid w = 0xFF → s.ownerOf (arg16 w) = none → exec (.partMove q) s = .next (s.settled q w false 0)) ∧
    (s.active (pid w) = true → s.descriptorBad (s.part (pid w)).desc = false → s.ownerOf (arg16 w) = none →
      exec (.partMove q) s = .next ((s.passCluster (arg16 w) (some (pid w))).settled q w false 0)) ∧
    (pid w = 0xFF → s.ownerOf (arg16 w) = some old → old ≠ pid w → (s.clustersOf old).length ≤ 1 →
      exec (.partMove q) s = .next (s.settled q w true 0x5E)) ∧
    (pid w = 0xFF ∨ s.active (pid w) = true ∧ s.descriptorBad (s.part (pid w)).desc = false → s.ownerOf (arg16 w) = some old →
      old ≠ pid w →
      let keys := ((coresOf (arg16 w)).flatMap slotsOf).filter fun k => (s.ctx k).slot ≠ .free ∧ (s.ctx k).part = old
      let need := (keys.filter fun k => (s.ctx k).keeper = none ∧ (s.ctx k).slot ≠ .save).length
      let left := ((s.clustersOf old).filter fun k => !s.leaving old k).length
      (left ≤ 1 ∨ (s.freeSaves old).length < need → exec (.partMove q) s = .next (s.settled q w true 0x5E)) ∧
      (2 ≤ left → need ≤ (s.freeSaves old).length → (∀ k ∈ keys, ∀ x ∈ s.rulesOf (s.ctx k).ruleOwner, x.2.st ≠ .firing) →
        let m : Move := ⟨arg16 w, old, pid w, (s.freeSaves old).take need, [], compl w, q, s.index q⟩
        exec (.partMove q) s = .next (({ s.emptyDeques (arg16 w) with moves := s.moves ++ [m] } : State).accepted q).movesOn)) := by
  refine ⟨?nobody, ?receives, ?last, ?owned⟩
  case nobody =>
    intro hp hown
    rw [partMove_unowned ht hq hw ho hn hm (.inl hp) hown, if_pos hp]
  case receives =>
    intro ha hd hown
    have hp := active_lt ha
    rw [partMove_unowned ht hq hw ho hn hm (.inr ⟨ha, hd⟩) hown, if_neg (by omega)]
  case last =>
    intro hp hown hne hl
    rw [partMove_owned ht hq hw ho hn hm (.inl hp) hown hne, if_pos (.inl (Nat.le_trans (List.length_filter_le _ _) hl))]
  case owned =>
    intro hd hown hne keys need left
    have hx := partMove_owned ht hq hw ho hn hm hd hown hne
    refine ⟨fun h => ?_, fun hl hr hf => ?_⟩
    · rw [hx, if_pos h]
    · rw [hx, if_neg (not_or.2 ⟨Nat.not_le.2 hl, Nat.not_lt.2 hr⟩), if_neg fun ⟨k, hk, x, hxr, hst⟩ => hf k hk x hxr hst]

/-- Settles O50: every operation of a PART packet, MONCFG, a monitor's samples and windows, and the ends of a reset and of a move,
from the lemma of each. -/
theorem partitionOperations : Obligations.PartitionOperations := by
  intro s s1 q
  refine ⟨?_, ?moncfg, ?monitor, ?resetEnd, ?moveEnd⟩
  case moncfg => exact fun w ht hq hw => moncfg_done ht hq hw
  case monitor =>
    exact fun die mon m hm hon => ⟨fun h4 hb => periodicSample_takes hm hon (periodic_pending h4) hb,
      fun h5 hb hs => periodicSample_takes hm hon (periodic_pages h5 hs) hb, windowEnd_records hm hon⟩
  case resetEnd => exact fun p => resetComplete_done
  case moveEnd =>
    intro m hm htiles hc hl
    rw [State.movesOn, hm, List.foldl_cons, List.foldl_nil, moveOn_ends hc htiles hl]
  intro w ht hq hw op p n a ok no
  refine ⟨?create, ?createUsed, ?reset, ?resetUnused, ?move, ?weight, ?weightBad, ?quota, ?hbm, ?qassign, ?qstate, ?dbgstop, ?dbgstopBad,
    ?dbgresBad, ?dbgres, ?dbgbrk⟩
  case create => exact partCreate_done ht hq hw
  case createUsed => exact partCreate_used ht hq hw
  case reset => exact partReset_active ht hq hw
  case resetUnused => exact partReset_inactive ht hq hw
  case move => exact partMove_cases ht hq hw
  case weight => exact partWeight_done ht hq hw
  case weightBad => exact partWeight_refused ht hq hw
  case quota => exact partQuota_cases ht hq hw
  case hbm => exact partHbm_done ht hq hw
  case qassign => exact partQassign_done ht hq hw
  case qstate =>
    intro ho h0 hn
    refine ⟨qstateDisable_done ht hq hw ho h0 hn, fun hA hs => ?_, qstateReset_done ht hq hw ho h0 hn⟩
    have hx := qstateEnable_eq ht hq hw ho h0 hn hA hs
    exact ⟨fun hb => by rw [hx, hb, orFail_none], fun c hb => by rw [hx, hb, orFail_some]⟩
  case dbgstop => exact fun key u => dbgstop_done ht hq hw
  case dbgstopBad => exact dbgstop_refused ht hq hw
  case dbgresBad => exact fun ho _ hx => dbgres_refused ht hq hw ho hx
  case dbgres => exact fun x t => dbgres_done ht hq hw
  case dbgbrk => exact dbgbrk_done ht hq hw

end Sys2Proof.Machine
end
